-- ==== Sys2Proof/Word.lean ====
section
/-! DEFINITION. The word types of the Irbin G4 (spec 00 R3, 01 R9, R20, 09 R134). -/

namespace Sys2Proof

/-- A 32-bit register or instruction word (R9, R23). -/
abbrev Word := BitVec 32

/-- A 64-bit value held in a pair (R11). -/
abbrev DWord := BitVec 64

/-- One byte of memory (R3). -/
abbrev Byte := BitVec 8

/-- An 80-bit virtual address (R134). -/
abbrev Addr := BitVec 80

/-- The mask of the lanes of one sheaf (R96); bits at and above the width are 0. -/
abbrev Mask := BitVec 64

/-- The low word of a 64-bit value (R11). -/
abbrev DWord.lo (x : DWord) : Word := x.extractLsb' 0 32

/-- The high word of a 64-bit value (R11). -/
abbrev DWord.hi (x : DWord) : Word := x.extractLsb' 32 32

/-- The 64-bit value of a pair, low word in the lower register (R11). -/
abbrev DWord.ofPair (lo hi : Word) : DWord := hi ++ lo

end Sys2Proof
end

