-- ==== Sys2Proof/Syntax.lean ====
section
/-! DEFINITION. The abstract syntax: one constructor of `Instr` for each row of spec/opcode_table.json, the
instruction words (02 R23 to R34, 21 R307, R308) first and the steps without an encoding (95) after them. -/

namespace Sys2Proof

/-- A lane-set register number, all 64 codes of R26. -/
inductive LReg where
  | q (k : Fin 16)   -- result queue entry
  | n (k : Fin 32)   -- named register
  | g (k : Fin 8)    -- group-uniform register, read by every lane
  | h (k : Fin 8)    -- queue port
  deriving DecidableEq, Repr

/-- A lane-set source field with its last-use bit (R15, R24). -/
structure LSrc where
  reg : LReg
  last : Bool
  deriving DecidableEq, Repr

/-- A lane-set destination field (R26): push to the queue, a named register, a queue port. -/
inductive LDst where
  | push
  | n (k : Fin 32)
  | h (k : Fin 8)
  deriving DecidableEq, Repr

/-- The specials of R27, in operand order 48 to 55. -/
inductive Special where
  | sheaf | wg | gang | stage | width | wgsize | cycle | part
  deriving DecidableEq, Repr

/-- A group-set source, all 64 codes of R27. -/
inductive GSrc where
  | g (k : Fin 32)
  | b (k : Fin 16)
  | sp (s : Special)
  | h (k : Fin 8)
  deriving DecidableEq, Repr

/-- A group-set destination (R27). -/
inductive GDst where
  | g (k : Fin 32)
  | b (k : Fin 16)
  | h (k : Fin 8)
  deriving DecidableEq, Repr

/-- Integer type bits [3] and [2] of R28. -/
structure IntTy where
  w64 : Bool
  uns : Bool
  deriving DecidableEq, Repr

/-- Rounding modifier (R28, R47). -/
inductive Rnd where
  | rne | rtz | rdn | rup
  deriving DecidableEq, Repr

/-- Float type of lane R (R28). -/
inductive FTy where
  | f32 | f16 | bf16
  deriving DecidableEq, Repr

/-- Integer relations (R65). -/
inductive Rel where
  | eq | ne | lt | le | gt | ge
  deriving DecidableEq, Repr

/-- Float relations (R82). -/
inductive FRel where
  | eq | ne | lt | le | gt | ge | uo | or
  deriving DecidableEq, Repr

/-- Bit operations of `bit` (R64). -/
inductive BitOp where
  | popc | clz | ctz | brev | not
  deriving DecidableEq, Repr

/-- Packed element widths of `pack` and `unpk` (R87). -/
inductive PackW where
  | b4 | b8 | b16
  deriving DecidableEq, Repr

/-- The types of `dot` (R89) and the element format codes 0 to 6 (R51). -/
inductive ElemTy where
  | bf16 | f16 | e4m3 | e5m2 | e2m1 | i8 | i4
  deriving DecidableEq, Repr

/-- The format codes of `cvt` (R32). -/
inductive CvtTy where
  | f32 | f16 | bf16 | e4m3 | e5m2 | e2m1 | i32 | n32
  deriving DecidableEq, Repr

/-- Conditions of the lane-mask instructions (R120). -/
inductive LCond where
  | nz | z | eq | ne
  deriving DecidableEq, Repr

/-- Modes of `lpull` (R122). -/
inductive PullMode where
  | at | step | rot | mir
  deriving DecidableEq, Repr

/-- Reduction operators of `lred` (R123) and `cred` (R205). -/
inductive RedOp where
  | add | min | max | and | or | xor
  deriving DecidableEq, Repr

/-- Atomic operations (R31, R178). -/
inductive AtomOp where
  | add | and | or | xor | min | max | minn | maxn
  deriving DecidableEq, Repr

/-- Ordering modifiers (R28). -/
inductive Ord where
  | rlx | acq | rel | ar
  deriving DecidableEq, Repr

/-- Scopes (R160). -/
inductive Scope where
  | sh | wg | gg | dv | pd
  deriving DecidableEq, Repr

/-- The two byte formats of cell 0x41 and 0x42 loads zero-extend; the type is not encoded (R31), so a memory cell is
named by its size alone. A memory operand of format M: base pair, segment, signed scaled offset (R24). -/
structure MemM where
  base : LSrc
  seg : Fin 8
  off : BitVec 8
  deriving DecidableEq, Repr

/-- A memory operand of format A: no offset (R24). -/
structure MemA where
  base : LSrc
  seg : Fin 8
  scope : Scope
  ord : Ord
  deriving DecidableEq, Repr

/-- The thresher and tile-set names of format X (R24). -/
structure TileRef where
  t : Fin 4
  set : Fin 4
  deriving DecidableEq, Repr

/-- A lane-set register source of format X, without a last-use bit. -/
abbrev XReg := LReg

/-- A limit of `waitc` (R72): 15 is no limit. -/
abbrev WaitLim := BitVec 4

/-- Where a byte lives (09 R134, R135, R146): the physical memory of this device, an allocation of a core's granary
(site, identifier, byte offset), or another device. -/
inductive Place where
  | hbm (pa : Nat)
  | gran (site : Nat) (id : BitVec 16) (off : Nat)
  | pod (dev : Nat) (off : Nat)
  deriving DecidableEq, Repr

/-- A function of the package that has a bit in the readiness map (20 R302). -/
inductive Function where
  | core (site : Nat)
  | hbm (stack : Fin 12)
  | eth (port : Fin 2)
  | stor
  | app (core : Fin 16)
  | fwp (p : Fin 13)
  | link (port : Fin 64)
  deriving DecidableEq, Repr

/-- What an observer outside the compute cores does to memory (10 R159, R170): a load of n bytes, a store, an atomic
of 4 or 8 bytes, a compare-and-swap of 8 bytes (20 R299), a fence; an application core's LR and SC; of a port, n data writes to
come for a completion, one of them, and the write of the completion's entry; of a join's participant on another device, its
binding, its contribution, its arrival, its retraction with or without staying condemned (15 R244, 20 R294). -/
inductive ExtOp where
  | load (n : Nat)
  | store (bytes : List Byte)
  | amo (op : AtomOp) (w64 : Bool) (v : DWord)
  | cas (w64 : Bool) (cmp new : DWord)
  | fence
  | lr (w64 : Bool)
  | sc (w64 : Bool) (v : DWord)
  | announce (c n : Nat)
  | data (c : Nat) (bytes : List Byte)
  | entry (c : Nat) (bytes : List Byte)
  | joinBind (word : Word)
  | joinContrib (index : Nat) (l : List (Nat × BitVec 128))
  | joinArrive (index : Nat)
  | joinRetract (index : Nat) (stays : Bool)
  deriving DecidableEq, Repr

/-- An operation of an asynchronous engine: a copy or a tile operation, by number (18 R269). -/
inductive EngineOp where
  | copy (id : Nat)
  | tile (id : Nat)
  deriving DecidableEq, Repr

/-- What a new queue is for (R226, R297): whether a distributor serves it, and the host-table entries written with it. -/
structure QueueUse where
  dispatch : Bool
  map : List (BitVec 12 × Word)
  deriving DecidableEq, Repr

/-- Arithmetic clocks in MHz (R303): the clock now, and the one that stays once no fall is pending. -/
structure Clocks where
  now : Nat
  floor : Nat
  deriving DecidableEq, Repr

/-- One instruction word or one step of the opcode table. -/
inductive Instr where
  -- lane integer, R59 to R68
  | addR (ty : IntTy) (sat : Bool) (d : LDst) (a b : LSrc)
  | addI32 (d : LDst) (a : LSrc) (imm : BitVec 11)
  | addI64 (d : LDst) (a : LSrc) (imm : BitVec 11)
  | subR (ty : IntTy) (sat : Bool) (d : LDst) (a b : LSrc)
  | mulR (ty : IntTy) (sat : Bool) (d : LDst) (a b : LSrc)
  | mulhi (ty : IntTy) (d : LDst) (a b : LSrc)
  | mad (ty : IntTy) (sat : Bool) (a b c : LSrc)
  | divInt (ty : IntTy) (sat : Bool) (d : LDst) (a b : LSrc)
  | rem (ty : IntTy) (d : LDst) (a b : LSrc)
  | minInt (ty : IntTy) (d : LDst) (a b : LSrc)
  | maxInt (ty : IntTy) (d : LDst) (a b : LSrc)
  | cmpSigned (rel : Rel) (w64 : Bool) (d : LDst) (a b : LSrc)
  | cmpUnsigned (rel : Rel) (w64 : Bool) (d : LDst) (a b : LSrc)
  | andR (w64 : Bool) (d : LDst) (a b : LSrc)
  | orR (w64 : Bool) (d : LDst) (a b : LSrc)
  | xorR (w64 : Bool) (d : LDst) (a b : LSrc)
  | andI (d : LDst) (a : LSrc) (imm : BitVec 11)
  | orI (d : LDst) (a : LSrc) (imm : BitVec 11)
  | xorI (d : LDst) (a : LSrc) (imm : BitVec 11)
  | shlR (w64 : Bool) (d : LDst) (a b : LSrc)
  | shrR (w64 : Bool) (d : LDst) (a b : LSrc)
  | sarR (w64 : Bool) (d : LDst) (a b : LSrc)
  | shlI (w64 : Bool) (d : LDst) (a : LSrc) (c : BitVec 6)
  | shrI (w64 : Bool) (d : LDst) (a : LSrc) (c : BitVec 6)
  | sarI (w64 : Bool) (d : LDst) (a : LSrc) (c : BitVec 6)
  | bfx (sx : Bool) (a pos len : LSrc)
  | bfi (base ins ctl : LSrc)
  | bit (op : BitOp) (w64 : Bool) (d : LDst) (a : LSrc)
  | sel (c a b : LSrc)
  | movl (d : LDst) (imm : BitVec 16)
  | movs (d : LDst) (imm : BitVec 16)
  | movt (d : LDst) (imm : BitVec 16)
  | nget (d : LDst) (i : LSrc)
  | nset (i v : LSrc)
  -- lane float, R79 to R85
  | fadd (ty : FTy) (rnd : Rnd) (d : LDst) (a b : LSrc)
  | fsub (ty : FTy) (rnd : Rnd) (d : LDst) (a b : LSrc)
  | fmul (ty : FTy) (rnd : Rnd) (d : LDst) (a b : LSrc)
  | fdiv (ty : FTy) (rnd : Rnd) (d : LDst) (a b : LSrc)
  | fma (f16 : Bool) (rnd : Rnd) (a b c : LSrc)
  | fmin (ty : FTy) (d : LDst) (a b : LSrc)
  | fmax (ty : FTy) (d : LDst) (a b : LSrc)
  | fcmp (rel : FRel) (f16 : Bool) (d : LDst) (a b : LSrc)
  | abs (ty : FTy) (d : LDst) (a : LSrc) (spare : BitVec 7)
  | neg (ty : FTy) (d : LDst) (a : LSrc) (spare : BitVec 7)
  | csgn (ty : FTy) (d : LDst) (a b : LSrc)
  | rcp (rnd : Rnd) (d : LDst) (a : LSrc) (spare : BitVec 7)
  | rsqrt (rnd : Rnd) (d : LDst) (a : LSrc) (spare : BitVec 7)
  | sqrt (rnd : Rnd) (d : LDst) (a : LSrc) (spare : BitVec 7)
  | exp2 (rnd : Rnd) (d : LDst) (a : LSrc) (spare : BitVec 7)
  | log2 (rnd : Rnd) (d : LDst) (a : LSrc) (spare : BitVec 7)
  | class (ty : FTy) (d : LDst) (a : LSrc)
  -- conversion and packed forms, R86 to R90
  | cvt (dt st : CvtTy) (rnd : Rnd) (sat : Bool) (d : LDst) (a : LSrc)
  | pack (w : PackW) (d : LDst) (a b : LSrc)
  | unpk (w : PackW) (sx : Bool) (d : LDst) (a b : LSrc)
  | dot (ty : ElemTy) (a b c : LSrc)
  | scale (rnd : Rnd) (d : LDst) (a b : LSrc)
  -- lane mask, R119 to R123
  | laneid (d : LDst)
  | lmask (cond : LCond) (w64 : Bool) (d : LDst) (a : LSrc)
  | lcount (cond : LCond) (w64 : Bool) (d : LDst) (a : LSrc)
  | lrank (cond : LCond) (w64 : Bool) (d : LDst) (a : LSrc)
  | lpullR (mode : PullMode) (d : LDst) (a b : LSrc)
  | lpullI (mode : PullMode) (d : LDst) (a : LSrc) (v : BitVec 7)
  | lred (op : RedOp) (uns : Bool) (d : LDst) (a : LSrc) (spare : BitVec 7)
  -- plain memory, R69, R70
  | ldI8 (d : LDst) (m : MemM)
  | ldFp8 (d : LDst) (m : MemM)
  | ldH16 (d : LDst) (m : MemM)
  | ldW32 (d : LDst) (m : MemM)
  | ldD64 (d : LDst) (m : MemM)
  | ldq (d : LDst) (m : MemM)
  | stB8 (v : LReg) (m : MemM)
  | stH16 (v : LReg) (m : MemM)
  | stW32 (v : LReg) (m : MemM)
  | stD64 (v : LReg) (m : MemM)
  | stq (v : LReg) (m : MemM)
  -- ordered memory and atomics, R177 to R181
  | ldOrdered (w64 : Bool) (d : LDst) (m : MemA)
  | stOrdered (w64 : Bool) (v : LReg) (m : MemA)
  | atom32 (op : AtomOp) (v : LReg) (m : MemA)
  | atom64 (op : AtomOp) (v : LReg) (m : MemA)
  | xchg (w64 : Bool) (v : LReg) (m : MemA)
  | cas (w64 : Bool) (c : LReg) (m : MemA)
  | fence (ord : Ord) (scope : Scope)
  -- matrix, R251 to R255
  | mma (r : TileRef) (a : XReg) (bg : Fin 8) (f : XReg) (reuse zero : Bool)
  | accz (r : TileRef) (f : XReg)
  | accrd (r : TileRef) (d : XReg) (col : Fin 8) (f : XReg) (sat : Bool)
  | accwr (r : TileRef) (s : XReg) (col : Fin 8) (f : XReg)
  -- group arithmetic, R114
  | gAddR (ty : IntTy) (sat : Bool) (d : GDst) (a b : GSrc)
  | gAddI (d : GDst) (a : GSrc) (imm : BitVec 12)
  | gSub (ty : IntTy) (sat : Bool) (d : GDst) (a b : GSrc)
  | gMul (ty : IntTy) (sat : Bool) (d : GDst) (a b : GSrc)
  | gMulhi (ty : IntTy) (d : GDst) (a b : GSrc)
  | gMin (ty : IntTy) (d : GDst) (a b : GSrc)
  | gMax (ty : IntTy) (d : GDst) (a b : GSrc)
  | gCmp (rel : Rel) (uns w64 : Bool) (d : GDst) (a b : GSrc)
  | gAndR (w64 : Bool) (d : GDst) (a b : GSrc)
  | gOrR (w64 : Bool) (d : GDst) (a b : GSrc)
  | gXorR (w64 : Bool) (d : GDst) (a b : GSrc)
  | gAndI (d : GDst) (a : GSrc) (imm : BitVec 12)
  | gOrI (d : GDst) (a : GSrc) (imm : BitVec 12)
  | gXorI (d : GDst) (a : GSrc) (imm : BitVec 12)
  | gShlR (w64 : Bool) (d : GDst) (a b : GSrc)
  | gShrR (w64 : Bool) (d : GDst) (a b : GSrc)
  | gSarR (w64 : Bool) (d : GDst) (a b : GSrc)
  | gShlI (w64 : Bool) (d : GDst) (a : GSrc) (c : BitVec 6)
  | gShrI (w64 : Bool) (d : GDst) (a : GSrc) (c : BitVec 6)
  | gSarI (w64 : Bool) (d : GDst) (a : GSrc) (c : BitVec 6)
  | gBit (op : BitOp) (w64 : Bool) (d : GDst) (a : GSrc)
  | gBfx (sx : Bool) (d : GDst) (a ctl : GSrc)
  | gMov (d : GDst) (a : GSrc)
  | gMovl (d : GDst) (imm : BitVec 16)
  | gMovs (d : GDst) (imm : BitVec 16)
  | gMovt (d : GDst) (imm : BitVec 16)
  -- lanes to the sheaf, R116
  | rdlane (d : GDst) (a : LReg) (i : GSrc)
  | rdfirst (d : GDst) (a : LReg)
  | amask (d : GDst)
  -- control, R74 to R76, R97 to R100
  | br (off : BitVec 18)
  | bz (c : GSrc) (off : BitVec 18)
  | bnz (c : GSrc) (off : BitVec 18)
  | call (off : BitVec 18)
  | jmp (p : GSrc)
  | brl (c : LReg) (off : BitVec 18)
  | brlz (c : LReg) (off : BitVec 18)
  -- waits, R72, R124 to R128, R182, R247
  | waitc (lds sts cps tls : WaitLim)
  | sleep (n : BitVec 12)
  | tmset (p : GSrc)
  | watch (scope : Scope) (seg : Fin 8) (p e : GSrc)
  | await (seg : Fin 8) (p gen : GSrc)
  -- copies and leases, R246, R250, R252
  | copy (desc : GSrc) (arr : GSrc) (seg : Fin 8)
  | copyNa (desc : GSrc)
  | copy2d (desc : GSrc) (arr : GSrc) (seg : Fin 8)
  | copy2dNa (desc : GSrc)
  | mcast (desc : GSrc) (m : GSrc)
  | cred (op : RedOp) (desc : GSrc) (id : GSrc)
  | mlease (t : Fin 4)
  | mpass (t : Fin 4)
  | mfree (t : Fin 4)
  -- queues, tasks, futures, joins, R248 to R261
  | qbind (push : Bool) (port : Fin 8) (id : GSrc)
  | qpopRec (d : LReg) (port : Fin 8)
  | qpushRec (a : LReg) (port : Fin 8)
  | qunbind (port : Fin 8)
  | spawn (p : GSrc)
  | depset (p c : GSrc)
  | depdec (p : GSrc)
  | fread (d : GDst) (p c : GSrc)
  | fwrite (d : GDst) (p v : GSrc)
  | jbind (j : Fin 4) (p w : GSrc)
  | qcontrib (j : Fin 4) (a : LReg) (e : GSrc)
  | qcontribRow (j : Fin 4) (ctl e : GSrc)
  | qarrive (j : Fin 4)
  | qkpt (j : Fin 4)
  | qwait (j : Fin 4)
  -- segments and granary, R184 to R192
  | setsegBase (seg : Fin 8) (x : GSrc)
  | setsegLast (seg : Fin 8) (x : GSrc)
  | setsegHi (seg : Fin 8) (x : GSrc)
  | setsegClr (seg : Fin 8)
  | getseg (part : Fin 4) (seg : Fin 8) (d : GDst)
  | grant (d : GDst) (ctl : GSrc) (attr : GSrc)
  | grantRelight (d : GDst) (ctl : GSrc) (attr : GSrc)
  | gfree (a : GSrc)
  | grank (a r : GSrc)
  | shadow (a : GSrc)
  | gstatLevel (d : GDst)
  | gstatAlloc (d : GDst) (a : GSrc)
  | tsread (d : GDst)
  | ctrd (d : GDst) (slot : Fin 16)
  -- traps and handlers, R267, R272 to R275, R129
  | trap (c : BitVec 12)
  | syscall (c : BitVec 12)
  | brk (c : BitVec 12)
  | qfrd (d : LDst) (k : Fin 16)
  | saveopq (p : GSrc) (seg : Fin 8)
  | loadopq (p : GSrc) (seg : Fin 8)
  | enter (a : GSrc)
  -- Xirbcp, R308
  | ringf (rd rs1 rs2 : Fin 32)
  | bfe (rd rs1 rs2 : Fin 32)
  | sigw (rd rs1 : Fin 32)
  | disp (rd rs1 rs2 : Fin 32)
  -- steps without an encoding (95): what the outside agent brings stands in the fields
  | wordNotInstruction (w : Word)
  | loadDataArrival (acc : Nat) (fresh : Bool)
  | storePerform (acc : Nat)
  | atomicPerform (acc : Nat)
  | lightFaultService (asid : BitVec 16) (va : Addr) (write : Bool)
  | trapEntry (k : Nat)
  | sheafEnd (k : Nat)
  | workgroupPlacement (part : Fin 16)
  | waitEviction (part : Fin 16)
  | queuePortDeschedule (k : Nat)
  | starvationGuard (k : Nat) (group : Bool)
  | sleepWake (k : Nat)
  | timerTrap (k : Nat)
  | watchReread (k : Nat)
  | awaitReread (k : Nat)
  | levelNotice (die : Fin 4) (level : Nat)
  | levelRise (die : Fin 4) (level : Nat)
  | lossPoint (die : Fin 4)
  | siloRetirement (site : Nat)
  | relocationComplete (site : Nat)
  | granuleUncorrectable (site : Nat) (id : BitVec 16)
  | engineFault (op : EngineOp) (code : Word)
  | regionRestart (k : Nat)
  | copyChunkLand (id : Nat) (chunk : Nat)
  | tileOperationComplete (id : Nat)
  | shadowWritebackComplete (site : Nat) (id : BitVec 16)
  | pushWindowBell (app : Fin 16) (queue : Nat)
  | feed (part : Fin 16) (id : BitVec 12) (records : List (List Word))
  | taskRecordPop (queue : Nat)
  | launchRecordPop (queue : Nat)
  | taskCompletion (wg : Nat)
  | taskRequeue (wg : Nat)
  | queueCreate (queue : Nat) (ring : Place) (log2 : Nat) (part : Fin 16) (owner : Fin 8) (dispatch : QueueUse)
  | queueDestroy (queue : Nat)
  | queueDead (queue : Nat)
  | queueReset (queue : Nat)
  | queueUnmap (part : Fin 16) (id : BitVec 12)
  | joinFinalise (j : Nat)
  | condemnedFlag (j : Nat) (index : Nat)
  | routeRecompute (die : Fin 4) (site : Nat)
  | shootDown (asid : BitVec 16) (lo hi : Addr)
  | shootDownAck (id : Nat) (holder : Nat)
  | linkPortFailure (port : Fin 64)
  | partitionReset (part : Fin 16)
  | rdmaOperation (port : Fin 2) (asid : BitVec 16) (va : Addr) (op : ExtOp)
  | ethernetFailover (port : Fin 2)
  | ptpCorrection (ns : Int)
  | nvmeAttach (slot : Fin 8) (cls : BitVec 24)
  | functionReady (f : Function)
  | budgetChange (watts : Nat) (levels : List Nat) (clock : Clocks)
  | coreRetirement (site : Nat)
  | frameRetirement (stack : Fin 12) (frame spare : BitVec 36)
  | hbmUncorrectable (k : Nat) (frame : BitVec 36)
  | firmwareProcessorFailure (p : Fin 13)
  | spatialPreemption (part : Fin 16) (n : Nat)
  | preemptionRequest (k : Nat)
  | timeSliceExpiry (k : Nat)
  | commandRecordReject (part : Fin 16)
  | receiptRequest (part : Fin 16)
  | receiptResume (part : Fin 16)
  | attestationRequest (part : Fin 16)
  | codeObjectLoad (part : Fin 16) (asid : BitVec 16) (base : BitVec 64) (len : Nat)
  | firmwareLoad (image : List Byte)
  | profilingSample (part : Fin 16) (site : Nat) (sched : Fin 4)
  | counterSlotWrite (part : Fin 16) (slot : Fin 16) (w : Word)
  | counterValueWrite (part : Fin 16) (slot : Fin 16) (v : DWord)
  | counterPageWrite (part : Fin 16) (off : BitVec 12) (v : DWord)
  | debuggerHalt (k : Nat)
  | debuggerResume (k : Nat)
  -- steps of outside agents (Lean's runtime builds no constructor with fields beyond the 244th; these stand last of those)
  | applicationCoreFailure (core : Fin 16)
  | eventBitmapChange (part : Fin 16) (event : BitVec 12) (allow : Bool) (mode : Bool)
  | applicationCoreAccess (core : Fin 16) (asid : BitVec 16) (va : Addr) (op : ExtOp)
  | podRequestArrival (dev : BitVec 13) (pid : BitVec 16) (va : Addr) (op : ExtOp)
  | nvmeDma (slot : Fin 8) (asid : BitVec 16) (va : Addr) (op : ExtOp)
  | routeTableWrite (dev : BitVec 13) (ports : List (Fin 64))
  -- instructions and steps without a field
  | ret
  | merge
  | exit
  | nop
  | barWg
  | barGg
  | yield
  | mfence
  | lret
  | tret
  | rgnBegin
  | rgnEnd
  | leave
  | holdPoint
  | commitPoint
  | handoverAbort
  | memoryProcessorHandover
  deriving DecidableEq, Repr

end Sys2Proof
end

