-- ==== Sys2Proof/Config.lean ====
section
/-! DEFINITION. What the spec fixes for every machine, and the free values: opaque constants without a body, so that no
proof can see what they are (log 5). -/

namespace Sys2Proof.Config

/-! ### Figures of the package (00 R7, 06 R91, R93, 09 R141, R142) -/

/-- Core sites of a compute die (R285). -/
def sitesPerDie : Nat := 104
/-- Silos of a core (R141). -/
def silos : Nat := 24
/-- Granules of a silo (09, the granary). -/
def granulesPerSilo : Nat := 16
/-- Bytes of a granule. -/
def granuleBytes : Nat := 16384
/-- Register file of a core in bytes (R7, R109). -/
def regFileBytes : Nat := 1536 * 1024
/-- Slots of a core (R91). -/
def slots : Nat := 128
/-- Workgroups resident on a core (R93). -/
def maxResident : Nat := 32
/-- Cycles from a notice to its loss point at the earliest (R149). -/
def noticeCycles : Nat := 35000
/-- Cycles after which a watch or an await reads its word again (R182, R247). -/
def rereadCycles : Nat := 65536
/-- Cycles a port instruction stalls before its sheaf is descheduled (R105). -/
def portStallCycles : Nat := 256
/-- Cycles after which a ready sheaf goes first (R107). -/
def guardCycles : Nat := 4096
/-- Bytes of the granary window (R146). -/
def windowBytes : Nat := 0x800000
/-- Base of the granary aperture (R146). -/
def apertureBase : Nat := 0x7FFFFFFFFF0000000000
/-- First alias range, as an offset in the aperture (R146). -/
def aliasBase : Nat := 0x1000000000
/-- Bytes of an alias range (R146). -/
def aliasBytes : Nat := 0x8000000
/-- Bytes of an L1 line, and of the line a watch waits on (log 8). -/
def lineBytes : Nat := 64
/-- Bytes of HBM: 12 stacks of 64 GiB, physical addresses 0 on (R7, log 34). -/
def hbmBytes : Nat := 768 * 2 ^ 30
/-- Physical address of the readiness map, behind the HBM (R302, log 34). -/
def readyPage : Nat := 768 * 2 ^ 30
/-- Enabled cores of a compute die (R7). -/
def coresPerDie : Nat := 96
/-- Bytes of a signature (R313). -/
def signatureBytes : Nat := 49856

/-! ### Free values (log 5). The first argument is `State.free` at the use, so each use has its own value. -/

/-- A read of a reserved register before a covering waitc (R22, R73), and matrix data touched early (R218). -/
opaque undef : Nat → Nat → Nat → Word
/-- Cycles a step takes beyond one (log 6). -/
opaque extraCycles : Nat → Nat
/-- How many more writes of a block register a sheaf sees at a read than it saw before (R104, log 12). -/
opaque seesMore : Nat → Nat → Nat
/-- Where undefined control flow goes: the program counter of a split (R102). -/
opaque strayPc : Nat → Nat → BitVec 78
/-- Whether a holder still has a translation it once loaded (log 9). -/
opaque keepsTranslation : Nat → Bool
/-- A byte in the overlap of a copy's source and destination (R200, log 15). -/
opaque overlapByte : Nat → Nat → Byte
/-- A byte of an opaque block (R274, log 18). -/
opaque opaqueByte : Nat → Nat → Byte
/-- A byte of the random string of a signature (R313, log 17). -/
opaque signRandom : Nat → Nat → Byte
/-- What has been sent to a signal word of a firmware core that was zero (R308, log 20). -/
opaque signalWord : Nat → Nat → Nat → Word
/-- The interrupts pending at a firmware core (R308, log 20). -/
opaque fwInterrupts : Nat → Nat → Word
/-- Bytes left undefined at a destination by a fault that ends a write part-way (R190, R312). -/
opaque brokenByte : Nat → Nat → Byte
/-- The engine's own code of an engine fault that no event brings (R271, AUX). -/
opaque engineCode : Nat → Word
/-- The compute die whose slices own a physical address or a join block (R140, R244, R285; log 21). -/
opaque homeDie : Nat → Nat
/-- Where between two of its nanoseconds the PTP clock stands when a step begins (R300, log 29). -/
opaque clockStep : Nat → Nat

end Sys2Proof.Config
end

