-- ==== Sys2Proof/Machine/Mesh.lean ====
section
/-! DEFINITION. The mesh of a compute die and its routing tree (20 R285, R288). -/

namespace Sys2Proof.Machine

/-- The core routers beside router k of a die: column k mod 13, row k div 13 (R285). -/
def meshBeside (k : Nat) : List Nat :=
  (if 0 < k % 13 then [k - 1] else []) ++ (if k % 13 < 12 then [k + 1] else []) ++
  (if 13 ≤ k then [k - 13] else []) ++ (if k + 13 < Config.sitesPerDie then [k + 13] else [])

/-- One breadth-first round: routers beside the last ones reached get the next depth. -/
def treeRound (dead : List Nat) (depth : Nat) (last : List Nat) (d : List (Option Nat)) : List Nat × List (Option Nat) :=
  let new := (List.range Config.sitesPerDie).filter (fun k => d[k]? == some none && !dead.contains k &&
    (meshBeside k).any last.contains)
  (new, (List.range Config.sitesPerDie).map (fun k => if new.contains k then some depth else (d[k]?).join))

/-- Breadth-first rounds until no router is reached. -/
def treeRounds (dead : List Nat) : Nat → Nat → List Nat → List (Option Nat) → List (Option Nat)
  | 0, _, _, d => d
  | fuel + 1, depth, last, d =>
    if last.isEmpty then d
    else
      let (new, d') := treeRound dead depth last d
      treeRounds dead fuel (depth + 1) new d'

/-- The depth of each core router in the spanning tree, which starts from the lowest-numbered live one (R288). -/
def treeDepths (dead : List Nat) : List (Option Nat) :=
  match (List.range Config.sitesPerDie).find? (fun k => !dead.contains k) with
  | none => List.replicate Config.sitesPerDie none
  | some root =>
    treeRounds dead Config.sitesPerDie 1 [root]
      ((List.range Config.sitesPerDie).map (fun k => if k = root then some 0 else none))

/-- Whether a hop between neighbours is up (R288): towards smaller depth, between equal depths towards the lower number. -/
def isUp (depths : List (Option Nat)) (a b : Nat) : Bool :=
  match (depths[a]?).join, (depths[b]?).join with
  | some x, some y => y < x || (y == x && b < a)
  | _, _ => false

/-- Whether a path is a legal route (R288): up hops, then down hops, over live neighbours. -/
def legalRoute (depths : List (Option Nat)) : Bool → List Nat → Bool
  | _, [] => true
  | _, [a] => ((depths[a]?).join).isSome
  | up, a :: b :: rest =>
    (meshBeside a).contains b && ((depths[a]?).join).isSome && ((depths[b]?).join).isSome &&
    (if isUp depths a b then up && legalRoute depths up (b :: rest) else legalRoute depths false (b :: rest))

/-- The hops from each router to a destination over legal routes: where up hops are still allowed, and where they are not. -/
structure Hops where
  up : List (Option Nat)
  down : List (Option Nat)

/-- Whether a router is n hops away, for a hop that goes up or down. -/
def Hops.at (h : Hops) (goesUp : Bool) (b n : Nat) : Bool := ((if goesUp then h.up else h.down)[b]?).join == some n

/-- Routers that reach the destination in n + 1 hops, over a neighbour that does so in n. -/
def hopRound (depths : List (Option Nat)) (n : Nat) (h : Hops) : Hops :=
  let hop (upOk : Bool) (a : Nat) : Bool := ((depths[a]?).join).isSome && (meshBeside a).any (fun b =>
    let u := isUp depths a b
    ((depths[b]?).join).isSome && (upOk || !u) && h.at u b n)
  let next (upOk : Bool) (l : List (Option Nat)) : List (Option Nat) :=
    mapIdxR (fun a x => if x.isSome then x else if hop upOk a then some (n + 1) else none) 0 l
  ⟨next true h.up, next false h.down⟩
where
  /-- A function of position and element over a list. -/
  mapIdxR (f : Nat → Option Nat → Option Nat) : Nat → List (Option Nat) → List (Option Nat)
    | _, [] => []
    | i, x :: l => f i x :: mapIdxR f (i + 1) l

/-- Rounds until every router that can reach the destination has its hops. -/
def hopRounds (depths : List (Option Nat)) : Nat → Nat → Hops → Hops
  | 0, _, h => h
  | fuel + 1, n, h => hopRounds depths fuel (n + 1) (hopRound depths n h)

/-- The hops to a destination (R288). -/
def hopsTo (depths : List (Option Nat)) (dest : Nat) : Hops :=
  let start := (List.range Config.sitesPerDie).map (fun k => if k = dest then some 0 else none)
  hopRounds depths (2 * Config.sitesPerDie) 0 ⟨start, start⟩

/-- Where a router sends a flit (R288): along a shortest legal route, by the lowest output port; ports are numbered in the order
of `meshBeside` (log 21). -/
def nextRouter (depths : List (Option Nat)) (dest : Nat) (upOk : Bool) (a : Nat) : Option Nat :=
  let h := hopsTo depths dest
  match ((if upOk then h.up else h.down)[a]?).join with
  | some (n + 1) => (meshBeside a).find? (fun b =>
      let u := isUp depths a b
      ((depths[b]?).join).isSome && (upOk || !u) && h.at u b n)
  | _ => none

end Sys2Proof.Machine
end

