-- ==== Sys2Proof/Machine/State.lean ====
section
/-! DEFINITION. The state of the Irbin G4, all of it plain data (INVENTORY.md, State), the reasons a step can stop, and
the machine right after reset. -/

namespace Sys2Proof.Machine

/-! ### Reasons to stop -/

/-- Why the machine stops with a fault. -/
inductive Fault where
  /-- Raised by `exec` for an instruction word when no sheaf, or no running split of it, issues. Safe: no hardware
  issues an instruction without a split. -/
  | noSplit
  /-- Raised by `exec` for a Xirbcp word when no firmware core issues. Safe, as above. -/
  | noFirmwareCore
  deriving DecidableEq, Repr

/-- Why a step is refused. -/
inductive Refusal where
  /-- An instruction without a meaning yet. -/
  | notModelled (mnemonic : String)
  deriving DecidableEq, Repr

/-- A memory: (address, byte) pairs, addresses strictly rising, no byte 0 listed (log 1). -/
abbrev Memory := List Host.Cell

/-! ### Lanes -/

/-- What reserves an entry (R22): the operation, the index of its word, and whether the data are there, though no `waitc` has
covered them. -/
structure Reserve where
  op : Nat
  idx : Nat
  here : Bool
  deriving DecidableEq, Repr

/-- A queue entry or named register: value, live or dead (R9), and what reserves it (R22). -/
structure Entry where
  val : Word
  live : Bool
  rsv : Option Reserve
  deriving DecidableEq, Repr

/-- A dead zero (R9). -/
def Entry.dead : Entry := ⟨0, false, none⟩

/-- One lane: result queue (16), named registers (32), frozen queue (16) (R9, R270). -/
structure Lane where
  q : List Entry
  n : List Entry
  frozen : List Entry
  deriving DecidableEq, Repr

/-- A lane at launch (R9). -/
def Lane.launch : Lane := ⟨List.replicate 16 Entry.dead, List.replicate 32 Entry.dead, List.replicate 16 Entry.dead⟩

/-! ### Splits and control state -/

/-- The operands of one lane (or of the sheaf) captured for a replay (R138): address formed and data read. -/
structure Captured where
  lane : Nat
  ea : Addr
  data : List Word
  deriving DecidableEq, Repr

/-- The operation whose counter a first issue raised, and whether it counts as a store (R71). -/
structure OpenOp where
  op : Nat
  store : Bool
  deriving DecidableEq, Repr

/-- A replay in progress: the lanes still to be served, the captured operands, and the operation that its first issue
raised, which stays counted until the replay is over (R138, R71). -/
structure Replay where
  mask : Mask
  op : Option OpenOp
  caps : List Captured
  deriving DecidableEq, Repr

/-- What an instruction needs of a queue: words to pop, or records of room to push into (R105). -/
structure PortNeed where
  q : Nat
  push : Bool
  words : Nat
  deriving DecidableEq, Repr

/-- A split table entry (R96). The program counter is held without its two low bits, which are always 0 (R20). The
entries of a sheaf stand oldest first, which is their age. -/
structure Split where
  pc : BitVec 78
  mask : Mask
  parked : Bool
  again : Bool             -- left the park at a `bar` or `rgn.begin`, which it issues again (R124, R267)
  stall : Nat              -- stall reason of the last attempt (R318), 0 for none
  tried : Bool             -- stalled, and nothing has happened since that could let it issue
  since : Nat              -- cycle at which a port stall began (R105)
  needs : List PortNeed    -- what that stalled instruction needs of its queues
  replay : Option Replay
  deriving DecidableEq, Repr

/-- A reconvergence stack element (R96). -/
structure Deferred where
  pc : BitVec 78
  mask : Mask
  parked : Bool
  deriving DecidableEq, Repr

/-- A fault-parked group (R265): the lanes, their faulting instruction, and whether the pending fault is theirs. -/
structure FaultGroup where
  pc : BitVec 78
  mask : Mask
  recorded : Bool
  deriving DecidableEq, Repr

/-- The control state a handler interrupts and the opaque block holds (R270, R274). -/
structure Ctl where
  splits : List Split
  stack : List Deferred            -- top first
  groups : List FaultGroup
  origin : Option (BitVec 78 × Mask)   -- open region (R267)
  restarts : Nat
  cmp : DWord                      -- cycle comparator (R128)
  deriving DecidableEq, Repr

/-- The fields of a fault record that its event fixes (R271). -/
structure FaultRec where
  code : Nat
  opnd : Nat
  imm : BitVec 12
  word : Word
  pc : BitVec 78
  lanes : Mask
  addr : Addr
  alloc : BitVec 16
  aux : Word
  rpc : DWord
  save : DWord
  restore : Bool
  target : DWord           -- the trap entry, or HANDLER for a loss
  site : Nat               -- of the allocation a loss fault names
  deriving DecidableEq, Repr

/-- A trap or glean handler in progress (R270, R154). -/
structure Handler where
  glean : Bool
  fault : FaultRec
  saved : Ctl
  site : Nat               -- of the allocation a glean handler settles
  id : BitVec 16
  no : Nat                 -- tells it from other handlers of the sheaf (R333)
  deriving DecidableEq, Repr

/-- A segment descriptor (R18); bits [191:145] read as 0. -/
structure Segment where
  base : Addr
  last : DWord
  v : Bool
  deriving DecidableEq, Repr

/-- Page ordering kinds (R136). -/
inductive PageKind where
  | so | rc | un
  deriving DecidableEq, Repr

/-- What a descheduled sheaf waits for (R110, R138, R153, R244, R190). -/
inductive Wait where
  | watch (seg : Fin 8) (ea : Addr) (pl : Place) (scope : Scope) (e : Word) (since : Nat)
  | await (seg : Fin 8) (ea : Addr) (pl : Place) (gen : BitVec 16) (since : Nat)
  | barWg
  | barGg
  | port (needs : List PortNeed)
  | lease (t : Fin 4)
  | quorum (j : Nat) (gen : BitVec 16)
  | loss (site : Nat) (id : BitVec 16)
  | replay (asid : BitVec 16) (va : Addr) (write : Bool)
  | table
  | shadow (site : Nat) (id : BitVec 16)
  deriving DecidableEq, Repr

/-- A bound queue port (R248, R297): the queue it translated to, direction, words done of the record in progress, its index. -/
structure Port where
  q : Nat
  inc : Nat
  push : Bool
  words : Nat
  slot : Nat
  deriving DecidableEq, Repr

/-- A fragment with its scale, of one lane (R213, R217): the register it came from, whether a scale register was read, and the
operation that reads them. -/
structure Latch where
  lane : Nat
  frag : List Word
  scale : Byte
  reg : Nat
  scaled : Bool
  fill : Nat
  deriving DecidableEq, Repr

/-- Where a sheaf stands in a context save (R277 to R279). -/
inductive SaveStage where
  | none | due | saving | saved | restoreDue
  deriving DecidableEq, Repr

/-- One sheaf. -/
structure Sheaf where
  age : Nat
  wg : Nat                 -- key of its workgroup
  sidx : Nat               -- %sheaf
  slot : Nat
  pos : Nat
  width : Nat
  named : Nat
  strict : Bool
  trapEntry : DWord
  lanes : List Lane
  g : List Word
  segs : List Segment
  ctl : Ctl
  loads : Nat
  stores : Nat
  copies : Nat
  tiles : Nat
  rmarks : List (BitVec 16)        -- region marks (R129)
  rdepth : Nat
  sleep : Option Nat
  wait : Option Wait
  recorded : Option Wait          -- recorded by a save (R183, R277)
  nap : Option Nat                 -- the end of a sleep that a save met (R127)
  ports : List (Option Port)
  pend : Option FaultRec
  hand : Option Handler
  engine : Option FaultRec         -- held engine fault (R333)
  restarting : Bool                -- a region restart is due (R269)
  smashed : Bool                   -- a store has reached the area of its spilled stack elements (R102)
  preempt : Bool                   -- PEND [12]
  slice : Bool                     -- PEND [13]
  timer : Bool                     -- PEND [14]
  haltReq : Bool
  halted : Bool
  saving : SaveStage
  latches : List (List Latch)
  seen : List Nat                  -- of each block register, how many of `Workgroup.bpast` it has seen (R104)
  lastLane : Nat                   -- cycle of the last issue on the lane pipe (R107)
  lastGroup : Nat
  nextFirst : Bool                 -- chosen by the starvation guard on the lane pipe (R107)
  nextFirstG : Bool                -- on the group pipe
  yielded : Bool                   -- gave way: the next choice of the lane pipe passes it over (R126)
  yieldedG : Bool                  -- of the group pipe
  ended : Bool
  deriving DecidableEq, Repr

/-! ### Workgroups, gangs, grids -/

/-- A declared or granted allocation as a descriptor gives it (R142). -/
structure AllocDecl where
  size : Nat
  rank : Nat
  handler : DWord
  backing : DWord
  deriving DecidableEq, Repr

/-- The fields of a kernel descriptor (R329). -/
structure Kernel where
  width : Nat
  named : Nat
  strict : Bool
  idemp : Bool
  stages : Nat
  entry : DWord
  trape : DWord
  stack : Nat
  allocs : List AllocDecl
  acc : List Nat                   -- tile sets declared on t0 to t3
  deriving DecidableEq, Repr

/-- Allocation states (R145). -/
inductive AllocState where
  | lit | dark | refilling | shadowed
  deriving DecidableEq, Repr

/-- An allocation entry with its bytes (R142, R145). -/
structure Alloc where
  id : BitVec 16
  state : AllocState
  rank : Nat
  decl : Bool
  relit : Bool
  woff : Nat
  size : Nat                       -- granules
  seq : Nat
  handler : DWord
  backing : DWord
  wg : Nat
  handSheaf : Option Nat           -- fixed by the first touch (R153)
  writeback : Option Nat           -- sheaf whose shadow writes it back (R190)
  journal : Bool                   -- kept for a join after its owner's end (R259)
  data : Memory
  deriving DecidableEq, Repr

/-- A binding in a quorum register (R237). -/
structure Binding where
  join : Nat                       -- key of the quorum-table entry
  block : DWord
  gen : BitVec 16
  index : Nat
  condemned : Bool                 -- the flag has reached the core (R261)
  settled : Bool                   -- R281
  deriving DecidableEq, Repr

/-- What the distributor keeps of a binding of a killed gang for its relaunch (R281), and how it stood at the kill: its
generation finalised, its participant condemned. -/
structure Kept where
  block : DWord
  index : Nat
  gen : BitVec 16
  final : Bool
  condemned : Bool
  deriving DecidableEq, Repr

/-- The record that started a grid or a task: its queue, its index, and which of the queues that have had that identifier (R224). -/
structure RecordRef where
  q : Nat
  i : Word
  inc : Nat
  deriving DecidableEq, Repr

/-- A task's own fields (R228, R231). -/
structure Task where
  tcb : Addr
  depth : Nat
  stack : DWord
  aborted : Bool
  at_ : Place                      -- where the TCB lies
  record : Option RecordRef        -- the task record that started it
  deriving DecidableEq, Repr

/-- One workgroup; a task is a workgroup of one sheaf. -/
structure Workgroup where
  gang : Nat                       -- key
  idx : Nat                        -- %wg
  part : Fin 16
  asid : BitVec 16
  site : Nat
  stage : Nat
  gangNo : Nat
  k : Nat                          -- sheaves
  m : Nat                          -- workgroups of the gang
  kernel : Kernel
  breg : List Word
  bpast : List (Nat × List Word)   -- writes of block registers since the last barrier: the first register, the words it held
  barGen : Nat
  decls : List (BitVec 16)         -- identifiers of the declared allocations, in order
  binds : List (List (Nat × Nat))  -- physical thresher and tile set of each declared name and set
  leases : List (Option Nat)       -- sheaf key holding t0 to t3
  held : Option (List (Option Nat))   -- the holders a save has recorded (R277, R278)
  joins : List (Option Binding)
  task : Option Task
  killed : Bool
  ended : Bool
  saveArea : DWord
  savedAllocs : Option (List Alloc)   -- its allocation entries as sheaf 0's save left them (R156)
  away : Bool                      -- saved: its slots and resources are released, its gang's save is not over (R278)
  deriving DecidableEq, Repr

/-- One placed gang. -/
structure Gang where
  grid : Nat
  members : List Nat               -- workgroup keys in member order
  aliasNo : Option Nat
  barGen : Nat
  placedAt : Nat
  evict : Bool                     -- being evicted: it stays away until a recorded wait ends (R112)
  kept : List Kept                 -- of its kill before a relaunch (R281)
  deriving DecidableEq, Repr

/-! ### Cores, dies, granary -/

/-- One core site. -/
structure Core where
  allocs : List Alloc
  nextId : BitVec 16
  nextSeq : Nat
  usable : Nat
  relocating : Bool
  l1 : List (Nat × List Byte)      -- lines held, by line number of `Place.line`
  greedy : List (Option Nat)       -- scheduler s, lane pipe at 2s, group pipe at 2s + 1
  rotate : List Nat                -- sampling rotation of each scheduler
  sampled : List Nat               -- cycle that each scheduler's period of sampling began (R316)
  noPlace : Bool                   -- placement stopped (R280, R304)
  retired : Bool
  deriving DecidableEq, Repr

/-- A core in its reset condition (R191). -/
def Core.reset : Core := ⟨[], 1, 1, 24, false, [], List.replicate 8 none, List.replicate 4 0, List.replicate 4 0, false, false⟩

/-- One compute die (R141, R149, R288). -/
structure Die where
  level : Nat
  pending : Option (Nat × Nat)     -- level P and loss-point cycle
  dead : List Nat                  -- sites harvested or retired, whose routers are out of the tree
  depths : List (Option Nat)       -- of each core router in the routing tree, as last loaded
  limit : Nat                      -- the highest level its own temperature allows (R303)
  deriving DecidableEq, Repr

/-! ### Memory operations -/

/-- What an atomic does (R178, R179). -/
inductive AtomFn where
  | op (o : AtomOp)
  | xchg
  | cas (new : DWord)
  deriving DecidableEq, Repr

/-- The kind of an access: a load of a value of `total` bytes, sign-extended or not, of which this part starts at byte
`off`; a store; an atomic; a fence between accesses; a word of a popped record on its way to a register (R249); what a participant sends
the quorum table of another device: values for elements, or its arrival (R294). -/
inductive AccKind where
  | load (total off : Nat) (sx : Bool)
  | store
  | atom (fn : AtomFn) (w64 : Bool) (v : DWord)
  | fence
  | word
  | quorum (join index : Nat) (l : Option (List (Nat × BitVec 128)))
  deriving DecidableEq, Repr

/-- How far an access has come (R164): issued; in its core's write path (a store), or its line copies dropped (a fence);
data read (a load or atomic); its data in the registers, kept while a store it read is still in the write path. -/
inductive Stage where
  | issued | path | seen | done
  deriving DecidableEq, Repr

/-- Where an access comes from, for an engine fault of it (R293): its instruction, the region open at its issue, and
the handler that issued it (R333). -/
structure Origin where
  pc : BitVec 78
  word : Word
  region : Option (BitVec 78 × Mask)
  byHand : Option Nat
  deriving DecidableEq, Repr

/-- An outstanding part of one lane's access, in sheaf order by `id` (R159, R162): `iss` is the issue of its instruction, a
replay being another (R159), and `op` the operation its sheaf counts (R71). -/
structure Acc where
  id : Nat
  iss : Nat
  op : Nat
  k : Nat
  site : Nat
  lane : Nat
  kind : AccKind
  asid : BitVec 16
  va : Addr
  place : Place
  size : Nat
  data : List Byte
  ord : Ord
  scope : Scope
  pk : PageKind
  stage : Stage
  srcs : List Nat                  -- write-path stores whose bytes a load has returned
  org : Option Origin              -- of a lane's own access
  deriving DecidableEq, Repr

/-! ### Engines -/

/-- One chunk of a copy: source and destination by segment offset resolved to virtual addresses, up to 64 bytes, the
arrival word that counts it (R200, R208), the allocations it was to read and to write (core and identifier), and whether they
have been lost or freed since (R152, R188). -/
structure Chunk where
  src : Addr
  dst : Addr
  len : Nat
  arrive : Option Addr
  from_ : Option (Nat × BitVec 16)
  into : Option (Nat × BitVec 16)
  lost : Bool                      -- the source
  void : Bool                      -- the destination
  landed : Bool                    -- its bytes are there and it is still to be counted
  deriving DecidableEq, Repr

/-- A copy in flight (R198, R200). -/
structure CopyOp where
  id : Nat
  k : Nat
  wg : Nat
  site : Nat
  asid : BitVec 16
  pc : BitVec 78
  word : Word
  after : Nat                      -- accesses with a smaller id come before it (R200)
  region : Option (BitVec 78 × Mask)
  chunks : List Chunk
  red : Option (RedOp × Nat)       -- reduction and element bytes (R205)
  group : Option Nat               -- group identifier (R206)
  srcs : List (Addr × Nat)         -- its source ranges, for bytes of them that are destination too (R200)
  discard : Bool                   -- drained and discarded (R240)
  stalled : Option (Addr × Bool)   -- a light fault it waits on (R202)
  byHand : Option Nat              -- the handler that issued it (R333)
  deriving DecidableEq, Repr

/-- What a tile operation does: `mma` with its B offset, the format word of each octet and the A fragments; the joins with what
they read at issue, an `accwr` with whether a restore issued it (R198, R215, R218, R253 to R255, R279). -/
inductive TileFn where
  | mma (bOff : Word) (fmts : List (Nat × Word)) (frags : List Latch) (zero : Bool)
  | accz (anchor : BitVec 16)
  | accrd (col code : Nat) (sat : Bool)
  | accwr (src col : Nat) (vals : List (Nat × List Word)) (restoring : Bool)
  deriving DecidableEq, Repr

/-- A tile operation taken by a thresher (R218, R219). -/
structure TileOp where
  id : Nat
  k : Nat
  wg : Nat
  t : Fin 4
  set : Fin 4
  mask : Mask
  fn : TileFn
  from_ : Option (Nat × BitVec 16) -- core and identifier of the allocation that holds B
  lost : Bool                      -- darkened before the fetch (R220)
  pc : BitVec 78
  word : Word
  region : Option (BitVec 78 × Mask)
  byHand : Option Nat
  deriving DecidableEq, Repr

/-- A tile of a workgroup: thresher name, set, tile number, anchor, term count, elements that are not zero, by
row * 64 + column (R53, R55). -/
structure Tile where
  wg : Nat
  t : Fin 4
  set : Fin 4
  tile : Nat
  anchor : BitVec 16
  count : Nat
  elems : List (Nat × BitVec 128)
  deriving DecidableEq, Repr

/-! ### Gangs that wait, grids -/

/-- A saved workgroup (R277, R280): itself, its sheaves, its allocation entries and its tiles' anchors and counts. -/
structure SavedWg where
  key : Nat
  wg : Workgroup
  sheaves : List (Nat × Sheaf)
  allocs : List Alloc
  tiles : List Tile
  deriving DecidableEq, Repr

/-- A gang that waits to be placed: its coordinates, and its saved context when it has run before. -/
structure PendingGang where
  stage : Nat
  gangNo : Nat
  ages : List Nat                  -- launch ages to keep (R108), empty for a fresh gang
  saved : List SavedWg             -- empty for a gang that starts afresh
  kept : List Kept                 -- of a relaunch (R281)
  barGen : Nat                     -- its barrier's generation (R125)
  waits : Bool                     -- still waits for a recorded wait (R112)
  deriving DecidableEq, Repr

/-- One grid (R226). -/
structure Grid where
  part : Fin 16
  asid : BitVec 16
  kernel : Kernel
  gangs : Nat
  m : Nat
  k : Nat
  stages : Nat
  alen : Nat
  args : DWord
  donef : DWord
  stackBase : DWord
  pending : List PendingGang
  left : Nat                       -- gangs not ended
  record : Option RecordRef        -- the launch record
  deriving DecidableEq, Repr

/-! ### Queues, tasks, joins -/

/-- Queue states (R224). -/
inductive QState where
  | opened | error | draining | dead
  deriving DecidableEq, Repr

/-- A hardware queue (R221). -/
structure Queue where
  ring : Place
  inc : Nat                        -- tells it from others that have had its identifier (R224)
  log2 : Nat
  part : Fin 16
  owner : Fin 8
  dispatch : Bool
  head : Word
  tail : Word
  floor : Word
  state : QState
  done : List Word                 -- completed records above floor
  taken : List (Word × Nat)        -- records not wholly pushed, and the words pushed of each (R334)
  popped : Nat                     -- words popped of the record at head (R105)
  bad : List Word                  -- started records that put it in ERROR, not done with (R224)
  deriving DecidableEq, Repr

/-- A ready or waiting task (R229, R230). -/
structure ReadyTask where
  tcb : Addr
  asid : BitVec 16
  depth : Nat
  stage : Nat
  at_ : Place
  record : Option RecordRef
  deriving DecidableEq, Repr

/-- A participant of a join (R237); one of another device has its number, and a key of its own in place of a workgroup's
(R244). -/
structure Member where
  index : Nat
  wg : Nat
  dev : Option (BitVec 13)
  weight : Nat
  jsite : Nat
  jid : BitVec 16
  arrived : Bool
  condemned : Bool
  flagSent : Bool
  gone : Bool                      -- ended without arriving (R259)
  retracted : Bool                 -- its journal has been taken out of `ABUF` (R240)
  away : Option (List (BitVec 128))   -- the elements of a journal that stands on no core here (R244)
  deriving DecidableEq, Repr

/-- A quorum-table entry (R244). -/
structure Join where
  block : DWord                    -- its short address
  at_ : Place
  asid : BitVec 16
  part : Fin 16
  die : Nat
  gen : BitVec 16
  released : Bool
  final : Bool                     -- finalised: kept for condemned flags still on their way, holding no entry
  members : List Member
  unbound : List Nat               -- indices R281 unbound in this generation
  deriving DecidableEq, Repr

/-! ### Partitions, contexts -/

/-- A counter slot (R319). -/
structure CtrSlot where
  event : BitVec 12
  en : Bool
  val : DWord
  deriving DecidableEq, Repr

/-- A receipt request that waits for its future (R312): the request block as it was read, its address and address space. -/
structure Request where
  block : DWord
  asid : BitVec 16
  bytes : List Byte
  deriving DecidableEq, Repr

/-- A context (R310). -/
structure Context where
  asid : BitVec 16
  ctxid : DWord
  chain : List Byte                -- the chain value M
  joins : List (List Byte)         -- TYPE 4 objects since the last receipt
  seq : DWord
  norep : Option DWord
  hov : Bool
  logBase : DWord                  -- replay log ring (R322)
  logLen : Nat
  logSeq : DWord
  deriving DecidableEq, Repr

/-- One partition (R295). -/
structure Partition where
  cores : List Nat                 -- sites in logical order (R286)
  asid : BitVec 16
  pid : BitVec 16                  -- pod process identifier (R293)
  qBase : Nat
  qCount : Nat
  gBase : Nat
  gCount : Nat
  trapEntry : DWord
  keeper : Fin 8                   -- the command processor that keeps its measurement chains (R306)
  stage1 : Option DWord            -- local address of the guest hypervisor's table (R297)
  stage2 : List (BitVec 12 × Word)
  fifos : List (List ReadyTask)    -- priority 0 to 3
  waiting : List ReadyTask
  stackPool : List DWord           -- free task stack areas (R231)
  stackNext : DWord                -- where the stack areas of grids are taken (log 27)
  saveNext : DWord                 -- where context save areas are taken (log 27)
  logBase : DWord                  -- the replay-log ring that the resident kernel provides (R322), in entries
  logLen : Nat
  slots : List CtrSlot
  plog2 : Nat
  son : Bool
  rbase : DWord
  rlog2 : Nat
  rhead : DWord
  rtail : DWord
  drops : DWord
  allowed : List (BitVec 12)
  mode1 : Bool
  refused : List Nat               -- physical addresses of the stores that mode 1 refused, as the hypervisor is told (R320)
  ctrPage : Option Nat             -- physical page of the counter control page
  memory : List (Nat × Nat)        -- the physical ranges [lo, hi) the resident kernel has given it (R296, log 31)
  contexts : List Context
  request : Option Request
  feed : Nat                       -- status of the last feed (R227): 0 appended, 1 full, 2 gone
  deriving DecidableEq, Repr

/-- A partition that the resident kernel has not built (R319 gives the reset of its counter page). -/
def Partition.reset : Partition :=
  { cores := [], asid := 0, pid := 0, qBase := 0, qCount := 0, gBase := 0, gCount := 0, trapEntry := 0, keeper := 0, stage1 := none
    stage2 := [], fifos := List.replicate 4 [], waiting := [], stackPool := [], stackNext := 0, saveNext := 0, logBase := 0, logLen := 0
    slots := List.replicate 16 ⟨0, false, 0⟩, plog2 := 12, son := false, rbase := 0, rlog2 := 7, rhead := 0, rtail := 0
    drops := 0, allowed := [], mode1 := false, refused := [], ctrPage := none, memory := [], contexts := [], request := none, feed := 0 }

/-- A push window (R298). -/
structure Window where
  app : Fin 16
  q : Nat
  page : Nat                       -- physical address of its 128 bytes
  stage : List Byte
  res : BitVec 2
  deriving DecidableEq, Repr

/-! ### Firmware cores, other agents -/

/-- A firmware core (R306, R307; log 19, log 20). -/
structure FwCore where
  x : List Word
  pc : Word
  mepc : Word
  mcause : Word
  mtval : Word
  mtvec : Word
  mstatus : Word
  mscratch : Word
  mie : Word
  mip : Word
  mcycle : DWord
  minstret : DWord
  res : Option Word                -- the address an LR holds
  signals : List Word
  mem : Memory
  readable : List (Nat × Nat)      -- ranges [lo, hi) it may read and write
  failed : Bool
  deriving DecidableEq, Repr

/-- A firmware core at reset (log 19). -/
def FwCore.reset : FwCore :=
  { x := List.replicate 32 0, pc := 0, mepc := 0, mcause := 0, mtval := 0, mtvec := 0, mstatus := 0, mscratch := 0, mie := 0, mip := 0
    mcycle := 0, minstret := 0, res := none, signals := List.replicate 64 0, mem := [], readable := [], failed := false }

/-- A cached translation of one holder (R135, R137, R290): holder h is core site h below 416, application core, port or
last-level TLB above. -/
structure TlbEntry where
  holder : Nat
  asid : BitVec 16
  page : Nat
  reach : Nat                      -- bits of an address below its page: 16, 29, or 31 for four 512 MiB leaves under a hint
  leaf : DWord
  pteAddr : Nat
  deriving DecidableEq, Repr

/-- A shoot-down in progress (R290). -/
structure ShootDown where
  id : Nat
  asid : BitVec 16
  lo : Addr
  hi : Addr
  left : List Nat
  deriving DecidableEq, Repr

/-- A range the resident kernel's pager can map (R138; log 10): the leaf it installs for the page at `lo`. -/
structure PagedRange where
  asid : BitVec 16
  lo : Nat
  hi : Nat
  leaf : DWord
  deriving DecidableEq, Repr

/-- A 64 KiB page of another device: whether it may be written, whether it needs that device's own light-fault service, its
kind (R292). -/
structure RemotePage where
  page : Nat
  writable : Bool
  light : Bool
  kind : PageKind
  deriving DecidableEq, Repr

/-- Another device of the pod as seen from here (R292 to R294; log 25). -/
structure Remote where
  dev : BitVec 13
  up : Bool
  pids : List (BitVec 16)
  pages : List RemotePage
  mem : Memory
  deriving DecidableEq, Repr

/-- The readiness map (R302). -/
structure Ready where
  core : List Nat
  hbm : List Nat
  eth : List Nat
  stor : Bool
  app : List Nat
  fwp : List Nat
  link : List Nat
  deriving DecidableEq, Repr

/-- No function ready (R302). -/
def Ready.none : Ready := ⟨[], [], [], false, [], [], []⟩

/-- The device identity key (R306, R313): the parts of an SLH-DSA private key but for the root, which follows from them. -/
structure SigKey where
  seed : List Byte
  prf : List Byte
  pub : List Byte
  deriving DecidableEq, Repr

/-- Firmware images and hand-over (R310, R314, R315). -/
structure Firmware where
  idKey : SigKey
  image : List Byte                -- the image that runs
  fwm : List Byte
  standby : Option (List Byte)     -- an image in standby memory
  smeas : List Byte                -- its measurement
  hold : Bool
  hrec : Bool
  htime : DWord
  hfwm : List Byte
  memHold : Bool
  asked : Bool                     -- a memory processor was asked for during its hand-over: the step is not made (R314)
  deriving DecidableEq, Repr

/-- A move that an agent proposes (log 4): a step of the opcode table, or the issue of split j of sheaf k, or of a
firmware core. -/
inductive Move where
  | event (i : Instr)
  | issue (k j : Nat)
  | fw (p : Nat)
  deriving DecidableEq, Repr

/-- Who issues the instruction that `exec` carries out. -/
inductive Turn where
  | none
  | sheaf (k j : Nat)
  | fw (p : Nat)
  deriving DecidableEq, Repr

/-- The machine. Lists keyed by a number hold what exists; a core, die, partition or firmware core that is not listed is
in its reset condition. -/
structure State where
  -- the model's own (log 4, log 5)
  agenda : List Move
  cur : Turn
  word : Word                      -- the instruction word being carried out
  free : Nat
  nextKey : Nat
  served : List Nat                -- pipes of schedulers, the one that has waited longest for its turn first (R111)
  -- the package
  code : List (BitVec 16 × DWord × Nat)   -- code objects loaded: address space, base, length (R310)
  cycle : Nat
  clock : Nat                      -- MHz (R8, R303)
  floorClock : Nat                 -- MHz once no fall is pending: below 1750 only where the budget cannot be held at level 1
  budget : Nat                     -- W
  mem : Memory             -- physical memory
  roots : List (Nat × Nat)         -- page-table root by address-space identifier
  paged : List PagedRange
  tlb : List TlbEntry
  shoots : List ShootDown
  device : BitVec 13
  devid : DWord
  routes : List (Nat × List (Fin 64))
  linksDown : List Nat
  remotes : List Remote
  ethFor : List Nat                -- which port carries the addresses of port 0 and of port 1 (R299)
  ethDown : List Nat
  tai : DWord
  disciplined : Bool
  slew : Int                       -- nanoseconds still to be slewed in, or out (R300)
  paced : Nat                      -- nanoseconds since the last one was
  nvme : List Nat
  ready : Ready
  retired : Ready
  repl : Bool
  cause : Nat
  spareFrames : List (Nat × Nat)   -- spare frames used by stack
  framesMoved : List (Nat × Nat)   -- retired frame and its spare (R305)
  reports : List Nat               -- frames of uncorrectable errors, reported to the resident kernel (R305)
  appDown : List Nat
  appHeld : List (Nat × (Place × Nat))   -- what the LR of an application core holds (R170)
  completions : List (Nat × Nat)   -- data writes still to come for a completion of a port (R170)
  ages : Nat                       -- launch-age counter (R108)
  groupIds : List (Nat × (Bool × BitVec 16))
  ctxNext : DWord
  firmware : Firmware
  -- dies, cores, partitions
  dies : List (Nat × Die)
  cores : List (Nat × Core)
  parts : List (Nat × Partition)
  fws : List (Nat × FwCore)
  -- grids, gangs, workgroups, sheaves
  grids : List (Nat × Grid)
  gangs : List (Nat × Gang)
  wgs : List (Nat × Workgroup)
  sheaves : List (Nat × Sheaf)
  opq : List (List Byte × Ctl)
  -- operations in progress
  accs : List Acc
  copies : List CopyOp
  tops : List TileOp
  tiles : List Tile
  -- shared structures
  queues : List (Nat × Queue)
  windows : List Window
  joins : List (Nat × Join)
  deriving DecidableEq, Repr

/-- The machine right after reset: nothing runs, nothing is ready (R302), every count is 0; values the spec does not give
are those of log 1, log 2 and log 19. -/
def State.reset : State :=
  { agenda := [], cur := .none, word := 0, free := 0, nextKey := 0, served := [], code := []
    cycle := 0, clock := 1750, floorClock := 1750, budget := 3400, mem := [], roots := [], paged := [], tlb := [], shoots := []
    device := 0, devid := 0, routes := [], linksDown := [], remotes := [], ethFor := [0, 1], ethDown := []
    tai := 0, disciplined := false, slew := 0, paced := 0, nvme := [], ready := .none, retired := .none, repl := false, cause := 0
    spareFrames := [], framesMoved := [], reports := [], appDown := [], appHeld := [], completions := [], ages := 0, groupIds := [], ctxNext := 0
    firmware := { idKey := ⟨List.replicate 32 0, List.replicate 32 0, List.replicate 32 0⟩, image := [], fwm := List.replicate 64 0
                  standby := none, smeas := [], hold := false, hrec := false, htime := 0, hfwm := List.replicate 64 0
                  memHold := false, asked := false }
    dies := [], cores := [], parts := [], fws := []
    grids := [], gangs := [], wgs := [], sheaves := [], opq := []
    accs := [], copies := [], tops := [], tiles := []
    queues := [], windows := [], joins := [] }

end Sys2Proof.Machine
end

