-- ==== Sys2Proof/Machine/Data.lean ====
section
/-! DEFINITION. Plain helpers over the state's data: keyed lists, lists by position, lane masks, bytes, canonical
memory (INVENTORY.md, Memory and ordering). -/

namespace Sys2Proof.Machine

/-! ### Keyed lists -/

/-- The value listed under k. -/
def kget {α : Type} : List (Nat × α) → Nat → Option α
  | [], _ => none
  | (j, x) :: l, k => if j = k then some x else kget l k

/-- The list with x under k. -/
def kset {α : Type} : List (Nat × α) → Nat → α → List (Nat × α)
  | [], k, x => [(k, x)]
  | (j, y) :: l, k, x => if j = k then (k, x) :: l else (j, y) :: kset l k x

/-- The list without k. -/
def kdel {α : Type} (l : List (Nat × α)) (k : Nat) : List (Nat × α) := l.filter (fun p => p.1 != k)

/-- Position i of a list replaced; a shorter list is unchanged. -/
def lset {α : Type} : List α → Nat → α → List α
  | [], _, _ => []
  | _ :: l, 0, x => x :: l
  | y :: l, i + 1, x => y :: lset l i x

/-- Positions from i on replaced. -/
def lsets {α : Type} : List α → Nat → List α → List α
  | l, _, [] => l
  | l, i, x :: xs => lsets (lset l i x) (i + 1) xs

/-- Position i of a list, with a default. -/
def lget {α : Type} (d : α) : List α → Nat → α
  | [], _ => d
  | x :: _, 0 => x
  | _ :: l, i + 1 => lget d l i

/-- A function applied at position i. -/
def lmod {α : Type} (f : α → α) : List α → Nat → List α
  | [], _ => []
  | x :: l, 0 => f x :: l
  | x :: l, i + 1 => x :: lmod f l i

/-- `f` applied with the position, from i on. -/
def mapIdxFrom {α β : Type} (f : Nat → α → β) : Nat → List α → List β
  | _, [] => []
  | i, x :: l => f i x :: mapIdxFrom f (i + 1) l

/-! ### Lane masks -/

/-- The lanes of a mask, ascending (R5). -/
def maskLanes (m : Mask) : List Nat := (List.range 64).filter (fun i => m.getLsbD i)

/-- The mask of a list of lanes. -/
def maskOf : List Nat → Mask
  | [] => 0
  | i :: l => (1#64 <<< i) ||| maskOf l

/-- All W lanes. -/
def maskAll (w : Nat) : Mask := BitVec.ofNat 64 (2 ^ w - 1)

/-- The mask without the lanes of another. -/
def maskDiff (a b : Mask) : Mask := a &&& ~~~b

/-! ### Bytes, little-endian (R3) -/

/-- The number of a byte list, low byte first. -/
def leNat : List Byte → Nat
  | [] => 0
  | b :: l => b.toNat + 256 * leNat l

/-- The n low bytes of a number, low byte first. -/
def leBytes : Nat → Nat → List Byte
  | 0, _ => []
  | n + 1, v => BitVec.ofNat 8 v :: leBytes n (v / 256)

/-- A 32-bit word of a byte list. -/
def leWord (l : List Byte) : Word := BitVec.ofNat 32 (leNat l)
/-- A 64-bit word of a byte list. -/
def leDWord (l : List Byte) : DWord := BitVec.ofNat 64 (leNat l)

/-- The 32-bit words of a byte list. -/
def leWords : List Byte → List Word
  | a :: b :: c :: d :: l => leWord [a, b, c, d] :: leWords l
  | [] => []
  | l => [leWord l]

/-- The bytes of a list of 32-bit words. -/
def wordBytes (ws : List Word) : List Byte := ws.flatMap (fun w => leBytes 4 w.toNat)

/-! ### Memory: address and byte pairs, addresses strictly rising, no byte 0 listed (log 1) -/

/-- The byte at an address; an unlisted address reads 0. -/
def Memory.get : Memory → Nat → Byte
  | [], _ => 0
  | (a, b) :: m, x => if a = x then b else if x < a then 0 else Memory.get m x

/-- A cell put in front, unless its byte is what an unlisted address reads. -/
def Memory.cons (a : Nat) (b : Byte) (m : Memory) : Memory := if b = 0 then m else (a, b) :: m

/-- One byte written. -/
def Memory.set : Memory → Nat → Byte → Memory
  | [], x, v => cons x v []
  | (a, b) :: m, x, v =>
    if x < a then cons x v ((a, b) :: m)
    else if x = a then cons x v m
    else (a, b) :: Memory.set m x v

/-- n bytes from an address. -/
def Memory.read (m : Memory) (a : Nat) : Nat → List Byte
  | 0 => []
  | n + 1 => m.get a :: read m (a + 1) n

/-- Bytes written from an address on. -/
def Memory.write (m : Memory) (a : Nat) : List Byte → Memory
  | [] => m
  | b :: l => write (m.set a b) (a + 1) l

/-- The canonical form, for addresses at or above a bound. -/
def Memory.wfFrom : Nat → Memory → Bool
  | _, [] => true
  | lo, (a, b) :: m => lo ≤ a && b != 0 && wfFrom (a + 1) m

/-- The canonical form. -/
def Memory.wf (m : Memory) : Bool := wfFrom 0 m

/-- A 64-bit word. -/
def Memory.dword (m : Memory) (a : Nat) : DWord := leDWord (m.read a 8)

/-! ### Named parts of the state -/

/-- A core site. -/
def State.core (s : State) (site : Nat) : Core := (kget s.cores site).getD Core.reset
/-- A core site replaced. -/
def State.setCore (s : State) (site : Nat) (c : Core) : State := { s with cores := kset s.cores site c }
/-- A compute die; levels at reset are those of log 2. -/
def State.die (s : State) (d : Nat) : Die := (kget s.dies d).getD ⟨24, none, [], treeDepths [], 24⟩
/-- A compute die replaced. -/
def State.setDie (s : State) (d : Nat) (x : Die) : State := { s with dies := kset s.dies d x }
/-- A partition. -/
def State.part (s : State) (p : Nat) : Partition := (kget s.parts p).getD Partition.reset
/-- A partition replaced. -/
def State.setPart (s : State) (p : Nat) (x : Partition) : State := { s with parts := kset s.parts p x }
/-- A firmware core. -/
def State.fw (s : State) (p : Nat) : FwCore := (kget s.fws p).getD FwCore.reset
/-- A firmware core replaced. -/
def State.setFw (s : State) (p : Nat) (x : FwCore) : State := { s with fws := kset s.fws p x }
/-- A sheaf, if it exists. -/
def State.sheaf (s : State) (k : Nat) : Option Sheaf := kget s.sheaves k
/-- A sheaf replaced. -/
def State.setSheaf (s : State) (k : Nat) (x : Sheaf) : State := { s with sheaves := kset s.sheaves k x }
/-- A workgroup, if it exists. -/
def State.wg (s : State) (k : Nat) : Option Workgroup := kget s.wgs k
/-- A workgroup replaced. -/
def State.setWg (s : State) (k : Nat) (x : Workgroup) : State := { s with wgs := kset s.wgs k x }
/-- A gang replaced. -/
def State.setGang (s : State) (k : Nat) (x : Gang) : State := { s with gangs := kset s.gangs k x }
/-- A grid replaced. -/
def State.setGrid (s : State) (k : Nat) (x : Grid) : State := { s with grids := kset s.grids k x }
/-- A queue replaced. -/
def State.setQueue (s : State) (k : Nat) (x : Queue) : State := { s with queues := kset s.queues k x }
/-- A quorum-table entry replaced. -/
def State.setJoin (s : State) (k : Nat) (x : Join) : State := { s with joins := kset s.joins k x }

/-- A sheaf changed where it stands. -/
def State.modSheaf (s : State) (k : Nat) (f : Sheaf → Sheaf) : State :=
  match s.sheaf k with
  | some x => s.setSheaf k (f x)
  | none => s

/-- Every sheaf changed. -/
def State.mapSheaves (s : State) (f : Nat → Sheaf → Sheaf) : State :=
  { s with sheaves := s.sheaves.map (fun p => (p.1, f p.1 p.2)) }

/-- A workgroup changed where it stands. -/
def State.modWg (s : State) (k : Nat) (f : Workgroup → Workgroup) : State :=
  match s.wg k with
  | some x => s.setWg k (f x)
  | none => s

/-- A core changed. -/
def State.modCore (s : State) (site : Nat) (f : Core → Core) : State := s.setCore site (f (s.core site))

/-- The sheaves of a workgroup, with their keys. -/
def State.sheavesOf (s : State) (wg : Nat) : List (Nat × Sheaf) := s.sheaves.filter (fun p => p.2.wg == wg)

/-- A fresh key for an operation, access, grid, gang, workgroup or sheaf. -/
def State.bump (s : State) : State := { s with nextKey := s.nextKey + 1 }

/-- The die of a core site (R285). -/
def dieOf (site : Nat) : Nat := site / 104

end Sys2Proof.Machine
end

