-- ==== Sys2Proof/Machine/Hash.lean ====
section
/-! DEFINITION. SHAKE256 (21 R310 names it; FIPS 202 gives it: PRESUMED, log 17). -/

namespace Sys2Proof.Machine

/-! ### Keccak-f[1600] on 25 lanes of 64 bits, lane x + 5y -/

/-- A lane of the sponge. -/
abbrev kl (s : List DWord) (x y : Nat) : DWord := lget 0 s (x % 5 + 5 * (y % 5))

/-- A 64-bit rotation to the left. -/
def rotl64 (v : DWord) (n : Nat) : DWord := v.rotateLeft n

/-- The rotation offsets, by lane. -/
def rhoOffsets : List Nat :=
  [0, 1, 62, 28, 27, 36, 44, 6, 55, 20, 3, 10, 43, 25, 39, 41, 45, 15, 21, 8, 18, 2, 61, 56, 14]

/-- The 24 round constants. -/
def roundConsts : List DWord :=
  [0x0000000000000001, 0x0000000000008082, 0x800000000000808A, 0x8000000080008000, 0x000000000000808B, 0x0000000080000001,
   0x8000000080008081, 0x8000000000008009, 0x000000000000008A, 0x0000000000000088, 0x0000000080008009, 0x000000008000000A] ++
  [0x000000008000808B, 0x800000000000008B, 0x8000000000008089, 0x8000000000008003, 0x8000000000008002, 0x8000000000000080,
   0x000000000000800A, 0x800000008000000A, 0x8000000080008081, 0x8000000000008080, 0x0000000080000001, 0x8000000080008008]

/-- One round. -/
def keccakRound (s : List DWord) (rc : DWord) : List DWord :=
  let col := (List.range 5).map (fun x => kl s x 0 ^^^ kl s x 1 ^^^ kl s x 2 ^^^ kl s x 3 ^^^ kl s x 4)
  let d := (List.range 5).map (fun x => lget 0 col ((x + 4) % 5) ^^^ rotl64 (lget 0 col ((x + 1) % 5)) 1)
  let a := mapIdxFrom (fun i v => v ^^^ lget 0 d (i % 5)) 0 s
  -- lane (x, y) of the result of rho and pi comes from lane (x + 3y, x)
  let b := (List.range 25).map (fun i =>
    let x := i % 5
    let y := i / 5
    let src := (x + 3 * y) % 5 + 5 * x
    rotl64 (lget 0 a src) (lget 0 rhoOffsets src))
  let c := mapIdxFrom (fun i v => v ^^^ (~~~(kl b (i + 1) (i / 5)) &&& kl b (i + 2) (i / 5))) 0 b
  match c with
  | v :: l => (v ^^^ rc) :: l
  | [] => []

/-- The permutation. -/
def keccakF (s : List DWord) : List DWord := roundConsts.foldl keccakRound s

/-! ### The sponge, rate 136 bytes -/

/-- A block taken in. -/
def absorb (s : List DWord) (block : List Byte) : List DWord :=
  keccakF (mapIdxFrom (fun i v => v ^^^ (if i < 17 then leDWord ((block.drop (8 * i)).take 8) else 0)) 0 s)

/-- Every block of a padded message taken in. -/
def absorbAll : Nat → List DWord → List Byte → List DWord
  | 0, s, _ => s
  | n + 1, s, m => absorbAll n (absorb s (m.take 136)) (m.drop 136)

/-- The message padded to whole blocks, with the SHAKE suffix. -/
def shakePad (m : List Byte) : List Byte :=
  let short := 136 - m.length % 136
  if short = 1 then m ++ [0x9F] else m ++ [0x1F] ++ List.replicate (short - 2) 0 ++ [0x80]

/-- SHAKE256 to n bytes, at most 136. -/
def shakeTo (n : Nat) (m : List Byte) : List Byte :=
  let p := shakePad m
  let s := absorbAll (p.length / 136) (List.replicate 25 0) p
  ((s.take 17).flatMap (fun v => leBytes 8 v.toNat)).take n

/-- SHAKE256 to 64 bytes (R310). -/
def shake256 (m : List Byte) : List Byte := shakeTo 64 m

end Sys2Proof.Machine
end

