-- ==== Sys2Proof/Machine/Pages.lean ====
section
/-! DEFINITION. Physical pages that are registers: a partition's counter control page (21 R319, R320), the push windows of
application cores (20 R298) and the readiness map (20 R302). -/

namespace Sys2Proof.Machine

/-! ### The counter control page (R319, R320) -/

/-- Whether an event code of R319 is assigned. -/
def eventKnown (e : BitVec 12) : Bool := e.toNat ≤ 0x00E || (0x010 ≤ e.toNat && e.toNat ≤ 0x010 + 23)

/-- Whether a partition may count an event (R320). -/
def Partition.allows (p : Partition) (e : BitVec 12) : Bool := p.allowed.contains e

/-- `VAL` of a slot as it reads (R319, R320): 0 for a reserved code, and for a disallowed event. -/
def Partition.slotVal (p : Partition) (i : Nat) : DWord :=
  let x := lget ⟨0, false, 0⟩ p.slots i
  if !eventKnown x.event || !p.allows x.event then 0 else x.val

/-- The 64-bit word of the page at offset 8 i (R319). -/
def Partition.pageWord (p : Partition) (i : Nat) : DWord :=
  let slot : Nat → Word := fun n =>
    let x := lget ⟨0, false, 0⟩ p.slots n
    (x.event.setWidth 32) ||| (if x.en then 0x1000#32 else 0)
  if i < 8 then DWord.ofPair (slot (2 * i)) (slot (2 * i + 1))
  else if i = 8 then BitVec.ofNat 64 (p.plog2 + (if p.son then 256 else 0))
  else if i = 9 then p.rbase
  else if i = 10 then BitVec.ofNat 64 p.rlog2
  else if i = 11 then p.rhead
  else if i = 12 then p.rtail
  else if i = 13 then p.drops
  else if 16 ≤ i && i < 32 then p.slotVal (i - 16)
  else 0

/-- n bytes of the page from an offset on. -/
def Partition.pageBytes (p : Partition) (off n : Nat) : List Byte :=
  (List.range n).map (fun k =>
    let a := off + k
    (p.pageWord (a / 8)).extractLsb' (8 * (a % 8)) 8)

/-- The bytes of an aligned part of the page after a store. -/
def mergeBytes (old : List Byte) (at_ off : Nat) (bs : List Byte) : List Byte :=
  mapIdxFrom (fun i b => if off ≤ at_ + i && at_ + i < off + bs.length then lget b bs (at_ + i - off) else b) 0 old

/-- Whether a store of n bytes at an offset meets m bytes at another. -/
def meetsRange (off n at_ m : Nat) : Bool := off < at_ + m && at_ < off + n

/-- A slot of the page after a store (R319): any store to its word clears `VAL`, a store to `VAL` sets it. -/
def Partition.slotAfter (p : Partition) (off : Nat) (bs : List Byte) (i : Nat) (x : CtrSlot) : CtrSlot :=
  let y := if meetsRange off bs.length (4 * i) 4 then
      let w := leWord (mergeBytes (p.pageBytes (4 * i) 4) (4 * i) off bs)
      { x with event := w.extractLsb' 0 12, en := w.getLsbD 12, val := 0 }
    else x
  if meetsRange off bs.length (0x80 + 8 * i) 8 then
    { y with val := leDWord (mergeBytes (leBytes 8 x.val.toNat) (0x80 + 8 * i) off bs) }
  else y

/-- Whether mode 1 refuses a store (R320): it selects an event that is not allowed. -/
def Partition.refuses (p : Partition) (off : Nat) (bs : List Byte) : Bool :=
  p.mode1 && (List.range 16).any (fun i => meetsRange off bs.length (4 * i) 4 &&
    !p.allows ((leWord (mergeBytes (p.pageBytes (4 * i) 4) (4 * i) off bs)).extractLsb' 0 12))

/-- The page after a store (R319, R320). -/
def Partition.pageStore (p : Partition) (off : Nat) (bs : List Byte) : Partition :=
  if p.refuses off bs then p
  else
    let part (at_ : Nat) : DWord := leDWord (mergeBytes (p.pageBytes at_ 8) at_ off bs)
    let meets (at_ : Nat) : Bool := meetsRange off bs.length at_ 8
    let pl := ((part 0x40).extractLsb' 0 5).toNat
    let rl := ((part 0x50).extractLsb' 0 5).toNat
    { p with
      slots := mapIdxFrom (p.slotAfter off bs) 0 p.slots
      plog2 := if meets 0x40 then (if 8 ≤ pl && pl ≤ 20 then pl else 12) else p.plog2
      son := if meets 0x40 then (part 0x40).getLsbD 8 else p.son
      rbase := if meets 0x48 then part 0x48 else p.rbase
      rlog2 := if meets 0x50 then (if 7 ≤ rl && rl ≤ 20 then rl else 7) else p.rlog2
      rtail := if meets 0x60 then part 0x60 else p.rtail }

/-- The partition whose counter control page holds a physical address. -/
def State.ctrAt (s : State) (pa : Nat) : Option (Nat × Partition) :=
  s.parts.find? (fun p => match p.2.ctrPage with | some a => a ≤ pa && pa < a + 4096 | none => false)

/-! ### Push windows (R298) -/

/-- The push window that holds a physical address. -/
def State.windowAt (s : State) (pa : Nat) : Option Window := s.windows.find? (fun w => w.page ≤ pa && pa < w.page + 128)

/-- A byte of a window as it reads: the stage, `RES`, and zeros. -/
def Window.byte (w : Window) (off : Nat) : Byte :=
  if off < 64 then lget 0 w.stage off else if off = 0x48 then w.res.setWidth 8 else 0

/-- A window after a store: only `STAGE` keeps its bytes; a store to `BELL` is the step PUSH_WINDOW_BELL. -/
def Window.store (w : Window) (off : Nat) (bs : List Byte) : Window :=
  { w with stage := mergeBytes w.stage 0 off bs }

/-! ### The readiness map (R302) -/

/-- The number whose set bits a list names. -/
def bitsOf (l : List Nat) : Nat := l.foldl (fun n i => n ||| 2 ^ i) 0

/-- Half of the readiness map, with its word at 0x50. -/
def Ready.half (r : Ready) (w : Nat) : List Byte :=
  leBytes 64 (bitsOf r.core) ++
  leBytes 4 (bitsOf r.hbm + bitsOf r.eth * 2 ^ 12 + (if r.stor then 2 ^ 14 else 0)) ++
  leBytes 4 (bitsOf r.app + bitsOf r.fwp * 2 ^ 16) ++ leBytes 8 (bitsOf r.link) ++ leBytes 4 w ++ List.replicate 172 0

/-- The 512 bytes of the readiness map: the ready half, then the retired one. -/
def State.readyBytes (s : State) : List Byte :=
  s.ready.half ((if s.repl then 1 else 0) + s.cause * 2) ++ s.retired.half 0

/-- Bytes of physical addresses that are no memory: the readiness map's page, else zeros (log 34). -/
def State.readBeyond (s : State) (pa n : Nat) : List Byte :=
  (List.range n).map (fun i =>
    if Config.readyPage ≤ pa + i then lget 0 s.readyBytes (pa + i - Config.readyPage) else 0)

end Sys2Proof.Machine
end

