-- ==== Sys2Proof/Machine/Translate.lean ====
section
/-! DEFINITION. Translation of local addresses (09 R134 to R138) and the ranges of the address space. -/

namespace Sys2Proof.Machine

/-- What an access does to its page; an atomic is a write (R180). -/
inductive Access where
  | rd | wr | ex
  deriving DecidableEq, Repr

/-- The outcome of a translation (R136, R138): physical address and ordering kind; a light fault; a missing translation
that the resident kernel's pager resolves; a missing translation; an access the leaf forbids. -/
inductive Tr where
  | ok (pa : Nat) (kind : PageKind)
  | light
  | paged
  | absent
  | prot
  deriving DecidableEq, Repr

/-- The three ranges of R134. -/
inductive Range where
  | pod (dev : BitVec 13) (off : Nat)
  | aperture (off : Nat)
  | local
  deriving DecidableEq, Repr

/-- The local address of a 64-bit one. -/
def localAddr (p : DWord) : Addr := p.setWidth 80

/-- Which range an address lies in (R134). -/
def rangeOf (va : Addr) : Range :=
  if va.getLsbD 79 then .pod (va.extractLsb' 66 13) (va.extractLsb' 0 66).toNat
  else if (va.extractLsb' 40 40).toNat = 0x7FFFFFFFFF then .aperture (va.extractLsb' 0 40).toNat
  else .local

/-- The walk: shift and index width of each level still to come (R135). Answers the entry's physical address, the leaf
and whether it maps 512 MiB. -/
def walk (m : Memory) (va : Nat) : Nat → List (Nat × Nat × Bool × Bool) → Option (Nat × DWord × Bool)
  | _, [] => none
  | base, (shift, width, leafOk, last) :: rest =>
    let at_ := base + 8 * (va / 2 ^ shift % 2 ^ width)
    let e := m.dword at_
    if !e.getLsbD 0 then none
    else if e.getLsbD 1 then
      if !leafOk then none
      else if e.extractLsb' 10 6 != 0 || e.extractLsb' 8 2 == 3 then none
      else some (at_, e, !last)
    else if last then none
    else walk m va ((e.extractLsb' 16 36).toNat * 65536) rest

/-- The five levels (R135). -/
def levels : List (Nat × Nat × Bool × Bool) :=
  [(68, 11, false, false), (55, 13, false, false), (42, 13, false, false), (29, 13, true, false), (16, 13, true, true)]

/-- The ordering kind of a leaf (R136). -/
def kindOf (leaf : DWord) : PageKind :=
  match (leaf.extractLsb' 8 2).toNat with
  | 0 => .so
  | 1 => .rc
  | _ => .un

/-- What a leaf gives an access (R136, R138). -/
def leafTr (leaf : DWord) (big : Bool) (va : Nat) (a : Access) : Tr :=
  let allowed := match a with
    | .rd => leaf.getLsbD 2
    | .wr => leaf.getLsbD 3
    | .ex => leaf.getLsbD 4
  if !allowed then .prot
  else if !leaf.getLsbD 6 then .light
  else if a == .wr && !leaf.getLsbD 7 then .light
  else .ok ((leaf.extractLsb' 16 36).toNat * 65536 + va % (if big then 2 ^ 29 else 2 ^ 16)) (kindOf leaf)

/-- The leaves of the group of four that a level-3 leaf at an address belongs to, where their contiguity hint is honoured (R137):
all carry `CH` and the same bits [15:0], and their frames advance by 512 MiB. -/
def groupLeaf (m : Memory) (at_ : Nat) : Option (Nat × DWord) :=
  let base := at_ / 32 * 32
  let first := m.dword base
  if [0, 1, 2, 3].all (fun i => let e := m.dword (base + 8 * i)
      e.getLsbD 5 && e.extractLsb' 0 16 == first.extractLsb' 0 16 &&
      (e.extractLsb' 16 36).toNat == (first.extractLsb' 16 36).toNat + 8192 * i) then some (base, first) else none

/-- Whether a cached translation is one for an address. -/
def TlbEntry.covers (e : TlbEntry) (va : Nat) : Bool := e.page == va / 2 ^ e.reach

/-- What a cached translation gives for an address it covers: the entry it came from, the leaf, and whether it maps 512 MiB
(R137). -/
def TlbEntry.leafFor (e : TlbEntry) (va : Nat) : Nat × DWord × Bool :=
  if e.reach = 31 then
    let i := va / 2 ^ 29 % 4
    (e.pteAddr + 8 * i, e.leaf + BitVec.ofNat 64 (2 ^ 29 * i), true)
  else (e.pteAddr, e.leaf, e.reach == 29)

/-- A holder's cached entry for an address (R290). -/
def State.tlbFind (s : State) (holder : Nat) (asid : BitVec 16) (va : Nat) : Option TlbEntry :=
  s.tlb.find? (fun e => e.holder == holder && e.asid == asid && e.covers va)

/-- The leaf that a holder uses for an address: its cached entry while it keeps it (log 9), else the walk. -/
def State.leafOf (s : State) (holder : Nat) (asid : BitVec 16) (va : Nat) : Option (Nat × DWord × Bool) :=
  let walked := match kget s.roots asid.toNat with
    | some root => walk s.mem va root levels
    | none => none
  match s.tlbFind holder asid va with
  | some e =>
    if some (e.leafFor va) == walked then walked
    else if Config.keepsTranslation s.free then some (e.leafFor va) else walked
  | none => walked

/-- The level-4 entry of an address, following the tables that exist. -/
def pteSlot (m : Memory) (va : Nat) : Nat → List (Nat × Nat × Bool × Bool) → Option Nat
  | _, [] => none
  | base, (shift, width, _, last) :: rest =>
    let at_ := base + 8 * (va / 2 ^ shift % 2 ^ width)
    let e := m.dword at_
    if last then some at_
    else if !e.getLsbD 0 || e.getLsbD 1 then none
    else pteSlot m va ((e.extractLsb' 16 36).toNat * 65536) rest

/-- The leaf of one page of a paged range: frames follow the range. -/
def PagedRange.pageLeaf (r : PagedRange) (va : Nat) : DWord :=
  r.leaf + BitVec.ofNat 64 ((va / 65536 - r.lo / 65536) * 65536)

/-- The entry and leaf the resident kernel's pager installs for an address, where its tables reach it (R138, log 10). -/
def State.pagerLeaf (s : State) (asid : BitVec 16) (va : Nat) : Option (Nat × DWord) :=
  match kget s.roots asid.toNat, s.paged.find? (fun r => r.asid == asid && r.lo ≤ va && va < r.hi) with
  | some root, some r => (pteSlot s.mem va root levels).map (fun a => (a, r.pageLeaf va))
  | _, _ => none

/-- Translation of a local address by a holder for an address-space identifier (R135, R136, R138). -/
def State.translate (s : State) (holder : Nat) (asid : BitVec 16) (va : Addr) (a : Access) : Tr :=
  match s.leafOf holder asid va.toNat with
  | some (_, leaf, big) => leafTr leaf big va.toNat a
  | none => if (s.pagerLeaf asid va.toNat).isSome then .paged else .absent

/-- The entry that a holder makes of a translation (R137). -/
def newEntry (m : Memory) (holder : Nat) (asid : BitVec 16) (va : Nat) : Nat × DWord × Bool → TlbEntry
  | (at_, leaf, false) => ⟨holder, asid, va / 2 ^ 16, 16, leaf, at_⟩
  | (at_, leaf, true) => match groupLeaf m at_ with
    | some (base, first) => ⟨holder, asid, va / 2 ^ 31, 31, first, base⟩
    | none => ⟨holder, asid, va / 2 ^ 29, 29, leaf, at_⟩

/-- The holder keeps the translation it used (R135, R137). -/
def State.cache (s : State) (holder : Nat) (asid : BitVec 16) (va : Addr) : State :=
  match s.leafOf holder asid va.toNat with
  | some found =>
    if (s.tlbFind holder asid va.toNat).any (fun e => e.leafFor va.toNat == found) then s
    else
      let e := newEntry s.mem holder asid va.toNat found
      { s with tlb := e :: s.tlb.filter (fun x => !(x.holder == holder && x.asid == asid && x.covers va.toNat)) }
  | none => s

/-- A memory processor serves a page (R138): it sets `ACC`, and `DRT` for a write, or installs the pager's leaf. Cached
copies of the page are dropped, so that the next access walks. -/
def State.servePage (s : State) (asid : BitVec 16) (va : Nat) (write : Bool) : State :=
  let drop (s : State) : State := { s with tlb := s.tlb.filter (fun x => !(x.asid == asid && x.covers va)) }
  match (kget s.roots asid.toNat).bind (fun root => walk s.mem va root levels) with
  | some (at_, leaf, _) =>
    let leaf' := leaf ||| (if write then 0xC0#64 else 0x40#64)
    drop { s with mem := s.mem.write at_ (leBytes 8 leaf'.toNat) }
  | none =>
    match s.pagerLeaf asid va with
    | some (at_, leaf) => drop { s with mem := s.mem.write at_ (leBytes 8 leaf.toNat) }
    | none => s

end Sys2Proof.Machine
end

