-- ==== Sys2Proof/Machine/Reach.lean ====
section
/-! DEFINITION. Where an address leads: the granary aperture, pod addresses, local pages (09 R134, R144, R146, R147, R153,
20 R292 to R294), and the bytes at a place. -/

namespace Sys2Proof
namespace Machine

/-! ### Bytes at a place -/

/-- The allocation with an identifier on a core (R145). -/
def State.alloc (s : State) (site : Nat) (id : BitVec 16) : Option Alloc :=
  (s.core site).allocs.find? (fun a => a.id == id)

/-- An allocation changed where it stands. -/
def State.modAlloc (s : State) (site : Nat) (id : BitVec 16) (f : Alloc → Alloc) : State :=
  s.modCore site (fun c => { c with allocs := c.allocs.map (fun a => if a.id == id then f a else a) })

/-- Another device of the pod. -/
def State.remote (s : State) (dev : Nat) : Option Remote := s.remotes.find? (fun r => r.dev.toNat == dev)

/-- n bytes of this device's physical addresses: memory, or a page of registers. -/
def State.readPhys (s : State) (pa n : Nat) : List Byte :=
  match s.ctrAt pa, s.windowAt pa with
  | some (_, p), _ => p.pageBytes (pa - p.ctrPage.getD pa) n
  | none, some w => (List.range n).map (fun i => w.byte (pa - w.page + i))
  | none, none => if pa < Config.hbmBytes then Memory.read s.mem pa n else s.readBeyond pa n

/-- Bytes written at physical addresses of this device: those beyond the memory keep nothing (log 34). -/
def State.writePhys (s : State) (pa : Nat) (bs : List Byte) : State :=
  match s.ctrAt pa, s.windowAt pa with
  | some (k, p), _ => s.setPart k (p.pageStore (pa - p.ctrPage.getD pa) bs)
  | none, some w => { s with windows := s.windows.map (fun x => if x.page == w.page then x.store (pa - w.page) bs else x) }
  | none, none => if pa < Config.hbmBytes then { s with mem := Memory.write s.mem pa bs } else s

/-- n bytes at a place; an allocation that is gone reads 0. -/
def State.readPlace (s : State) (pl : Place) (n : Nat) : List Byte :=
  match pl with
  | .hbm pa => s.readPhys pa n
  | .gran site id off => match s.alloc site id with
    | some a => Memory.read a.data off n
    | none => List.replicate n 0
  | .pod dev off => match s.remote dev with
    | some r => Memory.read r.mem off n
    | none => List.replicate n 0

/-- Bytes at a place replaced; nothing is written to an allocation that is gone or holds no storage (R152, R188). -/
def State.putPlace (s : State) (pl : Place) (bs : List Byte) : State :=
  match pl with
  | .hbm pa => s.writePhys pa bs
  | .gran site id off => s.modAlloc site id (fun a =>
      if a.state == .lit || (a.state == .refilling && a.relit) then { a with data := Memory.write a.data off bs } else a)
  | .pod dev off => { s with remotes := s.remotes.map (fun r =>
      if r.dev.toNat == dev then { r with mem := Memory.write r.mem off bs } else r) }

end Machine

/-- A place moved on by n bytes. -/
def Place.plus (pl : Place) (n : Nat) : Place :=
  match pl with
  | .hbm pa => .hbm (pa + n)
  | .gran site id off => .gran site id (off + n)
  | .pod dev off => .pod dev (off + n)

/-- Whether n bytes at one place meet m bytes at another. -/
def Place.meets (p : Place) (n : Nat) (q : Place) (m : Nat) : Bool :=
  match p, q with
  | .hbm a, .hbm b => a < b + m && b < a + n
  | .gran s i a, .gran t j b => s == t && i == j && a < b + m && b < a + n
  | .pod d a, .pod e b => d == e && a < b + m && b < a + n
  | _, _ => false

/-- The L1 line of a place (R139, log 8); none for the granary. -/
def Place.line : Place → Option Nat
  | .hbm pa => some (pa / Config.lineBytes)
  | .gran .. => none
  | .pod dev off => some ((2 ^ 80 + dev * 2 ^ 66 + off) / Config.lineBytes)

/-- The byte of a place within its line. -/
def Place.inLine : Place → Nat
  | .hbm pa => pa % Config.lineBytes
  | .gran .. => 0
  | .pod _ off => off % Config.lineBytes

/-- The start of a place's line. -/
def Place.lineStart : Place → Place
  | .hbm pa => .hbm (pa / Config.lineBytes * Config.lineBytes)
  | .gran s i o => .gran s i (o / Config.lineBytes * Config.lineBytes)
  | .pod d o => .pod d (o / Config.lineBytes * Config.lineBytes)

namespace Machine

/-- Bytes written at a place: an application core's LR no longer holds them (R170). -/
def State.writePlace (s : State) (pl : Place) (bs : List Byte) : State :=
  { s.putPlace pl bs with appHeld := s.appHeld.filter (fun r => !r.2.1.meets r.2.2 pl bs.length) }

/-! ### Reaching a place -/

/-- Who accesses, and through what: a workgroup's sheaf through a segment, the workgroup's own engine, or a holder
outside the cores for an address-space identifier. -/
structure Via where
  holder : Nat
  asid : BitVec 16
  wg : Option Nat                  -- key of the accessing workgroup
  sheaf : Option Nat
  seg : Nat                        -- 1 and 2 reach the aperture (R147)
  shut : Bool                      -- the base of another segment lies in the aperture (R184)
  deriving DecidableEq, Repr

/-- Where an access leads. -/
inductive Reach where
  | ok (pl : Place) (kind : PageKind)
  | replay (va : Addr)                            -- light fault, or a translation the pager resolves (R138)
  | fault (code : Nat) (alloc : BitVec 16)
  | loss (site : Nat) (id : BitVec 16) (off : Nat) -- DARK, or the handler's own touch while unlit (R153)
  | lossWait (site : Nat) (id : BitVec 16)         -- REFILLING for another sheaf (R153)
  | stall (code : Nat)
  deriving DecidableEq, Repr

/-- A local address (R135, R138). -/
def State.reachLocal (s : State) (v : Via) (va : Addr) (a : Access) : Reach :=
  match s.translate v.holder v.asid va a with
  | .ok pa kind => .ok (.hbm pa) kind
  | .light => .replay va
  | .paged => .replay va
  | .absent => .fault 0x09 0
  | .prot => .fault 0x0A 0

/-- A pod address of another device (R292 to R294, log 25). -/
def State.reachPod (s : State) (v : Via) (va : Addr) (dev off : Nat) (a : Access) : Reach :=
  match s.remote dev with
  | none => .fault 0x09 0
  | some r =>
    let pid := (kget (s.parts.map (fun p => (p.2.asid.toNat, p.2.pid))) v.asid.toNat).getD 0
    if !r.up then .fault 0x09 0
    else if !r.pids.contains pid then .fault 0x16 0
    else match r.pages.find? (fun p => p.page == off / 65536) with
      | none => .fault 0x09 0
      | some p =>
        if a == .ex || (a == .wr && !p.writable) then .fault 0x0A 0
        else if p.light then .replay va
        else .ok (.pod dev off) p.kind

/-- The workgroup of a gang whose window a member number names (R146). -/
def State.memberOf (s : State) (g : Gang) (m : Nat) : Option (Nat × Workgroup) :=
  match g.members[m]? with
  | some w => (s.wg w).map (fun x => (w, x))
  | none => none

/-- The core and window offset an aperture offset names, with the workgroups whose allocations it may reach, for an
accessing workgroup and segment (R146, R147). -/
def State.windowOf (s : State) (v : Via) (off : Nat) : Option (Nat × Nat × List Nat) :=
  match v.wg.bind (fun k => (s.wg k).map (fun w => (k, w))) with
  | none => none
  | some (k, w) =>
    if v.seg != 1 && v.seg != 2 then none
    else if off < 416 * Config.windowBytes then
      if off / Config.windowBytes == w.site then some (w.site, off % Config.windowBytes, [k]) else none
    else if v.seg != 2 then none
    else
      match kget s.gangs w.gang with
      | none => none
      | some g =>
        match g.aliasNo with
        | none => none
        | some a =>
          if off < Config.aliasBase + a * Config.aliasBytes then none
          else
            let o := off - (Config.aliasBase + a * Config.aliasBytes)
            match s.memberOf g (o / Config.windowBytes) with
            | none => none
            | some (_, x) => some (x.site, o % Config.windowBytes, g.members)

/-- The allocation that an access of a size at an aperture offset reaches (R147): its core, itself and the offset in it; or the
identifier that the protection fault shows, 0 where there is none. -/
def State.granaryAt (s : State) (v : Via) (off size : Nat) : Except (BitVec 16) (Nat × Alloc × Nat) :=
  match s.windowOf v off with
  | none => .error 0
  | some (site, o, owners) =>
    match (s.core site).allocs.find? (fun x => x.woff ≤ o && o < x.woff + x.size * Config.granuleBytes) with
    | none => .error 0
    | some x =>
      if !owners.contains x.wg || o + size > x.woff + x.size * Config.granuleBytes || x.journal then .error x.id
      else .ok (site, x, o - x.woff)

/-- What the state of an allocation is to an access of a sheaf (R153). -/
inductive Touch where
  | free
  | loss
  | wait
  deriving DecidableEq, Repr

/-- What an allocation's state is to a sheaf: the handler's own meets it unlit, or goes on; another waits (R153). -/
def Alloc.touch (x : Alloc) (k : Option Nat) : Touch :=
  match x.state with
  | .dark => .loss
  | .refilling => if x.handSheaf == k && k.isSome then (if x.relit then .free else .loss) else .wait
  | _ => .free

/-- An access to the granary (R147, R151 to R154, R190). An allocation that holds bytes makes accesses wait while it is moved
after a loss point or written back. -/
def State.reachGranary (s : State) (v : Via) (off size : Nat) (a : Access) : Reach :=
  match s.granaryAt v off size with
  | .error i => .fault 0x0A i
  | .ok (site, x, o) =>
    match x.touch v.sheaf with
    | .loss => .loss site x.id o
    | .wait => .lossWait site x.id
    | .free =>
      if x.state == .shadowed then s.reachLocal v (localAddr x.backing + BitVec.ofNat 80 o) a
      else if (s.core site).relocating || x.writeback.isSome then .stall 23
      else .ok (.gran site x.id o) .rc

/-- An access of `size` bytes at a virtual address that lies in one page (R134); of a segment whose base lies in the aperture,
every access is refused (R184). -/
def State.reach (s : State) (v : Via) (va : Addr) (size : Nat) (a : Access) : Reach :=
  if v.shut then .fault 0x0A 0
  else match rangeOf va with
  | .pod dev off =>
    if dev = s.device then s.reachLocal v (BitVec.ofNat 80 off) a else s.reachPod v va dev.toNat off a
  | .aperture off => if a == .ex then .fault 0x0A 0 else s.reachGranary v off size a
  | .local => s.reachLocal v va a

/-- What an engine's range meets at issue: as an access does, but the backing copy of a SHADOWED allocation is translated only
when the engine gets to it (R201, R251). -/
def State.reachIssue (s : State) (v : Via) (va : Addr) (size : Nat) (a : Access) : Reach :=
  match rangeOf va with
  | .aperture off => match s.granaryAt v off size with
    | .ok (site, x, o) => if x.state == .shadowed && !v.shut then .ok (.gran site x.id o) .rc else s.reach v va size a
    | .error _ => s.reach v va size a
  | _ => s.reach v va size a

/-- The address at which an access is served: in a SHADOWED allocation, that of the backing byte (R154). -/
def State.servedAt (s : State) (v : Via) (va : Addr) (size : Nat) : Addr :=
  match rangeOf va with
  | .aperture off => match s.granaryAt v off size with
    | .ok (_, x, o) => if x.state == .shadowed then localAddr x.backing + BitVec.ofNat 80 o else va
    | .error _ => va
  | _ => va

/-- A holder keeps the translation of a local address it has used. -/
def State.cacheLocal (s : State) (v : Via) (va : Addr) : State :=
  match rangeOf va with
  | .local => s.cache v.holder v.asid va
  | _ => s

/-- Whether a synchronisation word of a size at an address lies in an allocation that is not pinned, whatever its state
(R144). -/
def State.unpinned (s : State) (v : Via) (va : Addr) (size : Nat) : Bool :=
  match rangeOf va with
  | .aperture off => match s.granaryAt v off size with
    | .ok (_, x, _) => x.rank != 7
    | .error _ => false
  | _ => false

/-- Whether a place is a pinned allocation's, or no allocation's (R144). -/
def State.pinnedOk (s : State) (pl : Place) : Bool :=
  match pl with
  | .gran site id _ => match s.alloc site id with
    | some a => a.rank == 7
    | none => false
  | _ => true

/-- Whether a range meets the aperture (R134). -/
def meetsAperture (va : Addr) (n : Nat) : Bool :=
  n != 0 && va.toNat < Config.apertureBase + 2 ^ 40 && Config.apertureBase < va.toNat + n

/-- Whether a segment other than `seg1` and `seg2` starts in the aperture (R184). -/
def shutSegment (sh : Sheaf) (seg : Nat) : Bool :=
  seg != 1 && seg != 2 && (match rangeOf (lget ⟨0, 0, false⟩ sh.segs seg).base with | .aperture _ => true | _ => false)

/-- A sheaf's accesses through a segment. -/
def viaOf (k : Nat) (sh : Sheaf) (wg : Workgroup) (seg : Nat) : Via := ⟨wg.site, wg.asid, some sh.wg, some k, seg, shutSegment sh seg⟩

/-- Chunks of copies, and matrix operations yet to fetch their B, that were to use one of some allocations of a core have lost
it (R152, R188, R220). -/
def State.markEngines (s : State) (site : Nat) (ids : List (BitVec 16)) : State :=
  let hit : Option (Nat × BitVec 16) → Bool := fun p => p.any (fun x => x.1 == site && ids.contains x.2)
  { s with copies := s.copies.map (fun x => { x with chunks := x.chunks.map (fun c =>
      { c with lost := c.lost || hit c.from_, void := c.void || hit c.into }) })
           tops := s.tops.map (fun x => if hit x.from_ then { x with lost := true } else x) }

/-! ### Cutting an access into parts (R162) -/

/-- The pieces of one page each that n bytes at va cover from offset `off` on: offset and length. -/
def piecesFrom (va : Nat) : Nat → Nat → Nat → List (Nat × Nat)
  | 0, _, _ => []
  | fuel + 1, off, n =>
    if n = 0 then []
    else
      let len := min n (65536 - (va + off) % 65536)
      (off, len) :: piecesFrom va fuel (off + len) (n - len)

/-- The pieces of one page each that an access of n bytes at va covers. -/
def pagePieces (va n : Nat) : List (Nat × Nat) := piecesFrom va (n / 65536 + 2) 0 n

/-- The pieces of a range that are served in one page each: of its own pages, or of the backing copy's (R154). -/
def State.piecesOf (s : State) (v : Via) (va : Addr) (n : Nat) : List (Nat × Nat) :=
  match rangeOf (s.servedAt v va n) with
  | .aperture _ => [(0, n)]
  | _ => pagePieces (s.servedAt v va n).toNat n

/-- The events of a piece: one for an aligned access of up to 8 bytes, two for 16, one per byte otherwise (R162). -/
def cut (aligned : Bool) (off len : Nat) : List (Nat × Nat) :=
  if !aligned then (List.range len).map (fun i => (off + i, 1))
  else if len = 16 then [(off, 8), (off + 8, 8)]
  else [(off, len)]

end Machine
end Sys2Proof
end

