-- ==== Sys2Proof/Machine/Order.lean ====
section
/-! DEFINITION. Outstanding accesses: the order within a sheaf (10 R165), the write path, the L1 (09 R139, 10 R164) and
the moment each access performs (log 7). -/

namespace Sys2Proof
namespace Machine

/-! ### Local edges (R165) -/

end Machine

/-- Whether a scope lies on one core (R160, R164). -/
def Scope.near : Scope → Bool
  | .sh => true
  | .wg => true
  | _ => false

/-- The wider of two scopes. -/
def Scope.max (a b : Scope) : Scope :=
  let n : Scope → Nat := fun s => match s with | .sh => 0 | .wg => 1 | .gg => 2 | .dv => 3 | .pd => 4
  if n a < n b then b else a

/-- The scope of an ordering access to a page (R161). -/
def Scope.onPage (scope : Scope) (pk : Machine.PageKind) : Scope := if pk == .so then scope.max .dv else scope

/-- An ordering with an acquire half. -/
def Ord.acquires : Ord → Bool | .acq => true | .ar => true | _ => false
/-- An ordering with a release half. -/
def Ord.releases : Ord → Bool | .rel => true | .ar => true | _ => false

namespace Machine

/-- A load or the read of an atomic. -/
def AccKind.reads : AccKind → Bool | .load .. => true | .atom .. => true | _ => false
/-- What the loads class counts: a load, an atomic, a word of a popped record (R71, R249). -/
def AccKind.loads : AccKind → Bool | .load .. => true | .atom .. => true | .word => true | _ => false
/-- A store or the write of an atomic. -/
def AccKind.writes : AccKind → Bool | .store => true | .atom .. => true | _ => false
/-- A marker of a fence. -/
def AccKind.isFence : AccKind → Bool | .fence => true | _ => false

/-- Whether an access has performed at a scope (R164). -/
def Acc.performedAt (x : Acc) (sc : Scope) : Bool :=
  match x.stage with
  | .issued => false
  | .path => sc.near
  | _ => x.srcs.isEmpty || sc.near

/-- Whether an access has performed for its own lane (row 1). -/
def Acc.performedAtAll (x : Acc) : Bool := match x.stage with | .issued => false | _ => true

/-- An order of the fences between two accesses of a sheaf has an edge at each of these scopes (rows 4 to 6). -/
def fenceScopes (accs : List Acc) (x y : Acc) : List Scope :=
  accs.filterMap (fun f =>
    if f.kind.isFence && f.k == y.k && x.id < f.id && f.id < y.id &&
        ((f.ord.acquires && x.kind.reads) ||
         (f.ord.releases && y.kind.writes) ||
         (f.ord == .ar && x.kind.writes && y.kind.reads))
    then some f.scope else none)

/-- Whether x, earlier in sheaf order, still holds back y (R165). -/
def holdsBack (accs : List Acc) (x y : Acc) : Bool :=
  let row1 := x.lane == y.lane && x.place.meets x.size y.place y.size && !x.performedAtAll
  let row2 := x.ord.acquires && x.kind.reads && y.pk != .un && !x.performedAt x.scope
  let row3 := y.ord.releases && y.kind.writes && x.pk != .un && !x.performedAt y.scope
  let row7 := x.pk == .so && y.pk != .un && !x.performedAt .dv
  let row8 := x.pk != .un && y.pk == .so && !x.performedAt .dv
  row1 || row2 || row3 || row7 || row8 || (fenceScopes accs x y).any (fun sc => !x.performedAt sc)

/-- Whether an acquiring fence still has to drop the L1 before y (R181). -/
def fencePending (accs : List Acc) (y : Acc) : Bool :=
  accs.any (fun f => f.kind.isFence && f.k == y.k && f.id < y.id && f.ord.acquires && !f.scope.near &&
    f.stage == .issued)

/-- Whether two accesses are of one issue and have no order between them: those of two lanes, and the parts of one lane's
access in one page, byte events on an SO page among them (R159, R162, log 32). -/
def unordered (x y : Acc) : Bool := x.iss == y.iss && (x.lane != y.lane || x.va.toNat / 65536 == y.va.toNat / 65536)

/-- Whether the order within its sheaf lets an access perform now (R165). -/
def State.mayPerform (s : State) (y : Acc) : Bool :=
  !fencePending s.accs y &&
  s.accs.all (fun x => x.kind.isFence || !(x.k == y.k && x.id < y.id) || unordered x y || !holdsBack s.accs x y)

/-- Whether two stores write a byte both, or, in the granary, a word of a bank both (R196, R262). -/
def Acc.joins (a b : Acc) : Bool :=
  match a.place, b.place with
  | .gran s i x, .gran t j y => s == t && i == j && x / 4 ≤ (y + b.size - 1) / 4 && y / 4 ≤ (x + a.size - 1) / 4
  | _, _ => a.place.meets a.size b.place b.size

/-- What a list of accesses draws in of another, step by step. -/
def joinAll (all : List Acc) : Nat → List Acc → List Acc
  | 0, l => l
  | n + 1, l =>
    let l' := all.filter (fun b => l.any (fun a => a.id == b.id || a.joins b))
    if l'.length == l.length then l else joinAll all n l'

/-- The stores of one issue that one of them draws in, in ascending lane order: they follow one another with no other store
between them, so that the highest lane's value stays (R196, R262). -/
def State.mates (s : State) (a : Acc) : List Acc :=
  let all := s.accs.filter (fun b => b.kind.writes && b.k == a.k && b.iss == a.iss && b.stage == a.stage)
  joinAll all all.length [a]

/-! ### The write path and the L1 -/

/-- The stores in a core's write path, oldest first. -/
def State.path (s : State) (site : Nat) : List Acc :=
  s.accs.filter (fun a => a.site == site && a.stage == .path && a.kind.writes)

/-- Bytes laid over bytes that start at a place, where another place meets it. -/
def overlay (pl : Place) (bs : List Byte) (q : Place) (qs : List Byte) : List Byte :=
  if !pl.meets bs.length q qs.length then bs
  else
    let start : Place → Nat := fun p => match p with | .hbm a => a | .gran _ _ o => o | .pod _ o => o
    mapIdxFrom (fun i b =>
      let at_ := start pl + i
      if start q ≤ at_ && at_ < start q + qs.length then lget b qs (at_ - start q) else b) 0 bs

/-- The bytes a core's load reads: the L1 line where it is held and not fresh, else the slice; and over them what stands
in the core's write path (R139, R164). Answers the bytes and the stores read from. -/
def State.loadBytes (s : State) (site : Nat) (pl : Place) (n : Nat) (useL1 : Bool) : List Byte × List Nat :=
  let base := match pl.line with
    | none => s.readPlace pl n
    | some l =>
      match if useL1 then kget (s.core site).l1 l else none with
      | some bytes => (bytes.drop pl.inLine).take n
      | none => s.readPlace pl n
  let hits := (s.path site).filter (fun a => pl.meets n a.place a.size)
  (hits.foldl (fun bs a => overlay pl bs a.place a.data) base, hits.map (·.id))

/-- The core holds the line of a place from now on, as it stands at the slice (R139). -/
def State.fillLine (s : State) (site : Nat) (pl : Place) : State :=
  match pl.line with
  | none => s
  | some l => s.modCore site (fun c => { c with l1 := kset c.l1 l (s.readPlace pl.lineStart Config.lineBytes) })

/-- The core drops the line of a place. -/
def State.dropLine (s : State) (site : Nat) (pl : Place) : State :=
  match pl.line with
  | none => s
  | some l => s.modCore site (fun c => { c with l1 := kdel c.l1 l })

/-- The core drops its whole L1 (R164). -/
def State.dropL1 (s : State) (site : Nat) : State := s.modCore site (fun c => { c with l1 := [] })

/-- A core's line copy takes the bytes of the core's own store as it leaves the path. -/
def State.patchLine (s : State) (site : Nat) (pl : Place) (bs : List Byte) : State :=
  match pl.line with
  | none => s
  | some l => s.modCore site (fun c => match kget c.l1 l with
      | some old => { c with l1 := kset c.l1 l (overlay pl.lineStart old pl bs) }
      | none => c)

/-! ### Accesses that perform -/

/-- Fences behind which the sheaf's earlier accesses have performed, as far as they order them, drop the L1; a fence with
nothing earlier outstanding is gone (R165, R181). -/
def State.settleFences (s : State) : State :=
  let due : Acc → Bool := fun f => f.kind.isFence && f.stage == .issued &&
    s.accs.all (fun x => !(x.k == f.k && x.id < f.id && (x.kind.reads || (f.ord == .ar && x.kind.writes))) || x.performedAt f.scope)
  let s1 := s.accs.foldl (fun (t : State) f =>
    if due f && f.ord.acquires && !f.scope.near then t.dropL1 f.site else t) s
  let marked := s.accs.map (fun f => if due f then { f with stage := Stage.path } else f)
  { s1 with accs := marked.filter (fun f => !(f.kind.isFence && f.stage == .path) ||
      marked.any (fun x => !x.kind.isFence && x.k == f.k && x.id < f.id)) }

/-- The counter that an operation of a kind raised falls by one (R71). -/
def Sheaf.lower (sh : Sheaf) (kind : AccKind) : Sheaf :=
  match kind with
  | .store => { sh with stores := sh.stores - 1 }
  | .quorum .. => { sh with stores := sh.stores - 1 }
  | .fence => sh
  | _ => { sh with loads := sh.loads - 1 }

/-- Values for the entries that an operation reserved; they stay reserved until a `waitc` covers them (R22). -/
def Entry.fill (op : Nat) (words : List Word) (e : Entry) : Entry :=
  match e.rsv with
  | some r => if r.op == op then { e with val := lget 0 words r.idx, rsv := some { r with here := true } } else e
  | none => e

/-- Values for the entries that an operation reserved, which are then ordinary ones (R218). -/
def Entry.fillNow (op : Nat) (words : List Word) (e : Entry) : Entry :=
  match e.rsv with
  | some r => if r.op == op then { e with val := lget 0 words r.idx, rsv := none } else e
  | none => e

/-- A covering `waitc`: an entry whose data are there is an ordinary one (R22, R72). -/
def Entry.cover (e : Entry) : Entry :=
  match e.rsv with
  | some r => if r.here then { e with rsv := none } else e
  | none => e

/-- A change of every entry of a lane. -/
def Lane.mapEntries (f : Entry → Entry) (l : Lane) : Lane := { q := l.q.map f, n := l.n.map f, frozen := l.frozen.map f }

/-- A lane's entries filled by an operation. -/
def Lane.fill (op : Nat) (words : List Word) (l : Lane) : Lane := l.mapEntries (Entry.fill op words)

/-- An operation's data reach a lane's registers. -/
def State.deliver (s : State) (k op lane : Nat) (words : List Word) : State :=
  s.modSheaf k (fun sh => { sh with lanes := lmod (Lane.fill op words) sh.lanes lane })

/-- The words of a loaded value: its bytes extended to whole registers (R69). -/
def loadWords (total : Nat) (sx : Bool) (bs : List Byte) : List Word :=
  if total < 4 then
    let v := leNat bs
    [BitVec.ofNat 32 (if sx && 2 ^ (8 * total - 1) ≤ v then v + 2 ^ 32 - 2 ^ (8 * total) else v)]
  else leWords bs

/-- The value of a lane's load, from its parts. -/
def partsBytes (total : Nat) (parts : List Acc) : List Byte :=
  parts.foldl (fun bs p => match p.kind with
    | .load _ off _ => mapIdxFrom (fun i b => if off ≤ i && i < off + p.size then lget b p.data (i - off) else b) 0 bs
    | _ => bs) (List.replicate total 0)

/-- Loads whose data are in the registers leave the list once no store they read is in a write path. -/
def purge (accs : List Acc) : List Acc := accs.filter (fun a => !(a.stage == .done && a.srcs.isEmpty))

/-- The lanes of a sheaf that have not exited (R96, R265). -/
def Ctl.live (t : Ctl) : Mask :=
  t.splits.foldl (fun m x => m ||| x.mask) (t.stack.foldl (fun m x => m ||| x.mask)
    (t.groups.foldl (fun m x => m ||| x.mask) 0))

/-- The operations that a sheaf's replays still hold open (R71, R138). -/
def Sheaf.openOps (sh : Sheaf) : List OpenOp := sh.ctl.splits.filterMap (fun sp => sp.replay.bind (·.op))

/-- The words that an operation brings a lane: the value of a load, the old value of an atomic, a word of a record. -/
def laneWords (parts : List Acc) : List Word :=
  match parts with
  | [] => []
  | a :: _ => match a.kind with
    | .load total _ sx => loadWords total sx (partsBytes total parts)
    | _ => leWords a.data

/-- The oldest operation of a sheaf's loads class that is not over, where all its data have come (R72). -/
def State.loadDue (s : State) (k : Nat) (sh : Sheaf) : Option Nat :=
  let mine := s.accs.filter (fun a => a.k == k && a.kind.loads && a.stage != .done)
  let held := (sh.openOps.filter (fun o => !o.store)).map (·.op)
  match (mine.map (·.op) ++ held).min? with
  | none => none
  | some o => if held.contains o || !mine.all (fun a => a.op != o || a.stage == .seen) then none else some o

/-- A load operation is over: its data are in the registers of its lanes that have not exited, and the loads counter falls
(R22, R71, R76). -/
def State.deliverOp (s : State) (k : Nat) (sh : Sheaf) (op : Nat) : State :=
  let mine : Acc → Bool := fun a => a.k == k && a.kind.loads && a.op == op
  let lanes := (s.accs.filter mine).foldl (fun l a => if l.contains a.lane then l else l ++ [a.lane]) []
  let s1 := (lanes.filter (fun l => sh.ctl.live.getLsbD l)).foldl (fun (t : State) l =>
    t.deliver k op l (laneWords (s.accs.filter (fun a => mine a && a.lane == l)))) s
  { s1.modSheaf k (fun x => { x with loads := x.loads - 1 }) with
    accs := purge (s.accs.map (fun a => if mine a then { a with stage := Stage.done } else a)) }

/-- A sheaf's loads end in the order in which they issued, each once its own data and those of every earlier one have come
(R71, R72). -/
def State.deliverLoads (s : State) (k : Nat) : Nat → State
  | 0 => s
  | n + 1 =>
    match s.sheaf k with
    | none => s
    | some sh => match s.loadDue k sh with
      | none => s
      | some op => State.deliverLoads (s.deliverOp k sh op) k n

/-- What a part of a load, an atomic or a word of a record brings about when its data come. -/
def State.arrived (s : State) (a : Acc) : State := s.deliverLoads a.k s.accs.length

/-- An access replaced. -/
def State.putAcc (s : State) (a : Acc) : State := { s with accs := s.accs.map (fun b => if b.id == a.id then a else b) }

/-- An outstanding access. -/
def State.acc (s : State) (id : Nat) : Option Acc := s.accs.find? (fun a => a.id == id)

/-- A load reads its bytes (R139, R164): `fresh` when its line is no longer held. -/
def State.performLoad (s : State) (a : Acc) (fresh : Bool) : State :=
  let so := a.pk == .so
  let useL1 := !fresh && !so
  let (bs, srcs) := s.loadBytes a.site a.place a.size useL1
  let held := match a.place.line with
    | some l => useL1 && (kget (s.core a.site).l1 l).isSome
    | none => true
  let s1 := if so then s.dropLine a.site a.place else if held then s else s.fillLine a.site a.place
  let s2 := if a.ord.acquires && !a.scope.near then s1.dropL1 a.site else s1
  ((s2.putAcc { a with data := bs, stage := .seen, srcs := srcs }).arrived a).settleFences

/-- A store that has left the list: nothing reads from it in the path any more. An acquire that read it only now performs
beyond its core, and drops the L1 (R164). -/
def State.retireStore (s : State) (id : Nat) : State :=
  let late := s.accs.filter (fun b => b.kind.reads && b.srcs == [id] && b.ord.acquires && !b.scope.near)
  let s1 := late.foldl (fun (t : State) b => t.dropL1 b.site) s
  { s1 with accs := purge ((s.accs.filter (fun b => b.id != id)).map (fun b => { b with srcs := b.srcs.filter (· != id) })) }

/-- Whether a replay holds an operation open (R71). -/
def State.isOpen (s : State) (k op : Nat) : Bool := (s.sheaf k).elim false (fun sh => sh.openOps.any (fun o => o.op == op))

/-- The stores counter falls when an operation has performed for every lane. -/
def State.storeCounted (s : State) (a : Acc) : State :=
  if s.isOpen a.k a.op || s.accs.any (fun b => b.op == a.op && b.k == a.k && b.stage == .issued) then s
  else s.modSheaf a.k (fun sh => sh.lower a.kind)

/-- An operation that no replay holds any more (R71). -/
def State.shutOp (s : State) (k : Nat) (o : OpenOp) : State :=
  if o.store then
    (if s.accs.any (fun b => b.op == o.op && b.k == k && b.stage == .issued) then s
     else s.modSheaf k (fun sh => { sh with stores := sh.stores - 1 }))
  else s.deliverLoads k s.accs.length

/-- The operations that a sheaf's replays hold open end with the lanes served so far: what the replays add counts by itself. -/
def State.closeReplays (s : State) (k : Nat) : State :=
  match s.sheaf k with
  | none => s
  | some sh =>
    sh.openOps.foldl (fun (t : State) o => t.shutOp k o) (s.setSheaf k { sh with ctl := { sh.ctl with
      splits := sh.ctl.splits.map (fun sp => { sp with replay := sp.replay.map (fun r => { r with op := none }) }) } })

/-- Whether a write reaches the area of a sheaf's spilled stack elements, the 576 bytes below `seg3` of a sheaf of width 32 or
64 (R102). -/
def State.inSpill (s : State) (a : Acc) (sh : Sheaf) : Bool :=
  let base := (lget ⟨0, 0, false⟩ sh.segs 3).base.toNat
  32 ≤ sh.width && (s.wg sh.wg).elim false (fun w => w.asid == a.asid) && base - 576 < a.va.toNat + a.size && a.va.toNat < base

/-- A write has reached such areas: their sheaves' control flow is undefined from their next reconvergence on (R102). -/
def State.smash (s : State) (a : Acc) : State :=
  match a.place with
  | .hbm _ => s.mapSheaves (fun _ sh => if s.inSpill a sh then { sh with smashed := true } else sh)
  | _ => s

/-- A store moves on (R164): into its core's write path, at the end of it, or straight to the bank of the granary. -/
def State.performStore (s : State) (a : Acc) : State :=
  match a.place with
  | .gran .. => (((s.writePlace a.place a.data).retireStore a.id).storeCounted a).settleFences
  | _ =>
    let entered := { a with stage := Stage.path }
    ((({ s with accs := s.accs.filter (fun (b : Acc) => b.id != a.id) ++ [entered] }).storeCounted a).settleFences).smash a

/-- A store leaves the write path and is written at the slice (R164). A store to an SO page also acquires: it drops the whole
L1 (R161). -/
def State.drainStore (s : State) (a : Acc) : State :=
  let s1 := s.writePlace a.place a.data
  let s2 := if a.pk == .so then s1.dropL1 a.site else s1.patchLine a.site a.place a.data
  (s2.retireStore a.id).settleFences

/-- Whether an older store of the core's path overlaps this one, and has to leave first (R168). -/
def State.drainBlocked (s : State) (a : Acc) : Bool :=
  (((s.path a.site).takeWhile (fun b => b.id != a.id)).any (fun b =>
    a.place.meets a.size b.place b.size && !(b.k == a.k && b.iss == a.iss)))

/-- A store leaves the write path behind the older ones that overlap it, and those behind theirs (R168). -/
def State.drainBehind (s : State) (a : Acc) : State :=
  let first := ((s.path a.site).takeWhile (fun b => b.id != a.id)).foldr (fun b l =>
    if (l ++ [a]).any (fun x => b.place.meets b.size x.place x.size) then b :: l else l) []
  (first ++ [a]).foldl State.drainStore s

/-- A store and the stores of its instruction that it draws in move on together (R196). -/
def State.moveStores (s : State) (a : Acc) : State :=
  let l := s.mates a
  if a.stage == .issued then (if l.all s.mayPerform then l.foldl State.performStore s else s)
  else if l.any s.drainBlocked then s else l.foldl State.drainStore s

/-- The new value an atomic leaves, if it writes (R178, R179). -/
def atomNew (fn : AtomFn) (w64 : Bool) (old v : DWord) : Option DWord :=
  let bits := if w64 then 64 else 32
  let sgn : DWord → Int := fun x => if w64 then x.toInt else (x.setWidth 32).toInt
  let uns : DWord → Nat := fun x => if w64 then x.toNat else (x.setWidth 32).toNat
  match fn with
  | .xchg => some v
  | .cas new => if uns old == uns v then some new else none
  | .op .add => some (BitVec.ofNat 64 ((uns old + uns v) % 2 ^ bits))
  | .op .and => some (old &&& v)
  | .op .or => some (old ||| v)
  | .op .xor => some (old ^^^ v)
  | .op .min => some (if sgn v < sgn old then v else old)
  | .op .max => some (if sgn old < sgn v then v else old)
  | .op .minn => some (if uns v < uns old then v else old)
  | .op .maxn => some (if uns old < uns v then v else old)

/-- An atomic reads and writes its word at its place (R163, R178 to R180). -/
def State.performAtomic (s : State) (a : Acc) : State :=
  match a.kind with
  | .atom fn w64 v =>
    let n := if w64 then 8 else 4
    let bs := s.readPlace a.place n
    let s1 := match atomNew fn w64 (leDWord bs) v with
      | some new => s.writePlace a.place (leBytes n new.toNat)
      | none => s
    let s2 := s1.dropLine a.site a.place
    let s3 := if a.ord.acquires && !a.scope.near then s2.dropL1 a.site else s2
    (((s3.putAcc { a with data := bs, stage := .seen }).arrived a).settleFences).smash a
  | _ => s

/-- A word of a popped record has come (R249). -/
def State.arriveWord (s : State) (a : Acc) : State := (s.putAcc { a with stage := .seen }).arrived a

/-- An access performs whole at once, in whatever order: what a loss point or a `gfree` does to the accesses issued before
it (R152, R188), and what a kill or an eviction does to stores issued. -/
def State.performNow (s : State) (a : Acc) : State :=
  match a.kind with
  | .load .. => if a.stage == .issued then s.performLoad a true else s
  | .store =>
    let s1 := if a.stage == .issued then s.performStore a else s
    match s1.acc a.id with
    | some b => s1.drainBehind b
    | none => s1
  | .atom .. => if a.stage == .issued then s.performAtomic a else s
  | .word => if a.stage == .issued then s.arriveWord a else s
  | .fence => s
  | .quorum .. => s

/-- Every outstanding access that a test picks performs at once, oldest first. -/
def State.performAll (s : State) (pick : Acc → Bool) : State :=
  (s.accs.filter pick).foldl (fun t a => match t.acc a.id with | some b => t.performNow b | none => t) s

/-- Outstanding accesses to an allocation. -/
def inAlloc (site : Nat) (id : BitVec 16) (a : Acc) : Bool :=
  match a.place with
  | .gran t j _ => t == site && j == id
  | _ => false

/-- What the hardware of a core or an observer reads or writes at once at the slice, with no order of its own: tables,
queues, fault records. Bytes in write paths that overlap are written first. -/
def State.flushOver (s : State) (pl : Place) (n : Nat) : State :=
  s.performAll (fun a => a.kind.writes && a.stage == .path && a.place.meets a.size pl n)

/-! ### Synchronising reads and writes that a group-set instruction makes at once -/

/-- A pseudo-access of a whole sheaf, for the order it must keep: lane 64 overlaps no lane. -/
def syncAcc (s : State) (k : Nat) (site : Nat) (kind : AccKind) (pl : Place) (n : Nat) (ord : Ord) (scope : Scope)
    (pk : PageKind) : Acc :=
  ⟨s.nextKey, s.nextKey, s.nextKey, k, site, 64, kind, 0, 0, pl, n, [], ord, scope, pk, .issued, [], none⟩

end Machine
end Sys2Proof
end

