-- ==== Sys2Proof/Machine/Agents.lean ====
section
/-! DEFINITION. How the distributor, the command processors, the finaliser and the samplers reach memory (log 27), the
measurement chain (21 R310) and the replay log (21 R322). -/

namespace Sys2Proof.Machine

/-! ### Ranges, short addresses, served faults -/

/-- Bytes of a structure at the slice. -/
def State.sliceBytes (s : State) (ps : List (Place × Nat)) : List Byte := ps.flatMap (fun p => s.readPlace p.1 p.2)

/-- The first place of a reached range. -/
def firstPlace (ps : List (Place × Nat)) : Place := (ps.headD (.hbm 0, 0)).1

/-- Bytes written over the pieces of a range. -/
def State.writePieces (s : State) : List (Place × Nat) → List Byte → State
  | [], _ => s
  | (pl, n) :: l, bs => ((s.flushOver pl n).writePlace pl (bs.take n)).writePieces l (bs.drop n)

/-- Stores that stand in write paths over the pieces of a range are written first. -/
def State.flushPieces (s : State) (ps : List (Place × Nat)) : State := ps.foldl (fun (t : State) p => t.flushOver p.1 p.2) s

/-- The pieces of n bytes of a range from an offset on. -/
def subPieces : List (Place × Nat) → Nat → Nat → List (Place × Nat)
  | [], _, _ => []
  | (pl, m) :: l, off, n =>
    if n = 0 then []
    else if m ≤ off then subPieces l (off - m) n
    else (pl.plus off, min n (m - off)) :: subPieces l 0 (n - min n (m - off))

/-- Bytes written from an offset of a reached structure on; no other byte of it is. -/
def State.putField (s : State) (ps : List (Place × Nat)) (off : Nat) (bs : List Byte) : State :=
  s.writePieces (subPieces ps off bs.length) bs

/-- A field of n bytes of a reached structure changed in one indivisible update at the slice (R163, R228). -/
def State.editField (s : State) (ps : List (Place × Nat)) (off n : Nat) (f : Nat → Nat) : State :=
  let qs := subPieces ps off n
  let t := s.flushPieces qs
  t.writePieces qs (leBytes n (f (leNat (t.sliceBytes qs))))

/-- The core that makes such a write also brings its own L1 lines up to date (R139). -/
def State.patchPieces (s : State) (site : Nat) : List (Place × Nat) → List Byte → State
  | [], _ => s
  | (pl, n) :: l, bs => (s.patchLine site pl (bs.take n)).patchPieces site l (bs.drop n)

/-- A memory processor serves a light fault or installs a page (R138): the sheaves that wait on that page go on. -/
def State.serveNow (s : State) (asid : BitVec 16) (va : Addr) (write : Bool) : State :=
  let dev := (va.extractLsb' 66 13).toNat
  let remote := va.getLsbD 79 && dev != s.device.toNat
  let s1 := if remote then { s with remotes := s.remotes.map (fun r =>
        if r.dev.toNat == dev then { r with pages := r.pages.map (fun p =>
          if p.page == (va.extractLsb' 0 66).toNat / 65536 then { p with light := false } else p) } else r) }
    else s.servePage asid (if va.getLsbD 79 then (va.extractLsb' 0 66).toNat else va.toNat) write
  let same : Addr → Bool := fun x => x.toNat / 65536 == va.toNat / 65536
  let s2 := s1.mapSheaves (fun _ sh => match sh.wait with
    | some (.replay a x w) => if a == asid && same x && (!w || write) then { sh with wait := none } else sh
    | _ => sh)
  { s2 with copies := s2.copies.map (fun c => match c.stalled with
    | some (x, w) => if c.asid == asid && same x && (!w || write) then { c with stalled := none } else c
    | none => c) }

/-- A memory processor asked to serve a fault: during its hand-over it is only asked (R314). -/
def State.serveAt (s : State) (asid : BitVec 16) (va : Addr) (write : Bool) : State :=
  if s.firmware.memHold then { s with firmware := { s.firmware with asked := true } } else s.serveNow asid va write

/-- A short address: a local or pod address, or an aperture address. -/
inductive Short where
  | plain (va : Addr)
  | aperture (va : Addr)
  deriving DecidableEq, Repr

/-- The address a 64-bit value names (R245). -/
def shortAddr (p : DWord) : Short :=
  if p.getLsbD 63 then .plain ((1#1 ++ p.extractLsb' 50 13 ++ 0#16 ++ p.extractLsb' 0 50))
  else if p.extractLsb' 40 24 = 0x7FFFFF#24 then .aperture (0x7FFFFFFFFF#40 ++ p.extractLsb' 0 40)
  else .plain (p.setWidth 80)

/-- The virtual address a short address stands for. -/
def Short.va : Short → Addr
  | .plain va => va
  | .aperture va => va

/-! ### Memory as an agent outside the cores reaches it -/

/-- An agent that acts for an address-space identifier. -/
def agentVia (asid : BitVec 16) : Via := ⟨416, asid, none, none, 0, false⟩

/-- One piece within a page: light faults, and translations a memory processor resolves, are served and the access replayed
(R138); any other fault is answered by its code. -/
def State.hwTries (v : Via) (a : Access) (va : Addr) (n : Nat) : Nat → State → State × Except Nat Place
  | 0, s => (s, .error 0x09)
  | fuel + 1, s =>
    match s.reach v va n a with
    | .ok pl _ => (s.cacheLocal v va, .ok pl)
    | .replay x => State.hwTries v a va n fuel (s.serveAt v.asid x (a == .wr))
    | .fault c _ => (s, .error c)
    | _ => (s, .error 0x0A)

/-- Such an access: a translation is installed, then its bits are set, so three tries are enough. -/
def State.hwOne (s : State) (v : Via) (a : Access) (va : Addr) (n : Nat) : State × Except Nat Place := State.hwTries v a va n 4 s

/-- The pieces of a range, page by page. -/
def State.hwPages (s : State) (v : Via) (a : Access) : Nat → Addr → Nat → State × Except Nat (List (Place × Nat))
  | 0, _, _ => (s, .ok [])
  | fuel + 1, va, n =>
    if n = 0 then (s, .ok [])
    else
      let at_ := s.servedAt v va n
      let len := match rangeOf at_ with | .aperture _ => n | _ => min n (65536 - at_.toNat % 65536)
      match s.hwOne v a va len with
      | (t, .error c) => (t, .error c)
      | (t, .ok pl) =>
        match State.hwPages t v a fuel (va + BitVec.ofNat 80 len) (n - len) with
        | (u, .ok l) => (u, .ok ((pl, len) :: l))
        | (u, .error c) => (u, .error c)

/-- A range at a local or pod address. -/
def State.hwRange (s : State) (asid : BitVec 16) (a : Access) (va : Addr) (n : Nat) : State × Except Nat (List (Place × Nat)) :=
  s.hwPages (agentVia asid) a (n / 65536 + 2) va n

/-- Bytes at a local address. -/
def State.hwBytes (s : State) (asid : BitVec 16) (p : DWord) (n : Nat) : State × Except Nat (List Byte) :=
  match s.hwRange asid .rd (localAddr p) n with
  | (t, .ok ps) => (t, .ok (t.sliceBytes ps))
  | (t, .error c) => (t, .error c)

/-- A word in the aperture that an agent names: it lies in a pinned allocation of a workgroup of the same address space
(R144, R245). -/
def State.hwAperture (s : State) (asid : BitVec 16) (off n : Nat) : Except Nat Place :=
  let named : Option (Nat × Nat) :=
    if off < 416 * Config.windowBytes then some (off / Config.windowBytes, off % Config.windowBytes)
    else if off < Config.aliasBase then none
    else
      let o := off - Config.aliasBase
      match s.gangs.find? (fun g => g.2.aliasNo == some (o / Config.aliasBytes)) with
      | none => none
      | some g => (s.memberOf g.2 (o % Config.aliasBytes / Config.windowBytes)).map (fun x => (x.2.site, o % Config.windowBytes))
  match named with
  | none => .error 0x0A
  | some (site, o) =>
    match (s.core site).allocs.find? (fun x => x.woff ≤ o && o + n ≤ x.woff + x.size * Config.granuleBytes) with
    | none => .error 0x0A
    | some x =>
      if ((s.wg x.wg).map (·.asid)) != some asid || x.journal then .error 0x0A
      else if x.rank != 7 then .error 0x1E
      else .ok (.gran site x.id (o - x.woff))

/-- A structure of up to 64 KiB named by a short address (R245); the aperture holds future words only. -/
def State.hwShort (s : State) (asid : BitVec 16) (a : Access) (future : Bool) (p : DWord) (n : Nat) :
    State × Except Nat (List (Place × Nat)) :=
  match shortAddr p with
  | .plain va => s.hwRange asid a va n
  | .aperture va =>
    if !future then (s, .error 0x0A)
    else match s.hwAperture asid (va.extractLsb' 0 40).toNat n with
      | .ok pl => (s, .ok [(pl, n)])
      | .error c => (s, .error c)

/-! ### Contexts (R310) -/

/-- The context of an address-space identifier in a partition. -/
def State.context (s : State) (p : Fin 16) (asid : BitVec 16) : Option Context :=
  (s.part p.val).contexts.find? (fun c => c.asid == asid)

/-- A context changed. -/
def State.modCtx (s : State) (p : Fin 16) (asid : BitVec 16) (f : Context → Context) : State :=
  let x := s.part p.val
  s.setPart p.val { x with contexts := x.contexts.map (fun c => if c.asid == asid then f c else c) }

/-- A context exists: the command processor assigns a number it never uses again, and M0 (R310). -/
def State.openCtx (s : State) (p : Fin 16) (asid : BitVec 16) : State :=
  match s.context p asid with
  | some _ => s
  | none =>
    let m0 := shake256 ([0x49, 0x52, 0x42, 0x49, 0x4E, 0x2D, 0x4D, 0x43] ++ leBytes 8 s.ctxNext.toNat ++ s.firmware.fwm)
    let c : Context := { asid := asid, ctxid := s.ctxNext, chain := m0, joins := [], seq := 0, norep := none, hov := false
                         logBase := (s.part p.val).logBase, logLen := (s.part p.val).logLen, logSeq := 0 }
    let x := s.part p.val
    { s.setPart p.val { x with contexts := x.contexts ++ [c] } with ctxNext := s.ctxNext + 1 }

/-- The next chain value (R310). -/
def chainNext (m : List Byte) (typ : Nat) (obj : List Byte) : List Byte :=
  shake256 (m ++ leBytes 4 typ ++ leBytes 8 obj.length ++ shake256 obj)

/-- A record appended to a context's chain (R310). -/
def State.chain (s : State) (p : Fin 16) (asid : BitVec 16) (typ : Nat) (obj : List Byte) : State :=
  (s.openCtx p asid).modCtx p asid (fun c => { c with chain := chainNext c.chain typ obj })

/-- A scheduler-visible decision (R322): its entry, or `NOREP` where the ring has no room. -/
def State.decision (s : State) (p : Fin 16) (asid : BitVec 16) (kind obj : Nat) (addr data : DWord) : State :=
  match s.context p asid with
  | none => s
  | some c =>
    let n := c.logSeq + 1
    let s1 := s.modCtx p asid (fun c => { c with logSeq := n })
    let lost (t : State) : State := t.modCtx p asid (fun c => { c with norep := if c.norep.isNone then some n else c.norep })
    if c.logLen < n.toNat then lost s1
    else
      match s1.hwRange asid .wr (localAddr (c.logBase + 32 * (n - 1))) 32 with
      | (t, .ok ps) => t.writePieces ps (leBytes 8 n.toNat ++ leBytes 4 kind ++ leBytes 4 obj ++ leBytes 8 addr.toNat ++
          leBytes 8 data.toNat)
      | (t, .error _) => lost t

/-- The popper's coordinates packed for the log (R322). -/
def coords (wg : Workgroup) (sidx : Nat) : DWord :=
  BitVec.ofNat 64 (wg.gangNo % 65536 + wg.stage * 65536 + wg.idx * 2 ^ 20 + sidx * 2 ^ 24)

/-- A pop by a sheaf is a decision (R322): the queue and the record's `PSEQ`. -/
def State.popDecision (s : State) (k q pseq : Nat) : State :=
  match s.sheaf k with
  | none => s
  | some sh =>
    match s.wg sh.wg with
    | none => s
    | some wg => s.decision wg.part wg.asid 1 q (BitVec.ofNat 64 (pseq % 65536)) (coords wg sh.sidx)

end Sys2Proof.Machine
end

