-- ==== Sys2Proof/Machine/Ring.lean ====
section
/-! DEFINITION. Hardware queues (15 R221 to R225, R334) and the ports of a sheaf (06 R105, 16 R248). -/

namespace Sys2Proof.Machine

/-! ### Records -/

/-- The place of record i (R221). -/
def Queue.slot (q : Queue) (i : Word) : Place := q.ring.plus (i.toNat % 2 ^ q.log2 * 64)

/-- Records of room (R221). -/
def Queue.room (q : Queue) : Nat := 2 ^ q.log2 - (q.tail - q.floor).toNat

/-- Floor moves past completed records (R223). -/
def advanceFloor : Nat → Word → List Word → Word × List Word
  | 0, f, d => (f, d)
  | n + 1, f, d => if d.contains f then advanceFloor n (f + 1) (d.filter (· != f)) else (f, d)

/-- Record i completes (R223). -/
def Queue.complete (q : Queue) (i : Word) : Queue :=
  let (f, d) := advanceFloor (q.done.length + 1) q.floor (i :: q.done)
  { q with floor := f, done := d }

/-- A started record cannot be served (R224): the queue goes from OPEN to ERROR; once it drains the record is done with. -/
def Queue.fail (q : Queue) (i : Word) : Queue :=
  match q.state with
  | .opened => { q with state := .error, bad := i :: q.bad }
  | .error => { q with bad := i :: q.bad }
  | _ => q.complete i

/-- The records that put a queue in ERROR are done with (R224). -/
def Queue.settleBad (q : Queue) : Queue := q.bad.foldl (fun (x : Queue) i => x.complete i) { q with bad := [] }

/-- A word of a record, as it stands in the ring. -/
def State.ringWord (s : State) (q : Queue) (i : Word) (w : Nat) : Word := leWord (s.readPlace ((q.slot i).plus (4 * w)) 4)

/-- A word of a record written; the header takes the record's number as PSEQ (R222). -/
def State.ringPut (s : State) (q : Queue) (i : Word) (w : Nat) (v : Word) : State :=
  let v' := if w = 0 then (i.extractLsb' 0 16) ++ (v.extractLsb' 0 16) else v
  s.writePlace ((q.slot i).plus (4 * w)) (leBytes 4 v'.toNat)

/-- A whole record of 16 words appended. -/
def State.pushRecord (s : State) (k : Nat) (ws : List Word) : State :=
  match kget s.queues k with
  | none => s
  | some q =>
    let s1 := (List.range 16).foldl (fun t w => t.ringPut q q.tail w (lget 0 ws w)) s
    s1.setQueue k { q with tail := q.tail + 1 }

/-- The 16 words of the record at head. -/
def State.headRecord (s : State) (q : Queue) : List Word := (List.range 16).map (s.ringWord q q.head)

/-- Whether the record at head stands whole and not begun. -/
def Queue.whole (q : Queue) : Bool :=
  q.head != q.tail && q.popped == 0 && !q.taken.any (fun t => t.1 == q.head)

/-- The record at head is popped whole and started. -/
def Queue.take (q : Queue) : Queue := { q with head := q.head + 1 }

/-- Whether word number n from the next word to pop stands in the ring (R105, R334). -/
def Queue.has (q : Queue) (n : Nat) : Bool :=
  let at_ := q.popped + n
  let i := q.head + BitVec.ofNat 32 (at_ / 16)
  at_ / 16 < (q.tail - q.head).toNat &&
  (match q.taken.find? (fun t => t.1 == i) with
   | some t => at_ % 16 < t.2
   | none => true)

/-! ### Ports -/

/-- A bound port of a sheaf, and its queue: DEAD once the identifier has gone to another queue (R224, R297). -/
def State.portOf (s : State) (sh : Sheaf) (h : Nat) : Option (Port × Queue) :=
  match (sh.ports[h]?).join with
  | some p => (kget s.queues p.q).map (fun q => (p, if q.inc = p.inc then q else { q with state := .dead }))
  | none => none

/-- Whether part of the record at head has been popped through this port (R249). -/
def Port.popsPart (p : Port) (q : Queue) : Bool := !p.push && p.words > 0 && q.popped > 0 && p.slot == q.head.toNat

/-- What one field of an instruction asks of a port. -/
structure PortUse where
  field : Nat
  h : Nat
  push : Bool
  words : Nat
  deriving DecidableEq, Repr

/-- The words that the uses of one instruction pop from a queue. -/
def State.popsOf (s : State) (sh : Sheaf) (us : List PortUse) (q : Nat) : Nat :=
  us.foldl (fun n u => if !u.push && (s.portOf sh u.h).any (fun x => x.1.q == q) then n + u.words else n) 0

/-- The fault of one port use of an instruction, if any (R105, R224, R225): code and field. From a draining queue the instruction
may pop no more than the rest of the record begun. -/
def State.portFault (s : State) (sh : Sheaf) (us : List PortUse) (u : PortUse) : Option (Nat × Nat) :=
  match s.portOf sh u.h with
  | none => some (0x06, u.field)
  | some (p, q) =>
    if p.push != u.push then some (0x06, u.field)
    else match q.state with
      | .opened => none
      | .draining => if !u.push && p.popsPart q && s.popsOf sh us p.q ≤ 16 - q.popped then none else some (0x17, u.field)
      | _ => some (0x17, u.field)

/-- What the uses of one instruction need of each queue they name: words to pop, new records to push into. -/
def State.portNeeds (s : State) (sh : Sheaf) (us : List PortUse) : List PortNeed :=
  us.filterMap (fun u => (s.portOf sh u.h).map (fun pq =>
    ⟨pq.1.q, u.push, if u.push then (if pq.1.words = 0 then (u.words + 15) / 16 else (u.words + pq.1.words - 1) / 16)
                     else u.words⟩))

/-- What a list of needs asks of queue k in a direction. -/
def needWords (ns : List PortNeed) (k : Nat) (push : Bool) : Nat :=
  ns.foldl (fun n x => if x.q == k && x.push == push then n + x.words else n) 0

/-- Whether every queue can supply and take all the words at once (R105). -/
def State.portsReady (s : State) (ns : List PortNeed) : Bool :=
  ns.all (fun x => match kget s.queues x.q with
    | none => true
    | some q => if x.push then decide (needWords ns x.q true ≤ q.room)
                else (List.range (needWords ns x.q false)).all q.has)

/-- One word popped through port h of sheaf k. -/
def State.popWord (s : State) (k h : Nat) : Word × State :=
  match s.sheaf k with
  | none => (0, s)
  | some sh =>
    match s.portOf sh h with
    | none => (0, s)
    | some (p, q) =>
      let v := s.ringWord q q.head q.popped
      let last := q.popped == 15
      let q' := if last then Queue.complete { q with popped := 0, head := q.head + 1 } q.head else { q with popped := q.popped + 1 }
      let p' := if last then { p with words := 0 } else { p with words := p.words + 1, slot := q.head.toNat }
      let s1 := (s.setQueue p.q q').setSheaf k { sh with ports := lset sh.ports h (some p') }
      (v, if q.popped = 0 then s1.popDecision k p.q q.head.toNat else s1)

/-- Word number n from the next word to pop, as it stands in the ring. -/
def State.peekWord (s : State) (q : Queue) (n : Nat) : Word :=
  s.ringWord q (q.head + BitVec.ofNat 32 ((q.popped + n) / 16)) ((q.popped + n) % 16)

/-- n words popped through a port, in order. -/
def State.popWords (s : State) (k h : Nat) : Nat → List Word × State
  | 0 => ([], s)
  | n + 1 =>
    let (v, s1) := s.popWord k h
    let (vs, s2) := State.popWords s1 k h n
    (v :: vs, s2)

/-- One word pushed through port h of sheaf k (R334). -/
def State.pushWord (s : State) (k h : Nat) (v : Word) : State :=
  match s.sheaf k with
  | none => s
  | some sh =>
    match s.portOf sh h with
    | none => s
    | some (p, q) =>
      let (slot, q1) := if p.words = 0 then (q.tail, { q with tail := q.tail + 1, taken := (q.tail, 0) :: q.taken })
        else (BitVec.ofNat 32 p.slot, q)
      let n := p.words + 1
      let q2 := { q1 with taken := if n = 16 then q1.taken.filter (fun t => t.1 != slot)
                                   else q1.taken.map (fun t => if t.1 == slot then (slot, n) else t) }
      let p' := { p with words := n % 16, slot := slot.toNat }
      ((s.ringPut q slot p.words v).setQueue p.q q2).setSheaf k { sh with ports := lset sh.ports h (some p') }

/-- Words pushed through a port, in order. -/
def State.pushWords (s : State) (k h : Nat) : List Word → State
  | [] => s
  | v :: vs => (s.pushWord k h v).pushWords k h vs

/-- Port h of sheaf k is released as `qunbind` does (R248). -/
def State.unbindPort (s : State) (k h : Nat) : State :=
  match s.sheaf k with
  | none => s
  | some sh =>
    match s.portOf sh h with
    | none => s.setSheaf k { sh with ports := lset sh.ports h none }
    | some (p, q) =>
      let s1 :=
        if q.state == .dead then s
        else if p.push then (if p.words > 0 then s.pushWords k h (List.replicate (16 - p.words) 0) else s)
        else if p.popsPart q then s.setQueue p.q (Queue.complete { q with popped := 0, head := q.head + 1 } q.head)
        else s
      s1.modSheaf k (fun x => { x with ports := lset x.ports h none })

/-- Every port of a sheaf is released, in port order (R248). -/
def State.unbindAll (s : State) (k : Nat) : State := (List.range 8).foldl (fun t h => t.unbindPort k h) s

/-- The queue's ring was freed with its allocation: DEAD at once, started records complete (R221, R224). -/
def State.ringFreed (s : State) (site : Nat) (id : BitVec 16) : State :=
  { s with queues := s.queues.map (fun kq => match kq.2.ring with
      | .gran t j _ => if t == site && j == id then
          (kq.1, { kq.2 with state := .dead, head := kq.2.tail, floor := kq.2.tail, done := [], popped := 0, taken := [], bad := [] }) else kq
      | _ => kq) }

end Sys2Proof.Machine
end

