-- ==== Sys2Proof/Machine/Ops.lean ====
section
/-! DEFINITION. What every instruction shares: the issuing split, stalling, replaying, raising a fault, entering a handler
and returning from one (18 R264 to R272, R332, R333). -/

namespace Sys2Proof.Machine

/-! ### The issuing split -/

/-- The split that issues, with its sheaf and workgroup. -/
structure Ctx where
  k : Nat
  j : Nat
  sh : Sheaf
  sp : Split
  wg : Workgroup
  deriving DecidableEq, Repr

/-- The issuing split of the state. -/
def State.ctx (s : State) : Option Ctx :=
  match s.cur with
  | .sheaf k j =>
    match s.sheaf k with
    | none => none
    | some sh =>
      match sh.ctl.splits[j]?, s.wg sh.wg with
      | some sp, some wg => some ⟨k, j, sh, sp, wg⟩
      | _, _ => none
  | _ => none

/-- An instruction word carried out by the issuing split. -/
def issue (s : State) (f : Ctx → State) : Host.Outcome State Fault Refusal :=
  match s.ctx with
  | some c => .next (f c)
  | none => .fault .noSplit

/-- The byte address of a program counter (R20). -/
def byteAddr (pc : BitVec 78) : Addr := pc ++ 0#2

/-- The lanes an instruction acts on: the active mask, or the lanes a replay still serves (R138). -/
def Ctx.active (c : Ctx) : Mask :=
  match c.sp.replay with
  | some r => r.mask
  | none => c.sp.mask

/-- The site of the issuing sheaf's core. -/
abbrev Ctx.site (c : Ctx) : Nat := c.wg.site

/-- The issuing split replaced. -/
def State.putSplit (s : State) (c : Ctx) (sp : Split) : State :=
  s.modSheaf c.k (fun sh => { sh with ctl := { sh.ctl with splits := lset sh.ctl.splits c.j sp } })

/-- A split at a program counter, running, with nothing left of an earlier attempt. -/
def Split.at (sp : Split) (pc : BitVec 78) : Split :=
  { sp with pc := pc, parked := false, again := false, stall := 0, tried := false, since := 0, needs := [], replay := none }

/-- A fresh split. -/
def Split.fresh (pc : BitVec 78) (mask : Mask) : Split := ⟨pc, mask, false, false, 0, false, 0, [], none⟩

/-- Control goes to an address (R20, R74). -/
def State.goto (s : State) (c : Ctx) (pc : BitVec 78) : State := s.putSplit c (c.sp.at pc)

/-- Control goes on to the next word (R20). -/
def State.advance (s : State) (c : Ctx) : State := s.goto c (c.sp.pc + 1)

/-- Whether the issuing split belongs to a sheaf with a recorded fault: it stops before an instruction that would fault again
or wait. A replay goes on, and its lanes then park (R265, R266). -/
def Ctx.stops (c : Ctx) : Bool := c.sh.pend.isSome && c.sh.hand.isNone && c.sp.replay.isNone

/-- The instruction does not issue, for a reason of R318. -/
def State.stall (s : State) (c : Ctx) (code : Nat) : State := s.putSplit c { c.sp with stall := code, tried := true }

/-- The instruction does not issue for want of words or room in its queues (R105). -/
def State.stallPort (s : State) (c : Ctx) (ns : List PortNeed) : State :=
  if c.stops then s.stall c 21
  else s.putSplit c { c.sp with stall := 8, tried := true, needs := ns, since := if c.sp.stall = 8 then c.sp.since else s.cycle }

/-- Instructions that a sheaf with a recorded fault stops before (R266). -/
def issueStop (s : State) (f : Ctx → State) : Host.Outcome State Fault Refusal :=
  issue s (fun c => if c.sh.pend.isSome && c.sh.hand.isNone then s.stall c 21 else f c)

/-- A debugger takes a sheaf (R324): it stays resident and is not ready. -/
def Sheaf.halt (sh : Sheaf) : Sheaf := { sh with haltReq := false, halted := true }

/-- A region edge (R324): a halt request is taken before it issues. -/
def issueEdge (s : State) (f : Ctx → State) : Host.Outcome State Fault Refusal :=
  issue s (fun c => if c.sh.haltReq then (s.stall c 22).modSheaf c.k Sheaf.halt else f c)

/-- The stall reason of a wait (R318, and log 32 for one that R318 does not list). -/
def Wait.code : Wait → Nat
  | .watch .. => 11
  | .await .. => 12
  | .barWg => 10
  | .barGg => 10
  | .port _ => 8
  | .lease _ => 13
  | .quorum .. => 14
  | .loss .. => 15
  | .replay .. => 16
  | .table => 2
  | .shadow .. => 2

/-- The split of a sheaf that stands at the instruction it waits in. -/
def Sheaf.waiter (sh : Sheaf) : Nat :=
  match sh.wait with
  | some w => (sh.ctl.splits.findIdx? (fun x => x.stall == w.code)).getD 0
  | none => 0

/-- Whether a sheaf waits for the write-back of its own `shadow`: it issues nothing and takes no trap before that is over (R190). -/
def Sheaf.writing (sh : Sheaf) : Bool := match sh.wait with | some (.shadow ..) => true | _ => false

/-- The sheaf waits as R110 states, or for a replay or a loss (R138, R153); the instruction issues again on wake. -/
def State.waitOn (s : State) (c : Ctx) (w : Wait) : State :=
  if c.stops then s.stall c 21
  else (s.putSplit c { c.sp with stall := w.code }).modSheaf c.k (fun sh => { sh with wait := some w })

/-- A replay (R138): the split is held at the instruction for the lanes given, with the operands captured. -/
def State.replayOn (s : State) (c : Ctx) (va : Addr) (write : Bool) (r : Replay) : State :=
  (s.putSplit c { c.sp with stall := 16, replay := some r }).modSheaf c.k
    (fun sh => { sh with wait := some (.replay c.wg.asid va write) })

/-! ### Ends and kills -/

/-- No split, element or group left. -/
def Ctl.dead (t : Ctl) : Ctl := { t with splits := [], stack := [], groups := [], origin := none }

/-- Every split of a sheaf is gone; what it waits for and what is pending goes with them. -/
def Sheaf.stopAll (sh : Sheaf) : Sheaf :=
  { sh with ctl := sh.ctl.dead, pend := none, hand := none, engine := none, restarting := false, wait := none,
            sleep := none, preempt := false, slice := false, timer := false, haltReq := false, halted := false,
            saving := .none }

/-- A workgroup is killed: its sheaves stop, its copies are drained and discarded, its matrix operations cancelled (R240);
`SHEAF_END` releases what it holds (R100, R270). -/
def State.kill (s : State) (wg : Nat) : State :=
  let open_ := (s.sheaves.filter (fun p => (s.sheaf p.1).any (fun x => x.wg == wg))).foldl (fun (t : State) p => t.closeReplays p.1) s
  let s1 := (open_.modWg wg (fun w => { w with killed := true })).mapSheaves (fun _ sh =>
    if sh.wg == wg then { sh.stopAll with tiles := 0 } else sh)
  { s1 with
    copies := s1.copies.map (fun x => if x.wg == wg then { x with discard := true, stalled := none } else x)
    tops := s1.tops.filter (fun x => x.wg != wg) }

/-! ### Raising a fault (R264 to R266, R332) -/

/-- A fault found: code, operand field, and what the record shows of it (R271). -/
structure Exc where
  code : Nat
  opnd : Nat
  addr : Addr := 0
  alloc : BitVec 16 := 0
  aux : Word := 0
  imm : BitVec 12 := 0
  site : Nat := 0
  deriving DecidableEq, Repr

/-- The record of a fault at an instruction (R271). -/
def Exc.record (e : Exc) (word : Word) (pc : BitVec 78) (lanes : Mask) (target : DWord) : FaultRec :=
  let a := byteAddr pc
  { code := e.code, opnd := e.opnd, imm := e.imm, word := word, pc := pc, lanes := lanes, addr := e.addr, alloc := e.alloc
    aux := e.aux, rpc := (if 0x18 ≤ e.code ∧ e.code ≤ 0x1A then a + 4 else a).extractLsb' 0 64, save := 0
    restore := false, target := target, site := e.site }

/-- Every split but one stops before its next instruction (R266). -/
def stopOthers (keep : Option Nat) (l : List Split) : List Split :=
  mapIdxFrom (fun i sp => if keep = some i then sp else { sp with stall := 21 }) 0 l

/-- A sheaf leaves its wait or sleep and its splits stop for a trap; one that waits for its write-back stays at its `shadow`
(R190, R266). -/
def Sheaf.stopTrap (sh : Sheaf) : Sheaf :=
  if sh.writing then { sh with ctl := { sh.ctl with splits := stopOthers (some sh.waiter) sh.ctl.splits } }
  else { sh with wait := none, sleep := none, ctl := { sh.ctl with splits := stopOthers none sh.ctl.splits } }

/-- A fault of lanes of the issuing split (R265, R266): the lanes leave it as a fault-parked group with the address of
their instruction; the first fault is recorded and stops the other splits. In a handler it is a double fault (R270). The
split stands where the caller left it. -/
def State.raiseLanes (s : State) (c : Ctx) (lanes : Mask) (e : Exc) (target : DWord) : State :=
  match s.sheaf c.k with
  | none => s
  | some sh =>
    if sh.hand.isSome then s.kill sh.wg
    else if c.stops then s.stall c 21
    else
      let stay := maskDiff ((sh.ctl.splits[c.j]?).elim 0 (fun sp => sp.mask)) lanes
      let first := sh.pend.isNone
      let done := if stay = 0 then (sh.ctl.splits[c.j]?).bind (fun sp => sp.replay.bind (·.op)) else none
      let splits := if stay = 0 then sh.ctl.splits.eraseIdx c.j
        else lmod (fun sp => { sp with mask := stay }) sh.ctl.splits c.j
      let splits' := if first then stopOthers (if stay = 0 then none else some c.j) splits else splits
      let t := s.setSheaf c.k { sh with
        ctl := { sh.ctl with splits := splits', groups := sh.ctl.groups ++ [⟨c.sp.pc, lanes, first⟩] }
        pend := if first then some (e.record s.word c.sp.pc lanes target) else sh.pend }
      done.elim t (fun o => t.shutOp c.k o)

/-- A fault of split scope, delivered to the sheaf's trap entry (R264). -/
def State.raise (s : State) (c : Ctx) (e : Exc) : State := s.raiseLanes c c.sp.mask e c.sh.trapEntry

/-- A fault of split scope without an address. -/
def State.trap (s : State) (c : Ctx) (code opnd : Nat) : State := s.raise c { code := code, opnd := opnd }

/-- A loss fault or a loss wait of the whole split (R153). -/
def State.raiseLoss (s : State) (c : Ctx) (site : Nat) (id : BitVec 16) (off : Nat) (opnd : Nat) (ea : Addr) : State :=
  match s.alloc site id with
  | none => s.raise c { code := 0x0A, opnd := opnd, addr := ea }
  | some a =>
    let mine := match c.sh.hand with
      | some h => h.glean && h.site == site && h.id == id
      | none => false
    if c.stops then s.stall c 21
    else if c.wg.task.isSome && a.wg == c.sh.wg then
      -- a task that loses its own allocation is aborted and requeued (R233)
      s.modSheaf c.k (fun sh => { sh with restarting := true, pend := none, ctl := { sh.ctl with splits := stopOthers none sh.ctl.splits } })
    else if mine then
      -- the handler's sheaf meets it unlit: the handler is entered again from its start with the same record (R153)
      (s.closeReplays c.k).modSheaf c.k (fun sh => { sh with
        ctl := { sh.ctl with splits := [Split.fresh (a.handler.extractLsb' 2 62 |>.setWidth 78) sh.ctl.live], stack := []
                             groups := [] }
        lanes := sh.lanes.map (fun l => { l with q := List.replicate 16 Entry.dead }) })
    else
      let s1 := if c.sh.hand.isSome then s
        else s.modAlloc site id (fun a => { a with state := .refilling, relit := false, handSheaf := some c.k })
      s1.raiseLanes c c.sp.mask
        { code := 0x0C, opnd := opnd, addr := ea, alloc := id, aux := BitVec.ofNat 32 (a.woff + off), site := site } a.handler

/-! ### The fault record and entry to a handler (R270, R271) -/

/-- A bit as a number. -/
def b2n (b : Bool) : Nat := if b then 1 else 0

/-- Bit k: frozen entry k live in some live lane (R271). -/
def qlive (lanes : List Lane) (live : Mask) : Nat :=
  (List.range 16).foldl (fun n k =>
    if (maskLanes live).any (fun l => (lget Entry.dead (lget Lane.launch lanes l).q k).live) then n + 2 ^ k else n) 0

/-- The 64 bytes of a fault record (R271). -/
def faultBytes (f : FaultRec) (sh : Sheaf) (live : Mask) (timerDue : Bool) : List Byte :=
  let w0 := f.code + f.opnd * 2 ^ 8 + b2n f.restore * 2 ^ 11 + b2n sh.preempt * 2 ^ 12 + b2n sh.slice * 2 ^ 13 +
    b2n timerDue * 2 ^ 14 + b2n sh.engine.isSome * 2 ^ 15 + f.imm.toNat * 2 ^ 16
  leBytes 4 w0 ++ leBytes 4 f.word.toNat ++ leBytes 8 (byteAddr f.pc).toNat ++ leBytes 8 f.lanes.toNat ++
    leBytes 8 f.addr.toNat ++ leBytes 4 (f.addr.toNat / 2 ^ 64 + f.alloc.toNat * 2 ^ 16) ++ leBytes 4 f.aux.toNat ++
    leBytes 8 f.save.toNat ++ leBytes 8 f.rpc.toNat ++ leBytes 4 (qlive sh.lanes live + sh.ctl.restarts * 2 ^ 16) ++
    leBytes 4 0

/-- Where a range of a sheaf's segment lies, its pieces in order, or the first reason it cannot be reached. -/
def State.reachRange (s : State) (v : Via) (va : Addr) (n : Nat) (a : Access) : Except (Reach × Addr) (List (Place × Nat)) :=
  (s.piecesOf v va n).foldr (fun p acc =>
    match s.reach v (va + BitVec.ofNat 80 p.1) p.2 a with
    | .ok pl _ => acc.map (fun l => (pl, p.2) :: l)
    | r => .error (r, va + BitVec.ofNat 80 p.1)) (.ok [])

/-- The bytes of the pieces of a range, as the sheaf's core sees them. -/
def State.readPieces (s : State) (site : Nat) (l : List (Place × Nat)) : List Byte :=
  l.flatMap (fun p => (s.loadBytes site p.1 p.2 false).1)

/-- Whether the timer comparator has passed (R128). -/
def State.timerDue (s : State) (sh : Sheaf) : Bool := sh.ctl.cmp != 0 && sh.ctl.cmp.toNat ≤ s.cycle

/-- Whether a sheaf with a pending fault has stopped (R266). -/
def Sheaf.stopped (sh : Sheaf) : Bool := sh.ctl.splits.all (fun sp => sp.parked || sp.stall == 21) && sh.loads == 0

/-- Entry to the handler of a sheaf's pending fault (R270): the queues are frozen, the control state is set aside, the
record is written at `seg3`, and one split of the live lanes starts at the target. A sheaf without a trap entry, or whose
record cannot be written, loses its workgroup (R264, R270). -/
def State.enterHandler (s : State) (k : Nat) : State :=
  match s.sheaf k with
  | none => s
  | some sh =>
    match sh.pend, s.wg sh.wg with
    | some f, some wg =>
      let live := sh.ctl.live
      let base := (lget ⟨0, 0, false⟩ sh.segs 3).base
      if f.target = 0 && f.code != 0x0C then s.kill sh.wg
      else
        match s.reachRange (viaOf k sh wg 3) base 64 .wr with
        | .error (.replay va, _) => s.setSheaf k { sh with wait := some (.replay wg.asid va true) }
        | .error _ => s.kill sh.wg
        | .ok pieces =>
          let record := faultBytes f sh live (s.timerDue sh)
          let s1 := (s.writePieces pieces record).patchPieces wg.site pieces record
          s1.bump.modSheaf k (fun x => { x with
            lanes := mapIdxFrom (fun i l => if live.getLsbD i then
              { l with frozen := l.q, q := List.replicate 16 Entry.dead } else l) 0 x.lanes
            hand := some ⟨f.code == 0x0C, f, x.ctl, f.site, f.alloc, s1.nextKey⟩
            pend := none
            ctl := ⟨[Split.fresh (f.target.extractLsb' 2 62 |>.setWidth 78) live], [], [], none, 0, x.ctl.cmp⟩ })
    | _, _ => s

/-! ### Return from a handler (R272, R192, R333) -/

/-- The split table entries that a sheaf holds (R96): one before its restore entry (R279). -/
def Sheaf.entries (sh : Sheaf) : Nat := if sh.saving == .restoreDue && sh.hand.isNone then 1 else sh.ctl.splits.length

/-- The entries of a slot's table that other sheaves hold (R96). -/
def State.othersInSlot (s : State) (k : Nat) (sh : Sheaf) (site : Nat) : Nat :=
  s.sheaves.foldl (fun n p =>
    if p.1 != k && !p.2.ended && p.2.slot == sh.slot && ((s.wg p.2.wg).map (·.site)) == some site then n + p.2.entries else n) 0

/-- Splits that find no entry go to the stack, youngest on top (log 22). -/
def foldTable (room : Nat) (l : List Split) (stack : List Deferred) : List Split × List Deferred :=
  (l.take room, (l.drop room).reverse.map (fun sp => ⟨sp.pc, sp.mask, sp.parked⟩) ++ stack)

/-- The interrupted control state as a return restores it: lanes that exited in the handler are gone, the recorded lanes
stand at `rpc` and every other group at its own instruction (R265, R272). -/
def Ctl.resume (t : Ctl) (live : Mask) (rpc : Option (BitVec 78)) (room : Nat) : Ctl :=
  let keep := t.splits.map (fun sp => { sp with mask := sp.mask &&& live, stall := 0, tried := false })
  let groups := t.groups.map (fun g => Split.fresh (if g.recorded then rpc.getD g.pc else g.pc) (g.mask &&& live))
  let all := (keep ++ groups).filter (fun sp => sp.mask != 0)
  let stack := (t.stack.map (fun d => { d with mask := d.mask &&& live })).filter (fun d => d.mask != 0)
  let (splits, stack') := foldTable room all stack
  { t with splits := splits, stack := stack', groups := [] }

/-- The wait that a sheaf takes up again after its restore: at a barrier where it has arrived (R125). -/
def Sheaf.barAgain (sh : Sheaf) : Option Wait :=
  match sh.recorded with
  | some .barWg => some .barWg
  | some .barGg => some .barGg
  | _ => none

/-- A sheaf as its restore leaves it (R125, R127, R279): at a barrier where it had arrived it goes on waiting, and a sleep goes
on. -/
def Sheaf.afterRestore (sh : Sheaf) : Sheaf :=
  { sh with wait := sh.barAgain, recorded := none, sleep := sh.nap, nap := none, saving := .none
            ctl := match sh.barAgain with
              | some w => { sh.ctl with splits := sh.ctl.splits.map (fun sp => { sp with stall := w.code }) }
              | none => sh.ctl }

/-- Room for a sheaf's entries in its slot's table: 4, or what the other sheaves leave, and the one it holds (R96). -/
def State.entryRoom (s : State) (k : Nat) (sh : Sheaf) : Nat :=
  min 4 (max 1 (8 - s.othersInSlot k sh ((s.wg sh.wg).elim 0 (·.site))))

/-- The handler is over: queues and control state come back, and a held engine fault becomes the pending fault (R272,
R333). With RESTORE the handler's queue stays. -/
def State.leaveHandler (s : State) (k : Nat) (h : Handler) (rpc : Option (BitVec 78)) : State :=
  s.modSheaf k (fun sh =>
    let live := sh.ctl.live
    let ctl := h.saved.resume live rpc (s.entryRoom k sh)
    let back : Sheaf := { sh with
      lanes := if h.fault.restore then sh.lanes
        else mapIdxFrom (fun i l => if live.getLsbD i then { l with q := l.frozen } else l) 0 sh.lanes
      hand := none
      pend := sh.engine
      engine := none
      ctl := ctl }
    let after := if h.fault.restore then back.afterRestore else back
    if sh.engine.isSome then { after with wait := none, sleep := none, ctl := { after.ctl with splits := stopOthers none after.ctl.splits } }
    else after)

end Sys2Proof.Machine
end

