-- ==== Sys2Proof/WellFormed.lean ====
section
/-! DEFINITION. Which terms are instructions: the operand kinds each field accepts (02 R11, R15, R26, R27, R30, R31,
R34) and the modifier values that are assigned (R28, R30 to R32). The decoder checks the same predicates. -/

namespace Sys2Proof

/-- A last-use bit stands only on a queue entry or a named register (R15). -/
def LSrc.lastOk : LSrc → Bool
  | ⟨.g _, l⟩ => !l
  | ⟨.h _, l⟩ => !l
  | _ => true

/-- The register can stand as a 64-bit lane source (R11). -/
def LReg.pairOk : LReg → Bool
  | .q k => k.val ≤ 14
  | .n k => k.val % 2 == 0
  | .g k => k.val % 2 == 0
  | .h _ => false

/-- A lane source of 32 bits, or of 64 bits when `w64` (R11, R15). -/
def LSrc.ok (w64 : Bool) (s : LSrc) : Bool :=
  s.lastOk && (!w64 || s.reg.pairOk)

/-- A lane destination of 32 or 64 bits (R11, R26). -/
def LDst.ok (w64 : Bool) : LDst → Bool
  | .push => true
  | .n k => !w64 || k.val % 2 == 0
  | .h _ => !w64

/-- The base pair of formats M and A: a queue pair or an even named pair (R19, R26). -/
def LSrc.baseOk : LSrc → Bool
  | ⟨.q k, _⟩ => k.val ≤ 14
  | ⟨.n k, _⟩ => k.val % 2 == 0
  | _ => false

/-- A load destination of n words: the queue, or a named register, pair or quad (R26, R69). -/
def LDst.loadOk (words : Nat) : LDst → Bool
  | .push => true
  | .n k => k.val % words == 0
  | .h _ => false

/-- The data field of a store of n words (R70): `port` tells whether a queue port may stand there. -/
def LReg.dataOk (words : Nat) (port : Bool) : LReg → Bool
  | .q k => k.val + words ≤ 16
  | .n k => k.val % words == 0
  | .g k => k.val % words == 0
  | .h _ => port && words == 1

/-- A lane register 0 to 47 named by a group field (R27). -/
def LReg.plain : LReg → Bool
  | .q _ => true
  | .n _ => true
  | _ => false

/-- A named register (16 to 47). -/
def LReg.named : LReg → Bool
  | .n _ => true
  | _ => false

/-- A named quad, K a multiple of 4 (R26). -/
def LReg.quad : LReg → Bool
  | .n k => k.val % 4 == 0
  | _ => false

/-- The format operand of format X: any lane source but a port (R214). -/
def LReg.fmtOk : LReg → Bool
  | .h _ => false
  | _ => true

/-- A group source of 32 or 64 bits (R27, R113). -/
def GSrc.ok (w64 : Bool) : GSrc → Bool
  | .g k => !w64 || k.val % 2 == 0
  | .b k => !w64 || k.val % 2 == 0
  | .sp s => !w64 || s == .cycle
  | .h _ => !w64

/-- A group destination of 32 or 64 bits (R27, R113). -/
def GDst.ok (w64 : Bool) : GDst → Bool
  | .g k => !w64 || k.val % 2 == 0
  | .b k => !w64 || k.val % 2 == 0
  | .h _ => !w64

/-- "p" of R34: an even `g` or `b` pair. -/
def GSrc.pair : GSrc → Bool
  | .g k => k.val % 2 == 0
  | .b k => k.val % 2 == 0
  | _ => false

/-- The condition of `bz` and `bnz`: group operand 0 to 55 (R74). -/
def GSrc.cond : GSrc → Bool
  | .h _ => false
  | _ => true

/-- The first of n descriptor registers (R199): even, the last within the file. -/
def GSrc.desc (n : Nat) : GSrc → Bool
  | .g k => k.val % 2 == 0 && k.val + n ≤ 32
  | .b k => k.val % 2 == 0 && k.val + n ≤ 16
  | _ => false

/-- The first of four attribute registers of `grant` (R186). -/
def GSrc.attr : GSrc → Bool
  | .g k => k.val % 4 == 0
  | .b k => k.val % 4 == 0
  | _ => false

/-- A `g` or `b` destination, as `movt` needs (R34). -/
def GDst.file : GDst → Bool
  | .h _ => false
  | _ => true

/-- A named destination, as lane `movt` needs (R67). -/
def LDst.named : LDst → Bool
  | .n _ => true
  | _ => false

/-- Source of `lmask`, `lcount`, `lrank`: 64 bits with `.eq` and `.ne` only (R120). -/
def LCond.wide : LCond → Bool
  | .eq => true
  | .ne => true
  | _ => false

/-- The results of `bit` that have the width of the source (R64). -/
def BitOp.wide : BitOp → Bool
  | .brev => true
  | .not => true
  | _ => false

/-- Assigned `cvt` selectors (R32): the codes differ and one is 0, or both are 6 or 7. -/
def CvtTy.pairOk (d s : CvtTy) : Bool :=
  (d != s && (d == .f32 || s == .f32)) || ((d == .i32 || d == .n32) && (s == .i32 || s == .n32))

/-- A shift count of the immediate forms lies below the width (R62). -/
def shiftOk (w64 : Bool) (c : BitVec 6) : Bool := w64 || c.toNat < 32

/-- Memory operands: the base pair (R19). -/
def MemM.ok (m : MemM) : Bool := m.base.baseOk
/-- Memory operands: the base pair (R19). -/
def MemA.ok (m : MemA) : Bool := m.base.baseOk

/-- Words of 4-byte and 8-byte forms. -/
abbrev words (w64 : Bool) : Nat := if w64 then 2 else 1

/-- Well-formed terms. A step without an encoding is well formed when the numbers it brings lie in the ranges the
spec gives them. -/
def Instr.wf : Instr → Bool
  | .addR ty _ d a b => d.ok ty.w64 && a.ok ty.w64 && b.ok ty.w64
  | .addI32 d a _ => d.ok false && a.ok false
  | .addI64 d a _ => d.ok true && a.ok true
  | .subR ty _ d a b => d.ok ty.w64 && a.ok ty.w64 && b.ok ty.w64
  | .mulR ty _ d a b => d.ok ty.w64 && a.ok ty.w64 && b.ok ty.w64
  | .mulhi ty d a b => d.ok ty.w64 && a.ok ty.w64 && b.ok ty.w64
  | .mad ty _ a b c => a.ok ty.w64 && b.ok ty.w64 && c.ok ty.w64
  | .divInt ty _ d a b => d.ok ty.w64 && a.ok ty.w64 && b.ok ty.w64
  | .rem ty d a b => d.ok ty.w64 && a.ok ty.w64 && b.ok ty.w64
  | .minInt ty d a b => d.ok ty.w64 && a.ok ty.w64 && b.ok ty.w64
  | .maxInt ty d a b => d.ok ty.w64 && a.ok ty.w64 && b.ok ty.w64
  | .cmpSigned _ w d a b => d.ok false && a.ok w && b.ok w
  | .cmpUnsigned _ w d a b => d.ok false && a.ok w && b.ok w
  | .andR w d a b => d.ok w && a.ok w && b.ok w
  | .orR w d a b => d.ok w && a.ok w && b.ok w
  | .xorR w d a b => d.ok w && a.ok w && b.ok w
  | .andI d a _ => d.ok false && a.ok false
  | .orI d a _ => d.ok false && a.ok false
  | .xorI d a _ => d.ok false && a.ok false
  | .shlR w d a b => d.ok w && a.ok w && b.ok false
  | .shrR w d a b => d.ok w && a.ok w && b.ok false
  | .sarR w d a b => d.ok w && a.ok w && b.ok false
  | .shlI w d a c => shiftOk w c && d.ok w && a.ok w
  | .shrI w d a c => shiftOk w c && d.ok w && a.ok w
  | .sarI w d a c => shiftOk w c && d.ok w && a.ok w
  | .bfx _ a p l => a.ok false && p.ok false && l.ok false
  | .bfi a p l => a.ok false && p.ok false && l.ok false
  | .bit op w d a => d.ok (w && op.wide) && a.ok w
  | .sel c a b => c.ok false && a.ok false && b.ok false
  | .movl d _ => d.ok false
  | .movs d _ => d.ok false
  | .movt d _ => d.named
  | .nget d i => d.ok false && i.ok false
  | .nset i v => i.ok false && v.ok false
  | .fadd _ _ d a b => d.ok false && a.ok false && b.ok false
  | .fsub _ _ d a b => d.ok false && a.ok false && b.ok false
  | .fmul _ _ d a b => d.ok false && a.ok false && b.ok false
  | .fdiv _ _ d a b => d.ok false && a.ok false && b.ok false
  | .fma _ _ a b c => a.ok false && b.ok false && c.ok false
  | .fmin _ d a b => d.ok false && a.ok false && b.ok false
  | .fmax _ d a b => d.ok false && a.ok false && b.ok false
  | .fcmp _ _ d a b => d.ok false && a.ok false && b.ok false
  | .abs _ d a _ => d.ok false && a.ok false
  | .neg _ d a _ => d.ok false && a.ok false
  | .csgn _ d a b => d.ok false && a.ok false && b.ok false
  | .rcp _ d a _ => d.ok false && a.ok false
  | .rsqrt _ d a _ => d.ok false && a.ok false
  | .sqrt _ d a _ => d.ok false && a.ok false
  | .exp2 _ d a _ => d.ok false && a.ok false
  | .log2 _ d a _ => d.ok false && a.ok false
  | .class _ d a => d.ok false && a.ok false
  | .cvt dt st _ _ d a => CvtTy.pairOk dt st && d.ok false && a.ok false
  | .pack _ d a b => d.ok false && a.ok false && b.ok false
  | .unpk _ _ d a b => d.ok false && a.ok false && b.ok false
  | .dot _ a b c => a.ok false && b.ok false && c.ok false
  | .scale _ d a b => d.ok false && a.ok false && b.ok false
  | .laneid d => d.ok false
  | .lmask c w d a => (!w || c.wide) && d.ok true && a.ok w
  | .lcount c w d a => (!w || c.wide) && d.ok false && a.ok w
  | .lrank c w d a => (!w || c.wide) && d.ok false && a.ok w
  | .lpullR _ d a b => d.ok false && a.ok false && b.ok false
  | .lpullI m d a v => (m == .step || !v.getLsbD 6) && d.ok false && a.ok false
  | .lred _ _ d a _ => d.ok false && a.ok false
  | .ldI8 d m => d.loadOk 1 && m.ok
  | .ldFp8 d m => d.loadOk 1 && m.ok
  | .ldH16 d m => d.loadOk 1 && m.ok
  | .ldW32 d m => d.loadOk 1 && m.ok
  | .ldD64 d m => d.loadOk 2 && m.ok
  | .ldq d m => d.loadOk 4 && m.ok
  | .stB8 v m => v.dataOk 1 true && m.ok
  | .stH16 v m => v.dataOk 1 true && m.ok
  | .stW32 v m => v.dataOk 1 true && m.ok
  | .stD64 v m => v.dataOk 2 true && m.ok
  | .stq v m => v.dataOk 4 true && m.ok
  | .ldOrdered w d m => (m.ord == .rlx || m.ord == .acq) && d.loadOk (words w) && m.ok
  | .stOrdered w v m => (m.ord == .rlx || m.ord == .rel) && v.dataOk (words w) true && m.ok
  | .atom32 _ v m => v.dataOk 1 false && m.ok
  | .atom64 _ v m => v.dataOk 2 false && m.ok
  | .xchg w v m => v.dataOk (words w) false && m.ok
  | .cas w c m => c.dataOk (2 * words w) false && m.ok
  | .fence o _ => o != .rlx
  | .mma _ a _ f _ _ => a.quad && f.fmtOk
  | .accz _ f => f.fmtOk
  | .accrd _ d _ f _ => d.quad && f.fmtOk
  | .accwr _ s _ f => s.quad && f.fmtOk
  | .gAddR ty _ d a b => d.ok ty.w64 && a.ok ty.w64 && b.ok ty.w64
  | .gAddI d a _ => d.ok false && a.ok false
  | .gSub ty _ d a b => d.ok ty.w64 && a.ok ty.w64 && b.ok ty.w64
  | .gMul ty _ d a b => d.ok ty.w64 && a.ok ty.w64 && b.ok ty.w64
  | .gMulhi ty d a b => d.ok ty.w64 && a.ok ty.w64 && b.ok ty.w64
  | .gMin ty d a b => d.ok ty.w64 && a.ok ty.w64 && b.ok ty.w64
  | .gMax ty d a b => d.ok ty.w64 && a.ok ty.w64 && b.ok ty.w64
  | .gCmp _ _ w d a b => d.ok false && a.ok w && b.ok w
  | .gAndR w d a b => d.ok w && a.ok w && b.ok w
  | .gOrR w d a b => d.ok w && a.ok w && b.ok w
  | .gXorR w d a b => d.ok w && a.ok w && b.ok w
  | .gAndI d a _ => d.ok false && a.ok false
  | .gOrI d a _ => d.ok false && a.ok false
  | .gXorI d a _ => d.ok false && a.ok false
  | .gShlR w d a b => d.ok w && a.ok w && b.ok false
  | .gShrR w d a b => d.ok w && a.ok w && b.ok false
  | .gSarR w d a b => d.ok w && a.ok w && b.ok false
  | .gShlI w d a c => shiftOk w c && d.ok w && a.ok w
  | .gShrI w d a c => shiftOk w c && d.ok w && a.ok w
  | .gSarI w d a c => shiftOk w c && d.ok w && a.ok w
  | .gBit op w d a => d.ok (w && op.wide) && a.ok w
  | .gBfx _ d a c => d.ok false && a.ok false && c.ok false
  | .gMov d a => d.ok false && a.ok false
  | .gMovl d _ => d.ok false
  | .gMovs d _ => d.ok false
  | .gMovt d _ => d.file
  | .rdlane d a i => d.ok false && a.plain && i.ok false
  | .rdfirst d a => d.ok false && a.plain
  | .amask d => d.ok true
  | .br _ => true
  | .bz c _ => c.cond
  | .bnz c _ => c.cond
  | .call _ => true
  | .ret => true
  | .jmp p => p.pair
  | .brl c _ => c.plain
  | .brlz c _ => c.plain
  | .merge => true
  | .exit => true
  | .nop => true
  | .waitc _ _ _ _ => true
  | .barWg => true
  | .barGg => true
  | .yield => true
  | .sleep _ => true
  | .tmset p => p.pair
  | .watch _ _ p e => p.pair && e.ok false
  | .await _ p g => p.pair && g.ok false
  | .copy d a _ => d.desc 6 && a.pair
  | .copyNa d => d.desc 6
  | .copy2d d a _ => d.desc 8 && a.pair
  | .copy2dNa d => d.desc 8
  | .mcast d m => d.desc 6 && m.ok false
  | .cred _ d m => d.desc 6 && m.ok false
  | .mfence => true
  | .mlease _ => true
  | .mpass _ => true
  | .mfree _ => true
  | .qbind _ _ a => a.ok false
  | .qpopRec d _ => d.named
  | .qpushRec a _ => a.named
  | .qunbind _ => true
  | .spawn p => p.pair
  | .depset p c => p.pair && c.ok false
  | .depdec p => p.pair
  | .fread d p c => d.ok true && p.pair && c.pair
  | .fwrite d p v => d.ok true && p.pair && v.pair
  | .jbind _ p w => p.pair && w.ok false
  | .qcontrib _ a e => a.quad && e.ok false
  | .qcontribRow _ c e => c.ok false && e.ok false
  | .qarrive _ => true
  | .qkpt _ => true
  | .qwait _ => true
  | .setsegBase s x => x.pair && 5 ≤ s.val
  | .setsegLast s x => x.pair && 5 ≤ s.val
  | .setsegHi s x => x.pair && 5 ≤ s.val
  | .setsegClr s => 5 ≤ s.val
  | .getseg _ _ d => d.ok true
  | .grant d c a => d.ok false && c.ok false && a.attr
  | .grantRelight d c a => d.ok false && c.ok false && a.attr
  | .gfree a => a.ok false
  | .grank a r => a.ok false && r.ok false
  | .shadow a => a.ok false
  | .gstatLevel d => d.ok true
  | .gstatAlloc d a => d.ok true && a.ok false
  | .lret => true
  | .tsread d => d.ok true
  | .ctrd d _ => d.ok true
  | .trap _ => true
  | .syscall _ => true
  | .brk _ => true
  | .tret => true
  | .rgnBegin => true
  | .rgnEnd => true
  | .qfrd d _ => d.loadOk 1
  | .saveopq p _ => p.pair
  | .loadopq p _ => p.pair
  | .enter a => a.ok false
  | .leave => true
  | .ringf _ _ _ => true
  | .bfe _ _ _ => true
  | .sigw _ _ => true
  | .disp _ _ _ => true
  | .wordNotInstruction _ => true
  | .loadDataArrival _ _ => true
  | .storePerform _ => true
  | .atomicPerform _ => true
  | .lightFaultService _ _ _ => true
  | .trapEntry _ => true
  | .sheafEnd _ => true
  | .workgroupPlacement _ => true
  | .waitEviction _ => true
  | .queuePortDeschedule _ => true
  | .starvationGuard _ _ => true
  | .sleepWake _ => true
  | .timerTrap _ => true
  | .watchReread _ => true
  | .awaitReread _ => true
  | .levelNotice _ p => 1 ≤ p && p ≤ 24
  | .levelRise _ l => 1 ≤ l && l ≤ 24
  | .lossPoint _ => true
  | .siloRetirement site => site < 416
  | .granuleUncorrectable site _ => site < 416
  | .engineFault _ _ => true
  | .regionRestart _ => true
  | .copyChunkLand _ _ => true
  | .tileOperationComplete _ => true
  | .shadowWritebackComplete site _ => site < 416
  | .pushWindowBell _ q => q < 4096
  | .feed _ _ rs => rs.all (·.length == 16)
  | .taskRecordPop q => q < 4096
  | .launchRecordPop q => q < 4096
  | .taskCompletion _ => true
  | .taskRequeue _ => true
  | .queueCreate q _ n _ _ _ => q < 4096 && 4 ≤ n && n ≤ 16
  | .queueDestroy q => q < 4096
  | .queueDead q => q < 4096
  | .queueReset q => q < 4096
  | .queueUnmap _ _ => true
  | .joinFinalise _ => true
  | .condemnedFlag _ _ => true
  | .routeRecompute _ site => site < 416
  | .shootDown _ _ _ => true
  | .shootDownAck _ _ => true
  | .linkPortFailure _ => true
  | .partitionReset _ => true
  | .rdmaOperation _ _ _ _ => true
  | .ethernetFailover _ => true
  | .ptpCorrection _ => true
  | .nvmeAttach _ _ => true
  | .functionReady _ => true
  | .budgetChange w ls _ => 1100 ≤ w && w ≤ 3400 && ls.length == 4 && ls.all (fun l => 1 ≤ l && l ≤ 24)
  | .coreRetirement site => site < 416
  | .frameRetirement _ _ _ => true
  | .hbmUncorrectable _ _ => true
  | .firmwareProcessorFailure _ => true
  | .spatialPreemption _ _ => true
  | .preemptionRequest _ => true
  | .timeSliceExpiry _ => true
  | .commandRecordReject _ => true
  | .receiptRequest _ => true
  | .receiptResume _ => true
  | .attestationRequest _ => true
  | .codeObjectLoad _ _ _ _ => true
  | .firmwareLoad _ => true
  | .holdPoint => true
  | .commitPoint => true
  | .handoverAbort => true
  | .profilingSample _ site _ => site < 416
  | .counterSlotWrite _ _ _ => true
  | .counterValueWrite _ _ _ => true
  | .counterPageWrite _ _ _ => true
  | .eventBitmapChange _ _ _ _ => true
  | .debuggerHalt _ => true
  | .debuggerResume _ => true
  | .applicationCoreAccess _ _ _ _ => true
  | .podRequestArrival _ _ _ _ => true
  | .nvmeDma _ _ _ _ => true
  | .memoryProcessorHandover => true
  | .applicationCoreFailure _ => true
  | .relocationComplete site => site < 416
  | .routeTableWrite _ _ => true

end Sys2Proof
end

