-- ==== Sys2Proof/Machine/Operands.lean ====
section
/-! DEFINITION. Operand forms: lane sources and destinations (01 R9 to R17, 06 R103, R105), group sources and
destinations (07 R113, R115, 06 R104), and how a lane-set or group-set instruction reads and writes them. -/

namespace Sys2Proof

/-- Register i of a group of registers that starts at r (R11). -/
def LReg.nth (r : LReg) (i : Nat) : LReg :=
  match r with
  | .q k => .q (Fin.ofNat 16 (k.val + i))
  | .n k => .n (Fin.ofNat 32 (k.val + i))
  | .g k => .g (Fin.ofNat 8 (k.val + i))
  | .h k => .h k

/-- The port a lane register names. -/
def LReg.port : LReg → Option Nat
  | .h k => some k.val
  | _ => none

/-- The highest named register of n registers from r on. -/
def LReg.top (r : LReg) (n : Nat) : Option Nat :=
  match r with
  | .n k => some (k.val + n - 1)
  | _ => none

/-- The highest named register a destination of n words writes. -/
def LDst.top (d : LDst) (n : Nat) : Option Nat :=
  match d with
  | .n k => some (k.val + n - 1)
  | _ => none

/-- The port a lane destination names. -/
def LDst.port : LDst → Option Nat
  | .h k => some k.val
  | _ => none

/-- The port a group source names. -/
def GSrc.port : GSrc → Option Nat
  | .h k => some k.val
  | _ => none

/-- The port a group destination names. -/
def GDst.port : GDst → Option Nat
  | .h k => some k.val
  | _ => none

namespace Machine

/-! ### Lane sources -/

/-- A value read from an entry and whether that was a read of a dead one (R16, R22); a reserved entry that a last-use read has killed
is a dead one (log 32). -/
def Entry.read (free lane idx : Nat) (e : Entry) : Word × Bool :=
  if e.rsv.isSome then (if e.live then Config.undef free lane idx else 0, !e.live)
  else if e.live then (e.val, false) else (0, true)

/-- One register as a lane reads it (R9, R16, R17); ports are read by R105. -/
def regRead (free : Nat) (sh : Sheaf) (lane : Nat) (r : LReg) : Word × Bool :=
  let l := lget Lane.launch sh.lanes lane
  match r with
  | .q k => Entry.read free lane k.val (lget Entry.dead l.q k.val)
  | .n k => Entry.read free lane (16 + k.val) (lget Entry.dead l.n k.val)
  | .g k => (lget 0 sh.g k.val, false)
  | .h _ => (0, false)

/-- n registers from r on, low word first. -/
def regsRead (free : Nat) (sh : Sheaf) (lane : Nat) (r : LReg) (n : Nat) : List Word :=
  (List.range n).map (fun i => (regRead free sh lane (r.nth i)).1)

/-- Whether one of n registers from r on is dead. -/
def regsDead (free : Nat) (sh : Sheaf) (lane : Nat) (r : LReg) (n : Nat) : Bool :=
  (List.range n).any (fun i => (regRead free sh lane (r.nth i)).2)

/-- An entry dies (R15). -/
def Entry.kill (e : Entry) : Entry := { e with live := false }

/-- n registers from r on die in a lane (R15). -/
def Lane.killRegs (l : Lane) (r : LReg) (n : Nat) : Lane :=
  match r with
  | .q k => { l with q := (List.range n).foldl (fun q i => lmod Entry.kill q (k.val + i)) l.q }
  | .n k => { l with n := (List.range n).foldl (fun q i => lmod Entry.kill q (k.val + i)) l.n }
  | _ => l

/-- An entry with a value, live. -/
def Entry.val! (w : Word) : Entry := ⟨w, true, none⟩

/-- A push (R10). -/
def pushEntry (q : List Entry) (e : Entry) : List Entry := (e :: q).take 16

/-- Entries written to a destination, given low word first; a push puts the highest first (R10, R11, R69). -/
def Lane.writeEntries (l : Lane) (d : LDst) (es : List Entry) : Lane :=
  match d with
  | .push => { l with q := es.reverse.foldl pushEntry l.q }
  | .n k => { l with n := lsets l.n k.val es }
  | .h _ => l

/-- A lane source field with the words it reads and its field number (R271). -/
structure SrcUse where
  field : Nat
  src : LSrc
  words : Nat
  deriving DecidableEq, Repr

/-! ### Checks on a word that need the kernel's declared count (R36, check 5) -/

/-- The first field that names a register at or beyond the declared count. -/
def namedFault (named : Nat) : List (Nat × Option Nat) → Option Nat
  | [] => none
  | (f, some k) :: l => if named ≤ k then some f else namedFault named l
  | (_, none) :: l => namedFault named l

/-- An instruction that goes on only if its named registers lie within the declared count (R14). -/
def checkNamed (s : State) (c : Ctx) (regs : List (Nat × Option Nat)) (go : State) : State :=
  match namedFault c.sh.named regs with
  | some f => s.trap c 0x04 f
  | none => go

/-! ### Lane-set instructions whose lanes act each alone -/

/-- The field of the first dead source of a lane, under `.strict` (R16). -/
def deadField (free : Nat) (sh : Sheaf) (lane : Nat) (us : List SrcUse) : Option Nat :=
  if sh.strict then (us.find? (fun u => regsDead free sh lane u.src.reg u.words)).map (·.field) else none

/-- The fault of one lane: a dead source under `.strict` before one of its own (R16). -/
def laneFault (s : State) (sh : Sheaf) (us : List SrcUse) (lane : Nat) (own : Option Exc) : Option Exc :=
  match deadField s.free sh lane us with
  | some fld => some { code := 0x03, opnd := fld }
  | none => own

/-- The active lanes of a mask that a test gives a fault, with it. -/
def faultLanes (m : Mask) (f : Nat → Option Exc) : List (Nat × Exc) :=
  (maskLanes m).filterMap (fun l => (f l).map (fun e => (l, e)))

/-- Lanes that fault leave the split, by the record of the lowest (R265). -/
def State.raiseSome (s : State) (c : Ctx) (fs : List (Nat × Exc)) : State :=
  match fs with
  | [] => s
  | (_, e) :: _ => s.raiseLanes c (maskOf (fs.map (·.1))) e c.sh.trapEntry

/-- The port uses of lane source fields and a destination, for n lanes (R105). -/
def lanePorts (us : List SrcUse) (d : LDst) (n : Nat) : List PortUse :=
  us.filterMap (fun u => u.src.reg.port.map (fun h => ⟨u.field, h, false, n⟩)) ++
  (match d.port with | some h => [⟨1, h, true, n⟩] | none => [])

/-- Words popped for the port fields among the sources, field by field: answers for each field its words by lane order. -/
def State.popFields (s : State) (k : Nat) (n : Nat) : List SrcUse → List (List Word) × State
  | [] => ([], s)
  | u :: us =>
    match u.src.reg.port with
    | some h =>
      let (ws, s1) := s.popWords k h n
      let (rest, s2) := State.popFields s1 k n us
      (ws :: rest, s2)
    | none =>
      let (rest, s2) := State.popFields s k n us
      ([] :: rest, s2)

/-- The words of one lane's sources; rank is the lane's place among those that complete. -/
def laneValues (free : Nat) (sh : Sheaf) (lane rank : Nat) : List SrcUse → List (List Word) → List (List Word)
  | [], _ => []
  | u :: us, ps =>
    (match u.src.reg.port with
     | some _ => [lget 0 (ps.headD []) rank]
     | none => regsRead free sh lane u.src.reg u.words) :: laneValues free sh lane rank us ps.tail

/-- The deaths that the last-use bits of the sources mark (R12, R15). -/
def Lane.killUses (l : Lane) (us : List SrcUse) : Lane :=
  us.foldl (fun l u => if u.src.last then l.killRegs u.src.reg u.words else l) l

/-- The value of one or two words. -/
def wordsVal : List Word → DWord
  | [] => 0
  | [a] => a.setWidth 64
  | a :: b :: _ => DWord.ofPair a b

/-- The words of a value. -/
def valWords (n : Nat) (v : DWord) : List Word := if n = 1 then [v.lo] else [v.lo, v.hi]

/-- Lanes of the issuing sheaf changed, those of a list of lane and change. -/
def State.modLanes (s : State) (k : Nat) (ls : List Nat) (f : Nat → Nat → Lane → Lane) : State :=
  s.modSheaf k (fun sh => { sh with lanes :=
    (mapIdxFrom (fun rank l => (rank, l)) 0 ls).foldl (fun acc p => lmod (f p.1 p.2) acc p.2) sh.lanes })

/-- The words that the port fields would pop for n lanes, first field exact. -/
def State.peekFields (s : State) (sh : Sheaf) (n : Nat) (us : List SrcUse) : List (List Word) :=
  us.map (fun u => match u.src.reg.port.bind (s.portOf sh) with
    | some (_, q) => (List.range n).map (s.peekWord q)
    | none => [])

/-- The lanes, in order, that a test of a lane and its rank faults, and those that complete: a lane that faults takes no
rank, so it pops nothing (R22, R105). -/
def siftLanes (f : Nat → Nat → Option Exc) : Nat → List Nat → List Nat × List (Nat × Exc)
  | _, [] => ([], [])
  | rank, l :: ls =>
    match f l rank with
    | some e => let (ok, bad) := siftLanes f rank ls; (ok, (l, e) :: bad)
    | none => let (ok, bad) := siftLanes f (rank + 1) ls; (l :: ok, bad)

/-- A lane-set instruction in which each lane computes alone (R12, R16, R22, R103, R105): registers checked, ports checked
and popped, values formed from what the sources hold, deaths, results. `extra` gives a lane its own fault, and `f` the
entries a lane writes, low word first, from its source values. -/
def laneOp (s : State) (us : List SrcUse) (d : LDst) (words : Nat) (extra : Sheaf → Nat → List (List Word) → Option Exc)
    (f : Sheaf → Nat → List (List Word) → List Entry) : Host.Outcome State Fault Refusal :=
  issue s (fun c =>
    checkNamed s c ((1, d.top words) :: us.map (fun u => (u.field, u.src.reg.top u.words)))
      (let live := (maskLanes c.active).filter (fun l => (deadField s.free c.sh l us).isNone)
       let peeks := s.peekFields c.sh live.length us
       let (ok, bad) := siftLanes (fun l rank =>
         laneFault s c.sh us l (extra c.sh l (laneValues s.free c.sh l rank us peeks))) 0 (maskLanes c.active)
       let ps := lanePorts us d live.length
       match ps.findSome? (s.portFault c.sh ps) with
       | some (code, fld) => s.trap c code fld
       | none =>
         let ns := s.portNeeds c.sh ps
         if !bad.isEmpty && c.stops then s.stall c 21
         else if !s.portsReady ns then s.stallPort c ns
         else
           let (pops, s1) := s.popFields c.k ok.length us
           let vals : Nat → Nat → List (List Word) := fun rank l => laneValues s.free c.sh l rank us pops
           let s2 := s1.modLanes c.k ok (fun rank l ln => (ln.killUses us).writeEntries d (f c.sh l (vals rank l)))
           let s3 := match d.port with
             | some h => s2.pushWords c.k h (mapIdxFrom (fun rank l => ((f c.sh l (vals rank l)).headD Entry.dead).val) 0 ok)
             | none => s2
           (s3.advance c).raiseSome c bad))

/-- No fault of a lane's own. -/
def noExtra (_ : Sheaf) (_ : Nat) (_ : List (List Word)) : Option Exc := none

/-- A lane-set instruction that computes one value from its source values (R58, R77). -/
def laneAlu (s : State) (us : List SrcUse) (d : LDst) (words : Nat) (f : List DWord → DWord) :
    Host.Outcome State Fault Refusal :=
  laneOp s us d words noExtra (fun _ _ vs => (valWords words (f (vs.map wordsVal))).map Entry.val!)

/-- Words of an operand. -/
def wide (w64 : Bool) : Nat := if w64 then 2 else 1

/-! ### Group sources and destinations (R113) -/

/-- The value of a special (R94, R115). -/
def specialVal (s : State) (c : Ctx) : Special → DWord
  | .sheaf => BitVec.ofNat 64 c.sh.sidx
  | .wg => BitVec.ofNat 64 c.wg.idx
  | .gang => BitVec.ofNat 64 c.wg.gangNo
  | .stage => BitVec.ofNat 64 c.wg.stage
  | .width => BitVec.ofNat 64 c.sh.width
  | .wgsize => BitVec.ofNat 64 (c.wg.k * c.sh.width)
  | .cycle => BitVec.ofNat 64 s.cycle
  | .part => BitVec.ofNat 64 c.wg.part.val

/-- Whether a write of block registers wrote register k. -/
def wrote (w : Nat × List Word) (k : Nat) : Bool := w.1 ≤ k && k < w.1 + w.2.length

/-- A block register as it stood behind the first n writes: what the next write of it found there, else what it holds. -/
def Workgroup.bregAt (wg : Workgroup) (k n : Nat) : Word :=
  match (wg.bpast.drop n).find? (fun w => wrote w k) with
  | some w => lget 0 w.2 (k - w.1)
  | none => lget 0 wg.breg k

/-- Of the first n writes, how many there are up to the last of register k where that wrote a pair, else none: the pair is
seen as a whole (R104). -/
def pairUpTo (past : List (Nat × List Word)) (k n : Nat) : Nat :=
  match (List.range n).reverse.find? (fun i => wrote (lget (0, []) past i) k) with
  | some i => if (lget (0, []) past i).2.length == 2 then i + 1 else 0
  | none => 0

/-- Of how many writes the issuing sheaf sees register k, its pair left aside: at least those it saw before, and sheaf 0 all
of its own (R104, log 12). -/
def seesTo (s : State) (c : Ctx) (k : Nat) : Nat :=
  if c.sh.sidx == 0 then c.wg.bpast.length else min c.wg.bpast.length (lget 0 c.sh.seen k + Config.seesMore s.free k)

/-- Of how many writes the issuing sheaf sees the two registers of the pair of register k. -/
def seesPair (s : State) (c : Ctx) (k : Nat) : Nat × Nat :=
  let e := k / 2 * 2
  let n := max (seesTo s c (e + 1)) (pairUpTo c.wg.bpast e (seesTo s c e))
  (max (seesTo s c e) (pairUpTo c.wg.bpast (e + 1) n), n)

/-- A block register as the issuing sheaf sees it (R104, log 12). -/
def blockRead (s : State) (c : Ctx) (k : Nat) : Word :=
  c.wg.bregAt k (if k % 2 = 0 then (seesPair s c k).1 else (seesPair s c k).2)

/-- A group source of one or two words; ports are read by R105. -/
def gRead (s : State) (c : Ctx) (n : Nat) : GSrc → DWord
  | .g k => wordsVal ((List.range n).map (fun i => lget 0 c.sh.g (k.val + i)))
  | .b k => wordsVal ((List.range n).map (fun i => blockRead s c (k.val + i)))
  | .sp x => if n = 1 then (specialVal s c x).setWidth 32 |>.setWidth 64 else specialVal s c x
  | .h _ => 0

/-- What the issuing sheaf has now seen of the block registers it read (R104). -/
def State.noteSeen (s : State) (c : Ctx) (src : GSrc) : State :=
  match src with
  | .b k => s.modSheaf c.k (fun sh => { sh with
      seen := lset (lset sh.seen (k.val / 2 * 2) (seesPair s c k.val).1) (k.val / 2 * 2 + 1) (seesPair s c k.val).2 })
  | _ => s

/-- Block registers written, with what they held kept for the sheaves that have not seen the write (R104). -/
def Workgroup.putBreg (wg : Workgroup) (k : Nat) (ws : List Word) : Workgroup :=
  { wg with breg := lsets wg.breg k ws
            bpast := wg.bpast ++ [(k, (List.range ws.length).map (fun i => lget 0 wg.breg (k + i)))] }

/-- A group destination written with one or two words (R104, R113). -/
def State.gWrite (s : State) (c : Ctx) (d : GDst) (ws : List Word) : State :=
  match d with
  | .g k => s.modSheaf c.k (fun sh => { sh with g := lsets sh.g k.val ws })
  | .b k => s.modWg c.sh.wg (fun wg => wg.putBreg k.val ws)
  | .h k => s.pushWords c.k k.val ws

/-- A group source field, with its words. -/
structure GUse where
  field : Nat
  src : GSrc
  words : Nat
  deriving DecidableEq, Repr

/-- The values of group sources; a port pops one word for the sheaf (R105). -/
def State.gValues (s : State) (c : Ctx) : List GUse → List DWord × State
  | [] => ([], s)
  | u :: us =>
    match u.src.port with
    | some h =>
      let (v, s1) := s.popWord c.k h
      let (vs, s2) := State.gValues s1 c us
      (v.setWidth 64 :: vs, s2)
    | none =>
      let (vs, s2) := State.gValues (s.noteSeen c u.src) c us
      (gRead s c u.words u.src :: vs, s2)

/-- The ports of group fields (R105). -/
def groupPorts (us : List GUse) (d : Option GDst) : List PortUse :=
  us.filterMap (fun u => u.src.port.map (fun h => ⟨u.field, h, false, 1⟩)) ++
  (match d.bind GDst.port with | some h => [⟨1, h, true, 1⟩] | none => [])

/-- Whether a destination is a block register that this sheaf may not write (R104). -/
def writerFault (c : Ctx) : Option GDst → Bool
  | some (.b _) => c.sh.sidx != 0
  | _ => false

/-- A group-set instruction's operands (R104, R105, R113): checks, then the values, then what it does with them. Answering
none means that the caller has dealt with the state itself. -/
def groupStep (s : State) (c : Ctx) (us : List GUse) (d : Option GDst) (go : List DWord → State → State) : State :=
  if writerFault c d then s.trap c 0x05 1
  else
    let ps := groupPorts us d
    match ps.findSome? (s.portFault c.sh ps) with
    | some (code, fld) => s.trap c code fld
    | none =>
      let ns := s.portNeeds c.sh ps
      if !s.portsReady ns then s.stallPort c ns
      else
        let (vs, s1) := s.gValues c us
        go vs s1

/-- A group-set instruction that computes one value for the sheaf. -/
def groupAlu (s : State) (us : List GUse) (d : GDst) (words : Nat) (f : List DWord → DWord) :
    Host.Outcome State Fault Refusal :=
  issue s (fun c => groupStep s c us (some d) (fun vs s1 => (s1.gWrite c d (valWords words (f vs))).advance c))

end Machine
end Sys2Proof
end

