-- ==== Sys2Proof/Machine/Control.lean ====
section
/-! DEFINITION. Control flow: uniform branches (04 R74 to R76), lane branches and reconvergence (06 R97 to R100, 07 R117),
region marks (07 R129). -/

namespace Sys2Proof.Machine

/-! ### Reconvergence (R98, R99) -/

/-- The splits of one list united where their program counters are equal, oldest first (R98). A split with a replay in
progress stays apart. -/
def uniteInto (x : Split) : List Split → Option (List Split)
  | [] => none
  | y :: l =>
    if y.pc = x.pc && y.replay.isNone && x.replay.isNone then
      some ({ y with mask := y.mask ||| x.mask, parked := false, again := false
                     stall := if y.stall == 21 || x.stall == 21 then 21 else 0 } :: l)
    else (uniteInto x l).map (fun l' => y :: l')

/-- Every split united with an older one at its address. -/
def uniteAll (l : List Split) : List Split :=
  l.foldl (fun acc x => (uniteInto x acc).getD (acc ++ [x])) []

/-- The top elements of the stack united with running splits at their address (R98). -/
def uniteTop : List Split → List Deferred → List Split × List Deferred
  | l, [] => (l, [])
  | l, d :: ds =>
    if l.any (fun y => y.pc = d.pc && !y.parked && y.replay.isNone) then
      uniteTop (l.map (fun y => if y.pc = d.pc && !y.parked && y.replay.isNone then
        { y with mask := y.mask ||| d.mask, again := false } else y)) ds
    else (l, d :: ds)

/-- The parked split at the lowest address. -/
def lowestPark (l : List Split) : Option (BitVec 78) :=
  l.foldl (fun m x => match m with | none => some x.pc | some p => some (if x.pc < p then x.pc else p)) none

/-- Unite, then release the lowest rendezvous when every entry is parked and nothing is deferred (R98, R99): a `merge` goes
on behind itself, a `bar` or `rgn.begin` issues again. -/
def Ctl.settle (t : Ctl) : Ctl :=
  let (l, st) := uniteTop (uniteAll t.splits) t.stack
  if !l.isEmpty && st.isEmpty && t.groups.isEmpty && l.all (fun x => x.parked) then
    match lowestPark l with
    | some p =>
      let l' := l.map (fun x => if x.pc = p then x.at (if x.again then p else p + 1) else x)
      { t with splits := uniteAll l', stack := st }
    | none => { t with splits := l, stack := st }
  else { t with splits := l, stack := st }

/-- A reconvergence: once a store has reached the area of a sheaf's spilled elements, its control flow is undefined from there
(R102). -/
def Sheaf.reconverge (sh : Sheaf) (free : Nat) (t : Ctl) : Sheaf :=
  if sh.smashed then
    { sh with smashed := false
              ctl := { t with splits := mapIdxFrom (fun i (sp : Split) => { sp with pc := Config.strayPc free i }) 0 t.splits } }
  else { sh with ctl := t }

/-- A sheaf's splits come together where R98 and R99 say. -/
def Sheaf.settle (sh : Sheaf) (free : Nat) : Sheaf :=
  if sh.ctl.settle == sh.ctl then sh else sh.reconverge free sh.ctl.settle

/-- Every lane has exited (R100). -/
def Sheaf.finished (sh : Sheaf) : Bool := sh.ctl.splits.isEmpty && sh.ctl.stack.isEmpty && sh.ctl.groups.isEmpty

/-- Whether the issuing split is all of its sheaf. -/
def Ctx.alone (c : Ctx) : Bool := c.sh.ctl.splits.length == 1 && c.sh.ctl.stack.isEmpty

/-- What a split does at a rendezvous that is not over (R99): exchange with the deferred lanes, or park. -/
def State.rendezvous (s : State) (c : Ctx) (again : Bool) : State :=
  s.modSheaf c.k (fun sh =>
    match sh.ctl.stack with
    | e :: st =>
      sh.reconverge s.free { sh.ctl with
          splits := sh.ctl.splits.eraseIdx c.j ++ [Split.fresh e.pc e.mask]
          stack := ⟨c.sp.pc, c.sp.mask, true⟩ :: st }
    | [] => { sh with ctl := { sh.ctl with
        splits := lset sh.ctl.splits c.j { c.sp.at c.sp.pc with parked := true, again := again } } })

/-- `merge` (R99). -/
def execMerge (s : State) : Host.Outcome State Fault Refusal :=
  issueStop s (fun c => if c.alone then s.advance c else s.rendezvous c false)

/-! ### Uniform branches (R74, R75) -/

/-- The target of a branch (R35, R74). -/
def target (c : Ctx) (off : BitVec 18) : BitVec 78 := c.sp.pc + off.signExtend 78

/-- `br` (R74). -/
def execBr (off : BitVec 18) (s : State) : Host.Outcome State Fault Refusal := issue s (fun c => s.goto c (target c off))

/-- A uniform branch on a group value (R74). -/
def groupBranch (s : State) (x : GSrc) (off : BitVec 18) (takes : Word → Bool) : Host.Outcome State Fault Refusal :=
  issue s (fun c => (s.noteSeen c x).goto c (if takes (gRead s c 1 x).lo then target c off else c.sp.pc + 1))

/-- `bz` (R74). -/
def execBz (c : GSrc) (off : BitVec 18) (s : State) : Host.Outcome State Fault Refusal := groupBranch s c off (· == 0)
/-- `bnz` (R74). -/
def execBnz (c : GSrc) (off : BitVec 18) (s : State) : Host.Outcome State Fault Refusal := groupBranch s c off (· != 0)

/-- `call` (R75): the link stands in g30 and g31. -/
def execCall (off : BitVec 18) (s : State) : Host.Outcome State Fault Refusal :=
  issue s (fun c =>
    let link := byteAddr (c.sp.pc + 1)
    (s.gWrite c (.g 30) [link.extractLsb' 0 32, link.extractLsb' 32 32]).goto c (target c off))

/-- A jump to a 64-bit address; one that is no multiple of 4 faults (R75). -/
def State.jumpTo (s : State) (c : Ctx) (p : DWord) (opnd : Nat) : State :=
  if p.extractLsb' 0 2 != 0 then s.raise c { code := 0x07, opnd := opnd, addr := p.setWidth 80 }
  else s.goto c ((p.extractLsb' 2 62).setWidth 78)

/-- `ret` (R75). -/
def execRet (s : State) : Host.Outcome State Fault Refusal := issue s (fun c => s.jumpTo c (gRead s c 2 (.g 30)) 0)

/-- `jmp` (R75). -/
def execJmp (p : GSrc) (s : State) : Host.Outcome State Fault Refusal :=
  issue s (fun c => (s.noteSeen c p).jumpTo c (gRead s c 2 p) 2)

/-! ### Lane branches (R97, R117) -/

/-- Whether the sheaf and its slot have room for one more split (R96, R97). -/
def State.splitRoom (s : State) (c : Ctx) : Bool :=
  c.sh.ctl.splits.length < 4 && s.othersInSlot c.k c.sh c.wg.site + c.sh.ctl.splits.length < 8

/-- The element that a push drives out of a sheaf's top 28 is spilled to the area below `seg3`, 16 bytes for each; how they
hold it is not stated (R102). -/
def State.spill (s : State) (c : Ctx) : State :=
  let n := c.sh.ctl.stack.length
  if n < 28 then s
  else
    let at_ := (lget ⟨0, 0, false⟩ c.sh.segs 3).base - 576 + BitVec.ofNat 80 (16 * (n - 28))
    match s.hwPages (agentVia c.wg.asid) .wr 2 at_ 16 with
    | (t, .ok ps) => t.writePieces ps ((List.range 16).map (Config.opaqueByte t.free))
    | (t, .error _) => t

/-- The live lanes of the issuing split go where their conditions send them (R97). -/
def State.divide (s : State) (c : Ctx) (live taken : Mask) (dest : BitVec 78) : State :=
  let fall := maskDiff live taken
  let here := { c.sp.at (c.sp.pc + 1) with mask := live }
  if taken = 0 || dest = c.sp.pc + 1 then s.putSplit c here
  else if fall = 0 then s.putSplit c { here with pc := dest }
  else if s.splitRoom c then
    s.modSheaf c.k (fun sh => { sh with ctl := { sh.ctl with
      splits := lset sh.ctl.splits c.j { here with mask := fall } ++ [Split.fresh dest taken] } })
  else
    (s.spill c).modSheaf c.k (fun sh => { sh with ctl := { sh.ctl with
      splits := lset sh.ctl.splits c.j { here with mask := fall }
      stack := ⟨dest, taken, false⟩ :: sh.ctl.stack } })

/-- A lane branch (R74, R117): lanes with a dead condition leave under `.strict`, and the others divide. -/
def laneBranch (s : State) (x : LReg) (off : BitVec 18) (takes : Word → Bool) : Host.Outcome State Fault Refusal :=
  issue s (fun c =>
    checkNamed s c [(2, x.top 1)]
      (let dead := maskOf ((maskLanes c.sp.mask).filter (fun l => c.sh.strict && regsDead s.free c.sh l x 1))
       let live := maskDiff c.sp.mask dead
       let taken := maskOf ((maskLanes live).filter (fun l => takes (regRead s.free c.sh l x).1))
       if dead = 0 then s.divide c live taken (target c off)
       else if c.stops then s.stall c 21
       else
         let s1 := s.raiseLanes c dead { code := 0x03, opnd := 2 } c.sh.trapEntry
         if live = 0 || c.sh.hand.isSome then s1 else s1.divide c live taken (target c off)))

/-- `brl` (R74, R97). -/
def execBrl (c : LReg) (off : BitVec 18) (s : State) : Host.Outcome State Fault Refusal := laneBranch s c off (· != 0)
/-- `brlz` (R74, R97). -/
def execBrlz (c : LReg) (off : BitVec 18) (s : State) : Host.Outcome State Fault Refusal := laneBranch s c off (· == 0)

/-! ### Ending, and nothing -/

/-- `exit` (R76, R100): the split's lanes are gone, and the top deferred element takes its entry, as the youngest split (log 32).
The last lanes close an open region (R267). -/
def execExit (s : State) : Host.Outcome State Fault Refusal :=
  issueStop s (fun c => s.modSheaf c.k (fun sh =>
    let rest := sh.ctl.splits.eraseIdx c.j
    match sh.ctl.stack with
    | e :: st => sh.reconverge s.free { sh.ctl with splits := rest ++ [Split.fresh e.pc e.mask], stack := st }
    | [] =>
      if rest.isEmpty && sh.ctl.groups.isEmpty then { sh with ctl := { sh.ctl with splits := rest, origin := none }, hand := none }
      else { sh with ctl := { sh.ctl with splits := rest } }))

/-- `nop` (R76). -/
def execNop (s : State) : Host.Outcome State Fault Refusal := issue s (fun c => s.advance c)

/-! ### Region marks (R129), region edges of R324 -/

/-- `enter` (R129). -/
def execEnter (a : GSrc) (s : State) : Host.Outcome State Fault Refusal :=
  issueEdge s (fun c => groupStep s c [⟨2, a, 1⟩] none (fun vs s1 =>
    (s1.modSheaf c.k (fun sh =>
      { sh with rmarks := if sh.rdepth < 8 then lset sh.rmarks sh.rdepth ((vs.headD 0).setWidth 16) else sh.rmarks
                rdepth := if sh.rdepth < 0xFFFF then sh.rdepth + 1 else sh.rdepth })).advance c))

/-- `leave` (R129). -/
def execLeave (s : State) : Host.Outcome State Fault Refusal :=
  issueEdge s (fun c => (s.modSheaf c.k (fun sh =>
    if sh.rdepth = 0 then sh
    else { sh with rdepth := sh.rdepth - 1
                   rmarks := if sh.rdepth - 1 < 8 then lset sh.rmarks (sh.rdepth - 1) 0 else sh.rmarks })).advance c)

end Sys2Proof.Machine
end

