-- ==== Sys2Proof/Machine/LaneMem.lean ====
section
/-! DEFINITION. Lane memory instructions: plain loads and stores (04 R69, R70), ordered accesses, atomics and fences (11 R177
to R181), and the moments at which their accesses perform (10 R159 to R165; log 7). -/

namespace Sys2Proof.Machine

/-- The effective address of R19, none for a segment-bound fault. -/
def formAddr (seg : Segment) (off : DWord) (imm : Int) (size : Nat) : Option Addr :=
  let o : Int := off.toNat + imm
  if !seg.v || o < 0 || seg.last.toNat < o + size - 1 then none else some (seg.base + BitVec.ofInt 80 o)

/-- What a lane memory instruction asks for. -/
structure MemReq where
  dst : Option (LDst × Nat)        -- destination and its words
  data : Option (LReg × Nat)       -- data operand and its words
  base : LSrc
  seg : Fin 8
  imm : Int
  size : Nat
  exact : Bool                     -- an address that is no multiple of the size faults (R162)
  access : Access
  ord : Ord
  scope : Scope
  kind : List Word → Nat → AccKind -- from the data words and the offset of the part

/-- One event of a lane's access: offset, length, place, page kind. -/
structure Part where
  off : Nat
  len : Nat
  place : Place
  pk : PageKind
  deriving DecidableEq, Repr

/-- What one lane's access meets. -/
inductive LanePlan where
  | ok (ea : Addr) (parts : List Part)
  | zero                                  -- a DARK allocation read in a pre-emption save (R156)
  | replay (ea va : Addr)
  | fault (e : Exc)
  | loss (site : Nat) (id : BitVec 16) (off : Nat) (ea : Addr)
  | lossWait (site : Nat) (id : BitVec 16)
  | stall (code : Nat)
  deriving DecidableEq, Repr

/-- The parts of an access, or the first thing in its way (R162). -/
def State.partsOf (s : State) (v : Via) (ea : Addr) (size : Nat) (a : Access) : List (Nat × Nat) → Except (Reach × Addr) (List Part)
  | [] => .ok []
  | (off, len) :: l =>
    let va := ea + BitVec.ofNat 80 off
    match s.reach v va len a with
    | .ok pl pk => (s.partsOf v ea size a l).map (fun ps => ⟨off, len, pl, pk⟩ :: ps)
    | r => .error (r, va)

/-- Whether the sheaf is in its pre-emption save (R156). -/
def inSave (sh : Sheaf) : Bool :=
  match sh.hand with
  | some h => h.fault.code == 0x1C && !h.fault.restore
  | none => false

/-- The plan of an access at a formed address (R134, R147, R162). -/
def State.planAt (s : State) (c : Ctx) (r : MemReq) (ea : Addr) : LanePlan :=
  let v := viaOf c.k c.sh c.wg r.seg.val
  let at_ := s.servedAt v ea r.size
  let events := cut (at_.toNat % r.size == 0) 0 r.size
  let whole : Except (Reach × Addr) (List Part) :=
    match rangeOf at_ with
    | .aperture _ => match s.reach v ea r.size r.access with
      | .ok _ _ => s.partsOf v ea r.size r.access events
      | x => .error (x, ea)
    | _ =>
      if r.exact && at_.toNat % r.size != 0 then .error (.fault 0x07 0, ea) else s.partsOf v ea r.size r.access events
  match whole with
  | .ok ps => .ok ea ps
  | .error (.replay va, _) => .replay ea va
  | .error (.fault code alloc, va) => .fault { code := code, opnd := 2, addr := va, alloc := alloc }
  | .error (.loss site id off, _) => if inSave c.sh && r.access == .rd then .zero else .loss site id off ea
  | .error (.lossWait site id, _) => .lossWait site id
  | .error (.stall n, _) => .stall n
  | .error (.ok _ _, _) => .ok ea []

/-- What the replay in progress captured for a lane (R138). -/
def Ctx.captured (c : Ctx) (lane : Nat) : Option Captured :=
  match c.sp.replay with
  | some r => r.caps.find? (fun x => x.lane == lane)
  | none => none

/-- A lane's plan: dead reads, the address of R19, alignment, then where it leads. -/
def State.planLane (s : State) (c : Ctx) (r : MemReq) (lane : Nat) : LanePlan :=
  match c.captured lane with
  | some x => s.planAt c r x.ea
  | none =>
    let dataDead := match r.data with
      | some (v, n) => c.sh.strict && regsDead s.free c.sh lane v n
      | none => false
    if dataDead then .fault { code := 0x03, opnd := 5 }
    else if c.sh.strict && regsDead s.free c.sh lane r.base.reg 2 then .fault { code := 0x03, opnd := 2 }
    else
      let off := wordsVal (regsRead s.free c.sh lane r.base.reg 2)
      match formAddr (lget ⟨0, 0, false⟩ c.sh.segs r.seg.val) off r.imm r.size with
      | none =>
        let at_ := (lget ⟨0, 0, false⟩ c.sh.segs r.seg.val).base + BitVec.ofInt 80 (off.toNat + r.imm)
        .fault { code := 0x08, opnd := 2, addr := at_ }
      | some ea =>
        if r.exact && ea.toNat % r.size != 0 then .fault { code := 0x07, opnd := 2, addr := ea }
        else s.planAt c r ea

/-- Whether a store of words meets a counter control page that refuses it (21 R320). -/
def State.pageRefuses (s : State) (ws : List Word) (parts : List Part) : Bool :=
  parts.any (fun p => match p.place with
    | .hbm pa => match s.ctrAt pa with
      | some (_, x) => x.refuses (pa - x.ctrPage.getD 0) (((wordBytes ws).drop p.off).take p.len)
      | none => false
    | _ => false)

/-- The data words of a lane's store: captured, read, or those the port gives the lane of that rank. -/
def State.storeWords (s : State) (c : Ctx) (r : MemReq) (rank lane : Nat) : List Word :=
  match c.captured lane, r.data with
  | some x, _ => x.data
  | none, some (v, n) => match v.port.bind (s.portOf c.sh) with
    | some (_, q) => [s.peekWord q rank]
    | none => regsRead s.free c.sh lane v n
  | none, none => []

/-- Plans with the stores that a counter control page refuses turned into faults: protection (R320). -/
def State.refuseStores (s : State) (c : Ctx) (r : MemReq) : Nat → List (Nat × LanePlan) → List (Nat × LanePlan)
  | _, [] => []
  | rank, (l, .ok ea parts) :: rest =>
    if r.access == .wr && s.pageRefuses (s.storeWords c r rank l) parts then
      (l, .fault { code := 0x0A, opnd := 2, addr := ea }) :: s.refuseStores c r rank rest
    else (l, .ok ea parts) :: s.refuseStores c r (rank + 1) rest
  | rank, (l, .replay ea va) :: rest => (l, .replay ea va) :: s.refuseStores c r (rank + 1) rest
  | rank, p :: rest => p :: s.refuseStores c r rank rest

/-- The partition and the physical address of a lane's store that a counter control page refuses: a lane that faults though
its own access could be carried out (R320). -/
def State.refusedAt (s : State) (c : Ctx) (r : MemReq) (lane : Nat) : Option (Nat × Nat) :=
  match s.planLane c r lane with
  | .ok _ parts => parts.findSome? (fun p => match p.place with
    | .hbm pa => (s.ctrAt pa).map (fun x => (x.1, pa))
    | _ => none)
  | _ => none

/-- Stores that a counter control page refused are reported to the hypervisor (R320). -/
def State.reportRefused (s : State) (l : List (Nat × Nat)) : State :=
  l.foldl (fun (t : State) x => t.setPart x.1 { t.part x.1 with refused := (t.part x.1).refused ++ [x.2] }) s

/-- Where the issuing instruction's accesses come from (R293). -/
def Ctx.origin (c : Ctx) (s : State) : Origin := ⟨c.sp.pc, s.word, c.sh.ctl.origin, c.sh.hand.map (·.no)⟩

/-- Outstanding accesses of one lane's parts (R159, R161). -/
def State.addParts (s : State) (c : Ctx) (r : MemReq) (iss op lane : Nat) (ea : Addr) (ws : List Word) : List Part → State
  | [] => s
  | p :: ps =>
    let bs := wordBytes ws
    let va := s.servedAt (viaOf c.k c.sh c.wg r.seg.val) (ea + BitVec.ofNat 80 p.off) p.len
    let a : Acc := ⟨s.nextKey, iss, op, c.k, c.site, lane, r.kind ws p.off, c.wg.asid, va, p.place, p.len,
      (bs.drop p.off).take p.len, if p.pk == .so then .ar else r.ord, r.scope.onPage p.pk, p.pk,
      .issued, [], some (c.origin s)⟩
    (({ s with accs := s.accs ++ [a] }.bump).cacheLocal (viaOf c.k c.sh c.wg r.seg.val) a.va).addParts c r iss op lane ea ws ps

/-- Entries reserved for an outstanding operation (R22). -/
def reserved (op n : Nat) : List Entry := (List.range n).map (fun i => ⟨0, true, some ⟨op, i, false⟩⟩)

/-- The registers a memory instruction names, by field. -/
def MemReq.regs (r : MemReq) : List (Nat × Option Nat) :=
  (match r.dst with | some (d, n) => [(1, d.top n)] | none => []) ++
  (match r.data with | some (v, n) => [(5, v.top n)] | none => []) ++ [(2, r.base.reg.top 2)]

/-- Whether the request counts in the stores class (R71). -/
def MemReq.isStore (r : MemReq) : Bool := r.dst.isNone

/-- The operation that the lanes completing now belong to, and the state with its counter raised: a replay goes on with the
one its first issue raised (R71, R138). -/
def State.beginOp (s : State) (c : Ctx) (isStore : Bool) (iss : Nat) (any : Bool) : Option OpenOp × State :=
  match c.sp.replay.bind (·.op) with
  | some o => (some o, s)
  | none =>
    if any then (some ⟨iss, isStore⟩, s.modSheaf c.k (fun sh =>
      if isStore then { sh with stores := sh.stores + 1 } else { sh with loads := sh.loads + 1 }))
    else (none, s)

/-- A replay is over, and with it what it held open (R71). -/
def State.shutAfter (s : State) (c : Ctx) : State :=
  match c.sp.replay.bind (·.op) with
  | some o => s.shutOp c.k o
  | none => s

/-- The lanes of a list that fulfil a plan. -/
def okLane : LanePlan → Bool | .ok .. => true | .zero => true | _ => false
/-- A lane to be replayed. -/
def replayLane : LanePlan → Option (Addr × Addr) | .replay ea va => some (ea, va) | _ => none
/-- A lane with a fault for the handler. -/
def faultLane : LanePlan → Option Exc | .fault e => some e | _ => none

/-- What stops the whole split: a loss, or a fault of split scope (R153, R264). -/
def stopsSplit : LanePlan → Bool | .loss .. => true | .lossWait .. => true | .fault e => e.code == 0x16 | _ => false

/-- A lane memory instruction (R19, R22, R69 to R71, R138, R153, R265): lanes that meet nothing complete; a loss is the
whole split's, of the lowest lane that meets one (log 32); a light fault holds the split for the lanes it names; other faults
park their lanes. At a counter of 63 it stalls before it looks for faults (log 32). -/
def laneMem (s : State) (r : MemReq) : Host.Outcome State Fault Refusal :=
  issue s (fun c =>
    checkNamed s c r.regs
      (if (c.sp.replay.bind (·.op)).isNone && (if r.isStore then c.sh.stores else c.sh.loads) ≥ 63 then s.stall c 7
       else
        let lanes := maskLanes c.active
        let ps : List PortUse := match r.data.bind (fun d => d.1.port) with
          | some h => if c.sp.replay.isSome then [] else [⟨5, h, false, lanes.length⟩]
          | none => []
        match ps.findSome? (s.portFault c.sh ps) with
        | some (code, fld) => s.trap c code fld
        | none =>
          let ns := s.portNeeds c.sh ps
          if !s.portsReady ns then s.stallPort c ns
          else
            let plans := s.refuseStores c r 0 (lanes.map (fun l => (l, s.planLane c r l)))
            match (if c.stops && plans.any (fun p => (faultLane p.2).isSome) then some 21
              else plans.findSome? (fun p => match p.2 with | .stall n => some n | _ => none)) with
            | some n => s.stall c n
            | none =>
              match plans.find? (fun p => stopsSplit p.2) with
              | some (_, .loss site id off ea) => s.raiseLoss c site id off 2 ea
              | some (_, .lossWait site id) => s.waitOn c (.loss site id)
              | some (_, .fault e) => s.raise c e
              | _ =>
                let takers := plans.filter (fun p => okLane p.2 || (replayLane p.2).isSome)
                let (pops, s1) := match ps with
                  | u :: _ => s.popWords c.k u.h takers.length
                  | [] => ([], s)
                let words : Nat → Nat → List Word := fun rank l =>
                  match c.captured l with
                  | some x => x.data
                  | none => match r.data with
                    | some (v, n) => if v.port.isSome then [lget 0 pops rank] else regsRead s.free c.sh l v n
                    | none => []
                let ranked := mapIdxFrom (fun rank p => (p.1, p.2, words rank p.1)) 0 takers
                let iss := s1.nextKey
                let (held, s2) := s1.bump.beginOp c r.isStore iss (ranked.any (fun p => match p.2.1 with | .ok .. => true | _ => false))
                let op := held.elim iss (·.op)
                let s3 := ranked.foldl (fun (t : State) p => match p.2.1 with
                  | .ok ea parts => t.addParts c r iss op p.1 ea p.2.2 parts
                  | _ => t) s2
                let s4 := s3.modLanes c.k ((ranked.filter (fun p => okLane p.2.1)).map (·.1)) (fun _ l ln =>
                  let ln' := if r.base.last then ln.killRegs r.base.reg 2 else ln
                  match r.dst with
                  | some (d, n) => ln'.writeEntries d
                      (if (plans.any (fun p => p.1 == l && p.2 == .zero)) then List.replicate n (Entry.val! 0) else reserved op n)
                  | none => ln')
                let bad := plans.filterMap (fun p => (faultLane p.2).map (fun e => (p.1, e)))
                let reps := ranked.filterMap (fun p => (replayLane p.2.1).map (fun x => (p.1, x.1, x.2, p.2.2)))
                match reps with
                | (_, _, va, _) :: _ =>
                  s4.replayOn c va (r.access == .wr)
                    ⟨maskOf (reps.map (·.1) ++ bad.map (·.1)), held, reps.map (fun x => ⟨x.1, x.2.1, x.2.2.2⟩)⟩
                | [] =>
                  let told := if r.access == .wr then bad.filterMap (fun b => s.refusedAt c r b.1) else []
                  (((s4.reportRefused told).advance c).raiseSome c bad).shutAfter c))

/-! ### Plain loads and stores (R69, R70) -/

/-- A plain load of a size. -/
def plainLoad (s : State) (d : LDst) (m : MemM) (size : Nat) (sx : Bool) : Host.Outcome State Fault Refusal :=
  laneMem s ⟨some (d, (size + 3) / 4), none, m.base, m.seg, m.off.toInt * size, size, false, .rd, .rlx, .sh,
    fun _ off => .load size off sx⟩

/-- A plain store of a size. -/
def plainStore (s : State) (v : LReg) (m : MemM) (size : Nat) : Host.Outcome State Fault Refusal :=
  laneMem s ⟨none, some (v, (size + 3) / 4), m.base, m.seg, m.off.toInt * size, size, false, .wr, .rlx, .sh, fun _ _ => .store⟩

/-- `ld.i8` (R69): sign-extended. -/
def execLdI8 (d : LDst) (m : MemM) (s : State) : Host.Outcome State Fault Refusal := plainLoad s d m 1 true
/-- Loads of byte formats (R69): zero-extended. -/
def execLdFp8 (d : LDst) (m : MemM) (s : State) : Host.Outcome State Fault Refusal := plainLoad s d m 1 false
/-- Loads of halves (R69): zero-extended. -/
def execLdH16 (d : LDst) (m : MemM) (s : State) : Host.Outcome State Fault Refusal := plainLoad s d m 2 false
/-- Loads of words (R69). -/
def execLdW32 (d : LDst) (m : MemM) (s : State) : Host.Outcome State Fault Refusal := plainLoad s d m 4 false
/-- Loads of pairs (R69). -/
def execLdD64 (d : LDst) (m : MemM) (s : State) : Host.Outcome State Fault Refusal := plainLoad s d m 8 false
/-- `ldq` (R69). -/
def execLdq (d : LDst) (m : MemM) (s : State) : Host.Outcome State Fault Refusal := plainLoad s d m 16 false
/-- Stores of bytes (R70). -/
def execStB8 (v : LReg) (m : MemM) (s : State) : Host.Outcome State Fault Refusal := plainStore s v m 1
/-- Stores of halves (R70). -/
def execStH16 (v : LReg) (m : MemM) (s : State) : Host.Outcome State Fault Refusal := plainStore s v m 2
/-- Stores of words (R70). -/
def execStW32 (v : LReg) (m : MemM) (s : State) : Host.Outcome State Fault Refusal := plainStore s v m 4
/-- Stores of pairs (R70). -/
def execStD64 (v : LReg) (m : MemM) (s : State) : Host.Outcome State Fault Refusal := plainStore s v m 8
/-- `stq` (R70). -/
def execStq (v : LReg) (m : MemM) (s : State) : Host.Outcome State Fault Refusal := plainStore s v m 16

/-! ### Ordered accesses, atomics, fences (R177 to R181) -/

/-- `ld` with an ordering (R177). -/
def execLdOrdered (w64 : Bool) (d : LDst) (m : MemA) (s : State) : Host.Outcome State Fault Refusal :=
  laneMem s ⟨some (d, wide w64), none, m.base, m.seg, 0, 4 * wide w64, true, .rd, m.ord, m.scope,
    fun _ off => .load (4 * wide w64) off false⟩

/-- `st` with an ordering (R177). -/
def execStOrdered (w64 : Bool) (v : LReg) (m : MemA) (s : State) : Host.Outcome State Fault Refusal :=
  laneMem s ⟨none, some (v, wide w64), m.base, m.seg, 0, 4 * wide w64, true, .wr, m.ord, m.scope, fun _ _ => .store⟩

/-- An atomic with a data operand of n words; the old value is pushed (R178, R179). -/
def atomReq (s : State) (v : LReg) (n : Nat) (m : MemA) (w64 : Bool) (fn : List Word → AtomFn) :
    Host.Outcome State Fault Refusal :=
  laneMem s ⟨some (.push, wide w64), some (v, n), m.base, m.seg, 0, 4 * wide w64, true, .wr, m.ord, m.scope,
    fun ws _ => .atom (fn ws) w64 (wordsVal (ws.take (wide w64)))⟩

/-- `atom` on 4 bytes (R178). -/
def execAtom32 (op : AtomOp) (v : LReg) (m : MemA) (s : State) : Host.Outcome State Fault Refusal :=
  atomReq s v 1 m false (fun _ => .op op)

/-- `atom` on 8 bytes (R178). -/
def execAtom64 (op : AtomOp) (v : LReg) (m : MemA) (s : State) : Host.Outcome State Fault Refusal :=
  atomReq s v 2 m true (fun _ => .op op)

/-- `xchg` (R179). -/
def execXchg (w64 : Bool) (v : LReg) (m : MemA) (s : State) : Host.Outcome State Fault Refusal :=
  atomReq s v (wide w64) m w64 (fun _ => .xchg)

/-- `cas` (R179, R31): the compare value, then the new value. -/
def execCas (w64 : Bool) (c : LReg) (m : MemA) (s : State) : Host.Outcome State Fault Refusal :=
  atomReq s c (2 * wide w64) m w64 (fun ws => .cas (wordsVal (ws.drop (wide w64))))

/-- `fence` (R181): it stands in sheaf order among the accesses, reads no register and is counted in no class. -/
def execFence (ord : Ord) (scope : Scope) (s : State) : Host.Outcome State Fault Refusal :=
  issue s (fun c =>
    let a : Acc := ⟨s.nextKey, s.nextKey, s.nextKey, c.k, c.site, 64, .fence, 0, 0, .hbm 0, 0, [], ord, scope, .rc, .issued, [], none⟩
    (({ s with accs := s.accs ++ [a] }.bump).settleFences).advance c)

/-! ### The moments at which accesses perform -/

/-- A load's data reach its core (R22, R139, R173); `fresh` when the core no longer holds the line. A load that may not
perform yet stands where it is (log 30). -/
def execLoadDataArrival (acc : Nat) (fresh : Bool) (s : State) : Host.Outcome State Fault Refusal :=
  match s.acc acc with
  | some a => .next (match a.kind with
      | .load .. => if a.stage == .issued && s.mayPerform a then s.performLoad a fresh else s
      | .word => s.arriveWord a
      | _ => s)
  | none => .next s

/-- An atomic performs in one lane (R163, R178). -/
def execAtomicPerform (acc : Nat) (s : State) : Host.Outcome State Fault Refusal :=
  match s.acc acc with
  | some a => .next (match a.kind with
      | .atom .. =>
        if a.stage == .issued && s.mayPerform a && !(s.path a.site).any (fun b => a.place.meets a.size b.place b.size) then s.performAtomic a else s
      | _ => s)
  | none => .next s

/-- A memory processor serves a light fault or a translation it can resolve (R138), but for the time of a hand-over
(R314). -/
def execLightFaultService (asid : BitVec 16) (va : Addr) (write : Bool) (s : State) : Host.Outcome State Fault Refusal :=
  .next (if s.firmware.memHold then s else s.serveAt asid va write)

end Sys2Proof.Machine
end

