-- ==== Sys2Proof/Machine/GroupMem.lean ====
section
/-! DEFINITION. Memory accesses of group-set instructions: one address for the sheaf, faults of split scope (18 R264), short
addresses (16 R245), and reads and updates that perform at once in the sheaf's order (16 R245). -/

namespace Sys2Proof.Machine

/-- The lane number under which a group-set instruction's operands are captured (R138). -/
abbrev sheafLane : Nat := 64

/-- Values as captured words. -/
def packVals (vs : List DWord) : List Word := vs.flatMap (fun v => [v.lo, v.hi])

/-- Values from captured words. -/
def unpackVals : List Word → List DWord
  | a :: b :: l => DWord.ofPair a b :: unpackVals l
  | _ => []

/-- The operands of a group-set instruction that may replay: those captured at its first issue, or read now (R138). -/
def groupVals (s : State) (c : Ctx) (us : List GUse) (d : Option GDst) (go : List DWord → State → State) : State :=
  match c.captured sheafLane with
  | some x => go (unpackVals x.data) s
  | none => groupStep s c us d go

/-- A replay of a group-set instruction with its operands (R138). -/
def State.replaySheaf (s : State) (c : Ctx) (ea va : Addr) (write : Bool) (vs : List DWord) : State :=
  s.replayOn c va write ⟨c.sp.mask, none, [⟨sheafLane, ea, packVals vs⟩]⟩

/-- What follows from an access that is in the way: a replay, a fault of the split, a loss, a wait or a stall. `s` is the
state before the instruction and `s1` the one in which its operands have been read. -/
def inTheWay (s s1 : State) (c : Ctx) (vs : List DWord) (opnd : Nat) (write : Bool) (ea : Addr) (x : Reach × Addr) : State :=
  match x with
  | (.replay va, _) => s1.replaySheaf c ea va write vs
  | (.fault code alloc, va) => s.raise c { code := code, opnd := opnd, addr := va, alloc := alloc }
  | (.loss site id off, _) => s.raiseLoss c site id off opnd ea
  | (.lossWait site id, _) => s.waitOn c (.loss site id)
  | (.stall n, _) => s.stall c n
  | (.ok _ _, _) => s

/-- The address of R19 for the sheaf: the one a replay in progress captured, else the one formed now (R138). -/
def Ctx.segAddr (c : Ctx) (seg : Fin 8) (off : DWord) (size : Nat) : Option Addr :=
  match c.captured sheafLane with
  | some x => some x.ea
  | none => formAddr (lget ⟨0, 0, false⟩ c.sh.segs seg.val) off 0 size

/-- An address of R19 for the sheaf, of a size and alignment, reached: then what the instruction does there. -/
def atSegment (s s1 : State) (c : Ctx) (vs : List DWord) (seg : Fin 8) (off : DWord) (size align opnd : Nat) (a : Access)
    (go : Addr → List (Place × Nat) → State) : State :=
  let sg := lget ⟨0, 0, false⟩ c.sh.segs seg.val
  match c.segAddr seg off size with
  | none => s.raise c { code := 0x08, opnd := opnd, addr := sg.base + off.setWidth 80 }
  | some ea =>
    if ea.toNat % align != 0 then s.raise c { code := 0x07, opnd := opnd, addr := ea }
    else match s1.reachRange (viaOf c.k c.sh c.wg seg.val) ea size a with
      | .error x => inTheWay s s1 c vs opnd (a == .wr) ea x
      | .ok ps => go ea ps

/-! ### Short addresses (R245) -/

/-- How a holder reaches a structure by a short address: through `seg2` or `seg1` for a future word in the aperture, else
like `seg0`; the aperture is closed to every other structure (R245). -/
def State.reachShort (s : State) (v : Via) (future : Bool) (p : DWord) (size : Nat) (a : Access) :
    Except (Reach × Addr) (List (Place × Nat)) :=
  match shortAddr p with
  | .plain va => s.reachRange { v with seg := 0 } va size a
  | .aperture va =>
    if !future then .error (.fault 0x0A 0, va)
    else
      let v1 := { v with seg := 1 }
      let v2 := { v with seg := 2 }
      if s.unpinned v1 va size || s.unpinned v2 va size then .error (.fault 0x1E 0, va)
      else match s.reachRange v1 va size a with
        | .error (.fault _ _, _) => s.reachRange v2 va size a
        | x => x

/-- The sheaf's via for short addresses. -/
def Ctx.via (c : Ctx) : Via := viaOf c.k c.sh c.wg 0

/-- Whether every earlier access of the sheaf that a release of scope `.dv` orders has performed there (R165, row 3). -/
def State.drainedFor (s : State) (k : Nat) (un : Bool) : Bool :=
  s.accs.all (fun x => x.k != k || x.kind.isFence || (x.pk == .un && !un) || x.performedAt .dv)

/-- A structure named by a short address, reached for an instruction that performs at `.dv` (R245). Until the sheaf's
earlier accesses have performed there, the instruction does not issue when it releases. -/
def atShort (s s1 : State) (c : Ctx) (vs : List DWord) (future release : Bool) (p : DWord) (size align opnd : Nat) (a : Access)
    (go : List (Place × Nat) → State) : State :=
  let ea := (shortAddr p).va
  if p.toNat % align != 0 then s.raise c { code := 0x07, opnd := opnd, addr := ea }
  else match s1.reachShort c.via future p size a with
    | .error x => inTheWay s s1 c vs opnd (a == .wr) ea x
    | .ok ps => if release && !s.drainedFor c.k false then s.stall c 2 else go ps

end Sys2Proof.Machine
end

