-- ==== Sys2Proof/Machine/Engines.lean ====
section
/-! DEFINITION. Engine faults and region restarts (18 R267 to R269, R333). -/

namespace Sys2Proof.Machine

/-- An engine operation is over for its sheaf: the counter it raised falls. -/
def State.copyDone (s : State) (x : CopyOp) : State :=
  let s1 := s.modSheaf x.k (fun sh => { sh with copies := sh.copies - 1 })
  let s2 := match x.group with
    | some g => { s1 with groupIds := kset s1.groupIds g (false, ((kget s1.groupIds g).getD (false, 0)).2 + 1) }
    | none => s1
  { s2 with copies := s2.copies.filter (fun y => y.id != x.id) }

/-- A copy that reads no more: what it has landed is still counted (R202). -/
def State.stopCopy (s : State) (id : Nat) : State :=
  match s.copies.find? (fun x => x.id == id) with
  | none => s
  | some x =>
    let x' := { x with chunks := x.chunks.filter (fun c => c.landed), stalled := none }
    if x'.chunks.isEmpty then s.copyDone x'
    else { s with copies := s.copies.map (fun y => if y.id == id then x' else y) }

/-- A matrix operation is given up. -/
def State.cancelTile (s : State) (id : Nat) : State :=
  match s.tops.find? (fun x => x.id == id) with
  | none => s
  | some x => { s with tops := s.tops.filter (fun y => y.id != id) }.modSheaf x.k (fun sh => { sh with tiles := sh.tiles - 1 })

/-- The region of a sheaf that is open now: that of the interrupted program while a handler runs. -/
def Sheaf.region (sh : Sheaf) : Option (BitVec 78 × Mask) :=
  match sh.hand with
  | some h => h.saved.origin
  | none => sh.ctl.origin

/-- The restart count of the interrupted program. -/
def Sheaf.restartCount (sh : Sheaf) : Nat :=
  match sh.hand with
  | some h => h.saved.restarts
  | none => sh.ctl.restarts

/-- `PENG` of the fault record of a running handler is set (R271, R333). -/
def State.showHeld (s : State) (k : Nat) (sh : Sheaf) : State :=
  match sh.hand, s.wg sh.wg with
  | some _, some wg =>
    match s.reachRange (viaOf k sh wg 3) ((lget ⟨0, 0, false⟩ sh.segs 3).base + 1) 1 .wr with
    | .ok ps =>
      let b := (s.readPieces wg.site ps).map (fun (x : Byte) => x ||| 0x80#8)
      (s.writePieces ps b).patchPieces wg.site ps b
    | .error _ => s
  | _, _ => s

/-- An engine fault of an operation of sheaf k (R269, R333): a restart of the open region that issued it, else the
sheaf's pending fault, a held fault, or nothing for a sheaf whose lanes have all exited, but for a task's: the task is aborted
(R233). -/
def State.engineFaultOn (s : State) (k : Nat) (pc : BitVec 78) (word : Word) (region : Option (BitVec 78 × Mask)) (code : Word)
    (byHandler : Option Nat) : State :=
  match s.sheaf k with
  | none => s
  | some sh =>
    let done := sh.ctl.splits.isEmpty && sh.ctl.stack.isEmpty && sh.ctl.groups.isEmpty
    let f := ({ code := 0x1F, opnd := 0, aux := code } : Exc).record word pc 0 sh.trapEntry
    let task := (s.wg sh.wg).any (fun w => w.task.isSome && !w.ended)
    if done && task && !sh.ended then s.setSheaf k { sh with restarting := true }
    else if done then s
    else if sh.hand.any (fun h => byHandler == some h.no) then s.kill sh.wg
    else if region.isSome && region == sh.region && sh.restartCount < 16 then
      if sh.hand.isSome then s.setSheaf k { sh with restarting := true }
      else s.setSheaf k { sh.stopTrap with restarting := true, pend := sh.pend.filter (fun f => f.code == 0x1B || f.code == 0x1F) }
    else if sh.pend.isNone && sh.hand.isNone then
      s.setSheaf k { sh.stopTrap with pend := some f }
    else if sh.engine.isNone then (s.showHeld k sh).setSheaf k { sh with engine := some f }
    else s

end Sys2Proof.Machine
end

