-- ==== Sys2Proof/Machine/Numbers.lean ====
section
/-! DEFINITION. Numbers to the last bit (03 R41 to R52): integers, floating formats, rounding, and the exact values that
instructions form (04 R59 to R65, 05 R79 to R90). -/

namespace Sys2Proof.Machine

/-! ### Integers (R41, R42) -/

/-- A value of a type read as an integer. -/
def intVal (ty : IntTy) (v : DWord) : Int :=
  match ty.w64, ty.uns with
  | false, false => (v.setWidth 32).toInt
  | false, true => ((v.setWidth 32).toNat : Int)
  | true, false => v.toInt
  | true, true => (v.toNat : Int)

/-- `Wrap` of R42, as a value of the width zero-extended. -/
def wrapInt (ty : IntTy) (x : Int) : DWord :=
  if ty.w64 then BitVec.ofInt 64 x else (BitVec.ofInt 32 x).setWidth 64

/-- Smallest value of a type (R41). -/
def minOf (ty : IntTy) : Int := if ty.uns then 0 else -(2 ^ ((if ty.w64 then 64 else 32) - 1) : Nat)
/-- Largest value of a type (R41). -/
def maxOf (ty : IntTy) : Int :=
  (2 ^ ((if ty.w64 then 64 else 32) - (if ty.uns then 0 else 1)) : Nat) - 1

/-- `Sat` of R42. -/
def satInt (ty : IntTy) (x : Int) : DWord :=
  wrapInt ty (if x < minOf ty then minOf ty else if maxOf ty < x then maxOf ty else x)

/-- The result of an exact integer under a `.sat` modifier (R42). -/
def intResult (ty : IntTy) (sat : Bool) (x : Int) : DWord := if sat then satInt ty x else wrapInt ty x

/-- Quotient of R60; with b = 0, all ones. -/
def divVal (ty : IntTy) (sat : Bool) (a b : DWord) : DWord :=
  if intVal ty b = 0 then wrapInt ty (-1) else intResult ty sat (Int.tdiv (intVal ty a) (intVal ty b))

/-- Remainder of R60. -/
def remVal (ty : IntTy) (a b : DWord) : DWord :=
  if intVal ty b = 0 then wrapInt ty (intVal ty a)
  else wrapInt ty (intVal ty a - intVal ty b * Int.tdiv (intVal ty a) (intVal ty b))

/-- An integer relation (R65). -/
def relHolds (r : Rel) (a b : Int) : Bool :=
  match r with
  | .eq => a == b
  | .ne => a != b
  | .lt => decide (a < b)
  | .le => decide (a ≤ b)
  | .gt => decide (b < a)
  | .ge => decide (b ≤ a)

/-- One register that holds 1 or 0. -/
def bitVal (b : Bool) : DWord := if b then 1 else 0

/-- The value of a width, zero-extended (R58). -/
def cutTo (w64 : Bool) (v : DWord) : DWord := if w64 then v else (v.setWidth 32).setWidth 64

/-- `shl` of R62. -/
def shlVal (w64 : Bool) (a : DWord) (c : Nat) : DWord :=
  if (if w64 then 64 else 32) ≤ c then 0 else cutTo w64 (a <<< c)
/-- `shr` of R62. -/
def shrVal (w64 : Bool) (a : DWord) (c : Nat) : DWord := if (if w64 then 64 else 32) ≤ c then 0 else (cutTo w64 a) >>> c
/-- `sar` of R62. -/
def sarVal (w64 : Bool) (a : DWord) (c : Nat) : DWord :=
  let n := min c 64
  if w64 then a.sshiftRight n else ((a.setWidth 32).sshiftRight n).setWidth 64

/-- A field of n bits from a position (R63). -/
def bfxVal (sx : Bool) (a : Word) (pos len : Nat) : Word :=
  if len = 0 ∨ 32 ≤ pos then 0
  else
    let n := min len (32 - pos)
    let x := a.toNat / 2 ^ pos % 2 ^ n
    if sx ∧ 2 ^ (n - 1) ≤ x then BitVec.ofInt 32 ((x : Int) - (2 ^ n : Nat)) else BitVec.ofNat 32 x

/-- A field inserted (R63). -/
def bfiVal (base ins ctl : Word) : Word :=
  let pos := (ctl.extractLsb' 0 8).toNat
  let len := (ctl.extractLsb' 8 8).toNat
  if len = 0 ∨ 32 ≤ pos then base
  else
    let n := min len (32 - pos)
    let m : Word := BitVec.ofNat 32 ((2 ^ n - 1) * 2 ^ pos)
    (base &&& ~~~m) ||| ((ins <<< pos) &&& m)

/-- Bits of a value, lowest first. -/
def bitList (w : Nat) (v : DWord) : List Bool := (List.range w).map v.getLsbD

/-- `bit` of R64. -/
def bitOpVal (op : BitOp) (w64 : Bool) (a : DWord) : DWord :=
  let w := if w64 then 64 else 32
  let l := bitList w a
  match op with
  | .popc => BitVec.ofNat 64 (l.filter id).length
  | .clz => BitVec.ofNat 64 ((l.reverse.takeWhile (fun b => !b)).length)
  | .ctz => BitVec.ofNat 64 ((l.takeWhile (fun b => !b)).length)
  | .brev => BitVec.ofNat 64 (l.foldl (fun n b => 2 * n + (if b then 1 else 0)) 0)
  | .not => cutTo w64 (~~~a)

/-- An integer reduction step (R123, R205). -/
def redStep (op : RedOp) (ty : IntTy) (a b : DWord) : DWord :=
  match op with
  | .add => wrapInt ty (intVal ty a + intVal ty b)
  | .min => if intVal ty b < intVal ty a then b else a
  | .max => if intVal ty a < intVal ty b then b else a
  | .and => a &&& b
  | .or => a ||| b
  | .xor => a ^^^ b

/-! ### Floating formats (R43, R44) -/

/-- A format: exponent and mantissa bits, bias, code of the largest finite magnitude, code of infinity if there is one,
code of the canonical NaN (R43, R45). -/
structure Fmt where
  e : Nat
  p : Nat
  bias : Nat
  largest : Nat
  inf : Option Nat
  nan : Nat
  deriving DecidableEq, Repr

/-- binary32. -/
def fmt32 : Fmt := ⟨8, 23, 127, 0x7F7FFFFF, some 0x7F800000, 0x7FC00000⟩
/-- binary16. -/
def fmt16 : Fmt := ⟨5, 10, 15, 0x7BFF, some 0x7C00, 0x7E00⟩
/-- BF16. -/
def fmtB16 : Fmt := ⟨8, 7, 127, 0x7F7F, some 0x7F80, 0x7FC0⟩
/-- E4M3. -/
def fmtE4M3 : Fmt := ⟨4, 3, 7, 0x7E, none, 0x7F⟩
/-- E5M2. -/
def fmtE5M2 : Fmt := ⟨5, 2, 15, 0x7B, some 0x7C, 0x7E⟩
/-- E2M1: no infinity, no NaN; a NaN becomes +0. -/
def fmtE2M1 : Fmt := ⟨2, 1, 1, 0x7, none, 0⟩

/-- Width of a format. -/
def Fmt.width (f : Fmt) : Nat := 1 + f.e + f.p

/-- A value: NaN, an infinity, a zero, or a nonzero finite sign * num / den. -/
inductive Ext where
  | nan
  | inf (neg : Bool)
  | zero (neg : Bool)
  | fin (neg : Bool) (num den : Nat)
  deriving DecidableEq, Repr

/-- 2^k times num / den, for an integer k. -/
def scaleFin (neg : Bool) (num den : Nat) (k : Int) : Ext :=
  if 0 ≤ k then .fin neg (num * 2 ^ k.toNat) den else .fin neg num (den * 2 ^ (-k).toNat)

/-- The value of an encoding (R44); higher bits are ignored. -/
def decodeF (f : Fmt) (code : Nat) : Ext :=
  let neg := code / 2 ^ (f.e + f.p) % 2 == 1
  let mag := code % 2 ^ (f.e + f.p)
  let ex := mag / 2 ^ f.p
  let m := mag % 2 ^ f.p
  if mag = 0 then .zero neg
  else if mag ≤ f.largest then
    if ex = 0 then scaleFin neg m 1 (1 - (f.bias : Int) - f.p)
    else scaleFin neg (2 ^ f.p + m) 1 ((ex : Int) - f.bias - f.p)
  else if some mag = f.inf then .inf neg
  else .nan

/-- The sign of a value; a NaN counts as positive. -/
def Ext.neg : Ext → Bool
  | .nan => false
  | .inf n => n
  | .zero n => n
  | .fin n _ _ => n

/-- The value with its sign changed. -/
def Ext.minus : Ext → Ext
  | .nan => .nan
  | .inf n => .inf !n
  | .zero n => .zero !n
  | .fin n a b => .fin (!n) a b

/-- A nonzero finite or zero value as a fraction. -/
def Ext.frac : Ext → Int × Nat
  | .fin n a b => (if n then -(a : Int) else a, b)
  | _ => (0, 1)

/-- A fraction as a value; zero takes the sign given. -/
def ofFrac (zneg : Bool) (x : Int) (d : Nat) : Ext :=
  if x = 0 then .zero zneg else .fin (decide (x < 0)) x.natAbs d

/-! ### Rounding (R47, R48) -/

/-- floor(log2(num / den)) for positive num and den. -/
def floorLog2 (num den : Nat) : Int :=
  let c : Int := (num.log2 : Int) - den.log2
  let ge := if 0 ≤ c then decide (den * 2 ^ c.toNat ≤ num) else decide (den ≤ num * 2 ^ (-c).toNat)
  if ge then c else c - 1

/-- The rounded multiple of a unit, given quotient, remainder and divisor of the magnitude (R47). -/
def roundStep (mode : Rnd) (neg : Bool) (k rem d : Nat) : Nat :=
  if rem = 0 then k
  else match mode with
    | .rne => if 2 * rem < d then k else if d < 2 * rem then k + 1 else if k % 2 = 0 then k else k + 1
    | .rtz => k
    | .rdn => if neg then k + 1 else k
    | .rup => if neg then k else k + 1

/-- The magnitude code that `Round` gives a positive num / den, possibly beyond the largest (R47). -/
def roundCode (f : Fmt) (mode : Rnd) (neg : Bool) (num den : Nat) : Nat :=
  let emin : Int := 1 - (f.bias : Int)
  let l := floorLog2 num den
  let ex := if l < emin then emin else l
  let u : Int := ex - f.p
  let n := if 0 ≤ u then num else num * 2 ^ (-u).toNat
  let d := if 0 ≤ u then den * 2 ^ u.toNat else den
  ((ex + f.bias - 1).toNat) * 2 ^ f.p + roundStep mode neg (n / d) (n % d) d

/-- A sign and a magnitude code. -/
def signed (f : Fmt) (neg : Bool) (mag : Nat) : Nat := if neg then 2 ^ (f.e + f.p) + mag else mag

/-- The encoding of an infinity (R48). -/
def infCode (f : Fmt) (neg sat : Bool) : Nat :=
  if sat then signed f neg f.largest
  else match f.inf with
    | some i => signed f neg i
    | none => if f.nan = 0 then signed f neg f.largest else f.nan

/-- `Narrow` of R48 to a floating format. -/
def narrow (f : Fmt) (mode : Rnd) (sat : Bool) : Ext → Nat
  | .nan => f.nan
  | .inf neg => infCode f neg sat
  | .zero neg => signed f neg 0
  | .fin neg num den =>
    let c := roundCode f mode neg num den
    if c ≤ f.largest then signed f neg c
    else
      let toInf := match mode with
        | .rne => true
        | .rtz => false
        | .rdn => neg
        | .rup => !neg
      if toInf then infCode f neg sat else signed f neg f.largest

/-- `RoundInt` of R48. -/
def roundInt (mode : Rnd) : Ext → Int
  | .fin neg num den =>
    let m := roundStep mode neg (num / den) (num % den) den
    if neg then -(m : Int) else m
  | _ => 0

/-- `Narrow` of R48 to an integer type. -/
def narrowInt (ty : IntTy) (mode : Rnd) : Ext → DWord
  | .nan => 0
  | .inf neg => wrapInt ty (if neg then minOf ty else maxOf ty)
  | .zero _ => 0
  | x => satInt ty (roundInt mode x)

/-! ### Arithmetic on values (R49, R79, R80) -/

/-- A sum of finite values; a sum of zero takes its sign by R49. -/
def sumFinite (mode : Rnd) (a b : Ext) : Ext :=
  let (x, d) := a.frac
  let (y, e) := b.frac
  let z := x * e + y * d
  let zneg := match a, b with
    | .zero m, .zero n => if m == n then m else mode == .rdn
    | _, _ => mode == .rdn
  ofFrac zneg z (d * e)

/-- a + b (R79). -/
def addExt (mode : Rnd) (a b : Ext) : Ext :=
  match a, b with
  | .nan, _ => .nan
  | _, .nan => .nan
  | .inf m, .inf n => if m == n then .inf m else .nan
  | .inf m, _ => .inf m
  | _, .inf n => .inf n
  | _, _ => sumFinite mode a b

/-- a * b (R79). -/
def mulExt (a b : Ext) : Ext :=
  let s := xor a.neg b.neg
  match a, b with
  | .nan, _ => .nan
  | _, .nan => .nan
  | .inf _, .zero _ => .nan
  | .zero _, .inf _ => .nan
  | .inf _, _ => .inf s
  | _, .inf _ => .inf s
  | .zero _, _ => .zero s
  | _, .zero _ => .zero s
  | .fin _ x d, .fin _ y e => .fin s (x * y) (d * e)

/-- a / b (R79). -/
def divExt (a b : Ext) : Ext :=
  let s := xor a.neg b.neg
  match a, b with
  | .nan, _ => .nan
  | _, .nan => .nan
  | .inf _, .inf _ => .nan
  | .zero _, .zero _ => .nan
  | .inf _, _ => .inf s
  | _, .zero _ => .inf s
  | _, .inf _ => .zero s
  | .zero _, _ => .zero s
  | .fin _ x d, .fin _ y e => .fin s (x * e) (d * y)

/-- a * b + c rounded once (R80). -/
def fmaExt (mode : Rnd) (a b c : Ext) : Ext :=
  match c with
  | .nan => .nan
  | _ => addExt mode (mulExt a b) c

/-- a < b for values that are not NaN, zeros equal. -/
def ltExt (a b : Ext) : Bool :=
  match a, b with
  | .inf m, .inf n => m && !n
  | .inf m, _ => m
  | _, .inf n => !n
  | _, _ =>
    let (x, d) := a.frac
    let (y, e) := b.frac
    decide (x * e < y * d)

/-- A NaN. -/
def Ext.isNan : Ext → Bool | .nan => true | _ => false

/-- A float relation (R82). -/
def frelHolds (r : FRel) (a b : Ext) : Bool :=
  let uo := a.isNan || b.isNan
  match r with
  | .eq => !uo && !ltExt a b && !ltExt b a
  | .ne => uo || ltExt a b || ltExt b a
  | .lt => !uo && ltExt a b
  | .le => !uo && !ltExt b a
  | .gt => !uo && ltExt b a
  | .ge => !uo && !ltExt a b
  | .uo => uo
  | .or => !uo

/-! ### Correctly rounded functions (R85; log 13) -/

/-- The floor of a square root, digit by digit from bit n - 1 down. -/
def isqrtFrom : Nat → Nat → Nat → Nat
  | 0, r, _ => r
  | n + 1, r, x => let t := r + 2 ^ n; isqrtFrom n (if t * t ≤ x then t else r) x

/-- The floor of a square root. -/
def isqrt (x : Nat) : Nat := isqrtFrom (x.log2 / 2 + 1) 0 x

/-- A value just above s / d when it is not exact: rounding sees a remainder and no tie. -/
def nudge (exact : Bool) (s d : Nat) : Ext := if exact then ofFrac false s d else .fin false (2 * s + 1) (2 * d)

/-- The square root of num / den. -/
def sqrtFin (num den : Nat) : Ext :=
  let k := 64 + den.log2
  let n := num * 2 ^ (2 * k) / den
  let s := isqrt n
  nudge (s * s * den == num * 2 ^ (2 * k)) s (2 ^ k)

/-- Bits of the fixed-point numbers below. -/
def fixBits : Nat := 320

/-- A sum of z^(2i+1) / (2i+1), for z in fixed point: atanh z. -/
def atanhSum : Nat → Nat → Nat → Nat → Nat
  | 0, _, _, _ => 0
  | n + 1, i, pw, z2 => pw / (2 * i + 1) + atanhSum n (i + 1) (pw * z2 / 2 ^ fixBits) z2

/-- ln of num / den, for 1 ≤ num / den < 2, in fixed point: 2 atanh((num - den) / (num + den)). -/
def lnFix (num den : Nat) : Nat :=
  let z := (num - den) * 2 ^ fixBits / (num + den)
  2 * atanhSum 110 0 z (z * z / 2 ^ fixBits)

/-- ln 2 in fixed point. -/
def ln2Fix : Nat := 2 * atanhSum 110 0 (2 ^ fixBits / 3) (2 ^ fixBits / 9)

/-- A sum of y^i / i!. -/
def expSum : Nat → Nat → Nat → Nat → Nat
  | 0, _, _, _ => 0
  | n + 1, i, t, y => t + expSum n (i + 1) (t * y / 2 ^ fixBits / (i + 1)) y

/-- 2^(r / d) for 0 ≤ r < d, in fixed point. -/
def exp2Fix (r d : Nat) : Nat := expSum 90 0 (2 ^ fixBits) (r * ln2Fix / d)

/-- 2^x for x = num / den with a sign (R85). -/
def exp2Fin (neg : Bool) (num den : Nat) : Ext :=
  if num / den ≥ 512 then (if neg then .fin false 1 (2 ^ 600) else .fin false (2 ^ 600) 1)
  else
    let n : Int := if neg then -((num + den - 1) / den : Nat) else ((num / den : Nat) : Int)
    let r : Nat := if neg then ((num + den - 1) / den) * den - num else num % den
    if r = 0 then scaleFin false 1 1 n
    else
      let v := exp2Fix r den / 2 ^ 20
      scaleFin false (2 * v + 1) (2 ^ (fixBits - 19)) n

/-- log2 of num / den (R85). -/
def log2Fin (num den : Nat) : Ext :=
  let e := floorLog2 num den
  let n := if 0 ≤ e then num else num * 2 ^ (-e).toNat
  let d := if 0 ≤ e then den * 2 ^ e.toNat else den
  if n = d then ofFrac false e 1
  else
    let l := lnFix n d * 2 ^ fixBits / ln2Fix / 2 ^ 20
    ofFrac false (e * (2 ^ (fixBits - 19) : Nat) + (2 * l + 1 : Nat)) (2 ^ (fixBits - 19))

/-- The functions of R85 on binary32 values. -/
inductive MathFn where
  | rcp | rsqrt | sqrt | exp2 | log2
  deriving DecidableEq, Repr

/-- The exact value, or special case, of a function (R85). -/
def mathExt (fn : MathFn) (x : Ext) : Ext :=
  match fn, x with
  | _, .nan => .nan
  | .rcp, .inf n => .zero n
  | .rcp, .zero n => .inf n
  | .rcp, .fin n a b => .fin n b a
  | .rsqrt, .inf n => if n then .nan else .zero false
  | .rsqrt, .zero n => .inf n
  | .rsqrt, .fin n a b => if n then .nan else sqrtFin b a
  | .sqrt, .inf n => if n then .nan else .inf false
  | .sqrt, .zero n => .zero n
  | .sqrt, .fin n a b => if n then .nan else sqrtFin a b
  | .exp2, .inf n => if n then .zero false else .inf false
  | .exp2, .zero _ => .fin false 1 1
  | .exp2, .fin n a b => exp2Fin n a b
  | .log2, .inf n => if n then .nan else .inf false
  | .log2, .zero _ => .inf true
  | .log2, .fin n a b => if n then .nan else log2Fin a b

/-! ### Lane types (R28, R77) -/

/-- The format of a lane type. -/
def ftyFmt : FTy → Fmt
  | .f32 => fmt32
  | .f16 => fmt16
  | .bf16 => fmtB16

/-- binary32 or binary16 (R80, R82). -/
def f16Fmt (f16 : Bool) : Fmt := if f16 then fmt16 else fmt32

/-- A source of a lane type (R77). -/
def fval (f : Fmt) (v : DWord) : Ext := decodeF f (v.setWidth 32).toNat

/-- A result of a lane type. -/
def fres (f : Fmt) (mode : Rnd) (x : Ext) : DWord := BitVec.ofNat 64 (narrow f mode false x)

/-- `min` and `max` of R81, on encodings. -/
def fminmax (f : Fmt) (isMax : Bool) (a b : DWord) : DWord :=
  let lowBits : DWord → DWord := fun v => BitVec.ofNat 64 (v.toNat % 2 ^ f.width)
  let x := fval f a
  let y := fval f b
  if x.isNan && y.isNan then BitVec.ofNat 64 f.nan
  else if x.isNan then lowBits b
  else if y.isNan then lowBits a
  else
    let aLess := ltExt x y || (!ltExt y x && x.neg && !y.neg)
    if aLess == isMax then lowBits b else lowBits a

/-- The class mask of R84. -/
def classVal (f : Fmt) (v : DWord) : DWord :=
  let code := v.toNat % 2 ^ f.width
  let mag := code % 2 ^ (f.e + f.p)
  let bit : Nat := match decodeF f code with
    | .inf n => if n then 0 else 7
    | .zero n => if n then 3 else 4
    | .nan => if mag / 2 ^ (f.p - 1) % 2 = 1 then 9 else 8
    | .fin n _ _ =>
      if mag / 2 ^ f.p = 0 then (if n then 2 else 5) else (if n then 1 else 6)
  BitVec.ofNat 64 (2 ^ bit)

/-- The sign bit of a format acted on (R83). -/
def signVal (f : Fmt) (g : Bool → Bool) (v : DWord) : DWord :=
  let code := v.toNat % 2 ^ f.width
  BitVec.ofNat 64 (signed f (g (code / 2 ^ (f.e + f.p) % 2 == 1)) (code % 2 ^ (f.e + f.p)))

/-! ### Conversion (R86) -/

/-- The float format of a conversion type. -/
def cvtFmt : CvtTy → Option Fmt
  | .f32 => some fmt32
  | .f16 => some fmt16
  | .bf16 => some fmtB16
  | .e4m3 => some fmtE4M3
  | .e5m2 => some fmtE5M2
  | .e2m1 => some fmtE2M1
  | .i32 => none
  | .n32 => none

/-- The integer type of a conversion type. -/
def cvtInt : CvtTy → IntTy
  | .n32 => ⟨false, true⟩
  | _ => ⟨false, false⟩

/-- `cvt` of R86. -/
def cvtVal (dt st : CvtTy) (mode : Rnd) (sat : Bool) (v : DWord) : DWord :=
  match cvtFmt st, cvtFmt dt with
  | none, none => intResult (cvtInt dt) sat (intVal (cvtInt st) v)
  | none, some f => BitVec.ofNat 64 (narrow f mode sat (ofFrac false (intVal (cvtInt st) v) 1))
  | some g, none => narrowInt (cvtInt dt) mode (fval g v)
  | some g, some f => BitVec.ofNat 64 (narrow f mode sat (fval g v))

/-! ### Packed elements (R50, R87 to R90) -/

/-- Bits of a packed element. -/
def packBits : PackW → Nat
  | .b4 => 4
  | .b8 => 8
  | .b16 => 16

/-- `pack` of R87. -/
def packVal (w : PackW) (a b : Word) : Word :=
  let e := packBits w
  BitVec.ofNat 32 (a.toNat / 2 ^ e + b.toNat % 2 ^ e * 2 ^ (32 - e))

/-- `unpk` of R88. -/
def unpkVal (w : PackW) (sx : Bool) (a b : Word) : Word :=
  let e := packBits w
  let i := b.toNat % (32 / e)
  let x := a.toNat / 2 ^ (e * i) % 2 ^ e
  if sx && 2 ^ (e - 1) ≤ x then BitVec.ofInt 32 ((x : Int) - (2 ^ e : Nat)) else BitVec.ofNat 32 x

/-- Bits of an element format. -/
def elemBits : ElemTy → Nat
  | .bf16 => 16
  | .f16 => 16
  | .e4m3 => 8
  | .e5m2 => 8
  | .e2m1 => 4
  | .i8 => 8
  | .i4 => 4

/-- The value of an element (R51, R52). -/
def elemVal (t : ElemTy) (code : Nat) : Ext :=
  match t with
  | .bf16 => decodeF fmtB16 code
  | .f16 => decodeF fmt16 code
  | .e4m3 => decodeF fmtE4M3 code
  | .e5m2 => decodeF fmtE5M2 code
  | .e2m1 => decodeF fmtE2M1 code
  | .i8 => let x := code % 256; ofFrac false (if 128 ≤ x then (x : Int) - 256 else x) 1
  | .i4 => let x := code % 16; ofFrac false (if 8 ≤ x then (x : Int) - 16 else x) 1

/-- Element i of a list of words (R50). -/
def elemAt (t : ElemTy) (ws : List Word) (i : Nat) : Ext :=
  let b := elemBits t
  elemVal t ((lget 0 ws (i * b / 32)).toNat / 2 ^ (i * b % 32) % 2 ^ b)
where
  /-- Position i of a list, with a default. -/
  lget (d : Word) : List Word → Nat → Word
    | [], _ => d
    | x :: _, 0 => x
    | _ :: l, i + 1 => lget d l i

/-- `Term` of R52. -/
def term (a b : Ext) (sa sb : Nat) : Ext :=
  if sa = 255 || sb = 255 then .nan
  else match mulExt a b with
    | .fin n x d => scaleFin n x d ((sa : Int) - 127 + (sb - 127))
    | x => x

/-- `dot` of R89; a term of integer elements has the sign of its factors' product, a zero one too (log 32). -/
def dotVal (t : ElemTy) (a b c : Word) : DWord :=
  let n := 32 / elemBits t
  let ts := (List.range n).map (fun i => term (elemAt t [a] i) (elemAt t [b] i) 127 127)
  let cv := decodeF fmt32 c.toNat
  let allNegZero := (cv :: ts).all (fun x => x == .zero true)
  let sum := ts.foldl (addExt .rne) cv
  match sum with
  | .zero _ => BitVec.ofNat 64 (narrow fmt32 .rne false (.zero allNegZero))
  | x => BitVec.ofNat 64 (narrow fmt32 .rne false x)

/-- `scale` of R90. -/
def scaleVal (mode : Rnd) (a b : Word) : DWord :=
  let sb := b.toNat % 256
  if sb = 255 then BitVec.ofNat 64 fmt32.nan
  else match decodeF fmt32 a.toNat with
    | .nan => BitVec.ofNat 64 fmt32.nan
    | .fin n x d => BitVec.ofNat 64 (narrow fmt32 mode false (scaleFin n x d ((sb : Int) - 127)))
    | _ => a.setWidth 64

end Sys2Proof.Machine
end

