-- ==== Sys2Proof/Machine/Copies.lean ====
section
/-! DEFINITION. Copies (14 R198 to R210, 16 R246) and the landing of their chunks. -/

namespace Sys2Proof.Machine

/-! ### Descriptors (R199) -/

/-- A copy descriptor. -/
structure Desc where
  src : DWord
  dst : DWord
  r4 : Word
  r5 : Word
  sstr : Word
  dstr : Word
  deriving DecidableEq, Repr

/-- The registers of a descriptor, from its first (R199). -/
def readDesc (s : State) (c : Ctx) (d : GSrc) (n : Nat) : List Word :=
  match d with
  | .g k => (List.range n).map (fun i => lget 0 c.sh.g (k.val + i))
  | .b k => (List.range n).map (fun i => blockRead s c (k.val + i))
  | _ => List.replicate n 0

/-- The sheaf has seen the block registers of a descriptor (R104). -/
def State.noteDesc (s : State) (c : Ctx) (d : GSrc) (n : Nat) : State :=
  match d with
  | .b k => (List.range (n / 2)).foldl (fun (t : State) i => t.noteSeen c (.b (Fin.ofNat 16 (k.val + 2 * i)))) s
  | _ => s

/-- A descriptor from its registers. -/
def Desc.of (ws : List Word) : Desc :=
  ⟨DWord.ofPair (lget 0 ws 0) (lget 0 ws 1), DWord.ofPair (lget 0 ws 2) (lget 0 ws 3), lget 0 ws 4, lget 0 ws 5, lget 0 ws 6,
    lget 0 ws 7⟩

/-- `SSEG` and `DSEG`. -/
def Desc.sseg (d : Desc) : Nat := (d.r5.extractLsb' 0 3).toNat
/-- `DSEG`. -/
def Desc.dseg (d : Desc) : Nat := (d.r5.extractLsb' 3 3).toNat
/-- `ELEM`. -/
def Desc.elem (d : Desc) : Nat := (d.r5.extractLsb' 6 2).toNat
/-- `ARRV`, none for 0xF_FFFF. -/
def Desc.arrv (d : Desc) : Option Nat :=
  let a := (d.r5.extractLsb' 12 20).toNat
  if a = 0xFFFFF then none else some (a * 8)

/-- The rows of a copy: source offset, destination offset and length of each (R200). -/
def Desc.rows (d : Desc) (two : Bool) : List (Int × Int × Nat) :=
  if two then
    let len := (d.r4.extractLsb' 0 16).toNat
    (List.range (d.r4.extractLsb' 16 16).toNat).map (fun (r : Nat) =>
      ((d.src.toNat : Int) + r * d.sstr.toInt, (d.dst.toNat : Int) + r * d.dstr.toInt, len))
  else [((d.src.toNat : Int), (d.dst.toNat : Int), (d.r4.extractLsb' 0 24).toNat)]

/-! ### Checks at issue (R201) -/

/-- What stops a copy at issue. -/
inductive CopyStop where
  | fault (e : Exc)
  | loss (site : Nat) (id : BitVec 16) (off : Nat) (opnd : Nat) (ea : Addr)
  | lossWait (site : Nat) (id : BitVec 16)
  | stall (code : Nat)
  deriving DecidableEq, Repr

/-- A range of a copy: segment number, offset, length, the member in whose window it lies and whether that member has to own
it (R203), operand field. -/
structure CopyRange where
  seg : Nat
  off : Int
  len : Nat
  member : Option Nat
  own : Bool
  opnd : Nat
  deriving DecidableEq, Repr

/-- A range's first address under R19. -/
def Ctx.rangeAddr (c : Ctx) (r : CopyRange) : Option Addr :=
  formAddr (lget ⟨0, 0, false⟩ c.sh.segs r.seg) 0 r.off r.len

/-- Check 2 of R201 for ranges, in order. -/
def checkSegs (c : Ctx) (rs : List CopyRange) : Option CopyStop :=
  rs.findSome? (fun r => match c.rangeAddr r with
    | none => some (.fault { code := 0x08, opnd := r.opnd, addr := (lget ⟨0, 0, false⟩ c.sh.segs r.seg).base + BitVec.ofInt 80 r.off })
    | some _ => none)

/-- Whether a range keeps to its member's window, and to that member's own allocations where it has to (R203, R204). -/
def State.inMember (s : State) (c : Ctx) (r : CopyRange) (x : Alloc) : Bool :=
  match r.member with
  | none => true
  | some m =>
    (m * Config.windowBytes : Nat) ≤ r.off && r.off + r.len ≤ ((m + 1) * Config.windowBytes : Nat) &&
    (!r.own || ((kget s.gangs c.wg.gang).bind (fun g => g.members[m]?)) == some x.wg)

/-- The allocation that a range lies in (R201, row 3): its core, itself and the offset in it; none outside the granary; or the
identifier that the protection fault shows. -/
def State.placed (s : State) (c : Ctx) (r : CopyRange) (ea : Addr) : Except (BitVec 16) (Option (Nat × Alloc × Nat)) :=
  if r.seg != 1 && r.seg != 2 then
    if shutSegment c.sh r.seg || meetsAperture ea r.len then .error 0 else .ok none
  else match rangeOf ea with
  | .aperture off => match s.granaryAt (viaOf c.k c.sh c.wg r.seg) off r.len with
    | .error i => .error i
    | .ok x => if s.inMember c r x.2.1 then .ok (some x) else .error x.2.1.id
  | _ => .ok none

/-- The allocation that a range of a copy lies in when it is issued, if any (R152). -/
def State.gripOf (s : State) (c : Ctx) (r : CopyRange) : Option (Nat × BitVec 16) :=
  match (c.rangeAddr r).map (s.placed c r) with
  | some (.ok (some (site, x, _))) => some (site, x.id)
  | _ => none

/-- Row 3 of R201 for ranges, in order. -/
def State.checkPlaces (s : State) (c : Ctx) (rs : List CopyRange) : Option CopyStop :=
  rs.findSome? (fun r => match c.rangeAddr r with
    | none => none
    | some ea => match s.placed c r ea with
      | .error i => some (.fault { code := 0x0A, opnd := r.opnd, addr := ea, alloc := i })
      | .ok _ => none)

/-- Row 4 of R201 for ranges, in the order in which they meet a loss (R153). -/
def State.checkLosses (s : State) (c : Ctx) (rs : List CopyRange) : Option CopyStop :=
  rs.findSome? (fun r => match c.rangeAddr r with
    | none => none
    | some ea => match s.placed c r ea with
      | .ok (some (site, x, o)) => match x.touch (some c.k) with
        | .loss => some (.loss site x.id o r.opnd ea)
        | .wait => some (.lossWait site x.id)
        | .free => none
      | _ => none)

/-- Rows 5 and 6 of R201, of an arrival word. -/
def State.checkArrival (s : State) (c : Ctx) (r : CopyRange) : Option CopyStop :=
  match c.rangeAddr r with
  | none => none
  | some ea =>
    if ea.toNat % 8 != 0 then some (.fault { code := 0x07, opnd := r.opnd, addr := ea })
    else match s.placed c r ea with
      | .ok (some (_, x, _)) => if x.rank == 7 then none else some (.fault { code := 0x1E, opnd := r.opnd, addr := ea })
      | _ => none

/-- The state a stopped copy leaves. -/
def State.stopAt (s : State) (c : Ctx) : CopyStop → State
  | .fault e => s.raise c e
  | .loss site id off opnd ea => s.raiseLoss c site id off opnd ea
  | .lossWait site id => s.waitOn c (.loss site id)
  | .stall n => s.stall c n

/-! ### Chunks (R200) -/

/-- The chunks of one row, of up to 64 bytes each. -/
def rowChunks (src dst : Addr) (arr : Option Addr) (from_ into : Option (Nat × BitVec 16)) : Nat → Nat → Nat → List Chunk
  | 0, _, _ => []
  | _, _, 0 => []
  | fuel + 1, at_, left =>
    let n := min left 64
    ⟨src + BitVec.ofNat 80 at_, dst + BitVec.ofNat 80 at_, n, arr, from_, into, false, false, false⟩ ::
      rowChunks src dst arr from_ into fuel (at_ + n) (left - n)

/-- A copy begins: it stands behind every access the sheaf has issued, and the copies counter rises (R200, R246). -/
def State.beginCopy (s : State) (c : Ctx) (chunks : List Chunk) (srcs : List (Addr × Nat)) (red : Option (RedOp × Nat))
    (group : Option Nat) : State :=
  let x : CopyOp := ⟨s.nextKey, c.k, c.sh.wg, c.site, c.wg.asid, c.sp.pc, s.word, s.nextKey, c.sh.ctl.origin, chunks, red, group,
    srcs, false, none, c.sh.hand.map (·.no)⟩
  let s1 := { s with copies := s.copies ++ [x] }.bump
  let s2 := match group with
    | some g => { s1 with groupIds := kset s1.groupIds g (true, ((kget s1.groupIds g).getD (false, 0)).2) }
    | none => s1
  s2.modSheaf c.k (fun sh => { sh with copies := sh.copies + 1 })

/-- The copy has passed its checks: it stalls at a busy identifier or a full counter, completes at issue when it moves
nothing, or begins (R200, R204, R206, R246). -/
def State.launchCopy (s s1 : State) (c : Ctx) (empty : Bool) (chunks : List Chunk) (srcs : List (Addr × Nat))
    (red : Option (RedOp × Nat)) (group : Option Nat) : State :=
  if group.any (fun g => ((kget s.groupIds g).getD (false, 0)).1) then s.stall c 20
  else if empty then s1.advance c
  else if c.sh.copies ≥ 63 then s.stall c 7
  else (s1.beginCopy c chunks srcs red group).advance c

/-- Rows 2 to 4 of R201: the data ranges in the order in which they meet a loss, and the arrival words, which are no part of
row 4. -/
def State.checkRanges (s : State) (c : Ctx) (ranges arrs : List CopyRange) : Option CopyStop :=
  match checkSegs c (ranges ++ arrs) with
  | some x => some x
  | none => match s.checkPlaces c (ranges ++ arrs) with
    | some x => some x
    | none => s.checkLosses c ranges

/-- The ranges in which the rows of a copy are checked (R201): in the granary the span of all of them, which lies in one
allocation (log 15); elsewhere each row. -/
def Desc.spans (_ : Desc) (seg : Nat) (f : Int × Int × Nat → Int) (rows : List (Int × Int × Nat)) : List CopyRange :=
  if seg == 1 || seg == 2 then
    let a := rows.headD (0, 0, 0)
    let b := rows.getLastD (0, 0, 0)
    let lo := min (f a) (f b)
    [⟨seg, lo, (max (f a) (f b) + a.2.2 - lo).toNat, none, false, 2⟩]
  else rows.map (fun r => ⟨seg, f r, r.2.2, none, false, 2⟩)

/-- Row addresses under the segments. -/
def Ctx.rowAddrs (c : Ctx) (sseg dseg : Nat) (rows : List (Int × Int × Nat)) : List (Addr × Addr × Nat) :=
  let b : Nat → Addr := fun g => (lget ⟨0, 0, false⟩ c.sh.segs g).base
  rows.map (fun r => (b sseg + BitVec.ofInt 80 r.1, b dseg + BitVec.ofInt 80 r.2.1, r.2.2))

/-- A plain copy with an arrival word at an offset of a segment, or none (R199 to R201). -/
def copyCommon (s s1 : State) (c : Ctx) (d : Desc) (two : Bool) (arr : Option (DWord × Nat)) : State :=
  let badField := d.r5.extractLsb' 6 26 != 0 ||
    (if two then
      let len := (d.r4.extractLsb' 0 16).toNat
      let n := (d.r4.extractLsb' 16 16).toNat
      len == 0 || n == 0 || 16777215 < len * n
     else d.r4.extractLsb' 24 8 != 0)
  if badField then s.raise c { code := 0x02, opnd := 2 }
  else
    let rows := d.rows two
    let empty := rows.all (fun r => r.2.2 == 0)
    let span (seg : Nat) (f : Int × Int × Nat → Int) : List CopyRange := if empty then [] else d.spans seg f rows
    let arrs := match arr with | some (o, seg) => [(⟨seg, (o.toNat : Int), 8, none, false, 2⟩ : CopyRange)] | none => []
    match s.checkRanges c (span d.dseg (fun r => r.2.1) ++ span d.sseg (fun r => r.1)) arrs with
    | some x => s.stopAt c x
    | none =>
      match arrs.findSome? (s.checkArrival c) with
      | some x => s.stopAt c x
      | none =>
        let addrs := c.rowAddrs d.sseg d.dseg rows
        let arrEa := arrs.head?.bind c.rangeAddr
        let into := (span d.dseg (fun r => r.2.1)).head?.bind (s.gripOf c)
        let from_ := (span d.sseg (fun r => r.1)).head?.bind (s.gripOf c)
        let chunks := addrs.flatMap (fun r => rowChunks r.1 r.2.1 arrEa from_ into r.2.2 0 r.2.2)
        s.launchCopy s1 c empty chunks (addrs.map (fun r => (r.1, r.2.2))) none none

/-- `copy` and `copy2d` with an arrival word in source B (R199, R246). -/
def copyArr (s : State) (desc arr : GSrc) (seg : Fin 8) (two : Bool) : Host.Outcome State Fault Refusal :=
  issue s (fun c => groupStep s c [⟨3, arr, 2⟩] none (fun vs s1 =>
    let v := vs.headD 0
    copyCommon s (s1.noteDesc c desc (if two then 8 else 6)) c (Desc.of (readDesc s c desc (if two then 8 else 6))) two
      (if v = 0xFFFFFFFFFFFFFFFF#64 then none else some (v, seg.val))))

/-- `copy` and `copy2d` without one. -/
def copyNone (s : State) (desc : GSrc) (two : Bool) : Host.Outcome State Fault Refusal :=
  issue s (fun c => copyCommon s (s.noteDesc c desc (if two then 8 else 6)) c (Desc.of (readDesc s c desc (if two then 8 else 6))) two none)

/-- `copy` (R246). -/
def execCopy (desc arr : GSrc) (seg : Fin 8) (s : State) : Host.Outcome State Fault Refusal := copyArr s desc arr seg false
/-- `copy` without an arrival word (R246). -/
def execCopyNa (desc : GSrc) (s : State) : Host.Outcome State Fault Refusal := copyNone s desc false
/-- `copy2d` (R246). -/
def execCopy2d (desc arr : GSrc) (seg : Fin 8) (s : State) : Host.Outcome State Fault Refusal := copyArr s desc arr seg true
/-- `copy2d` without an arrival word (R246). -/
def execCopy2dNa (desc : GSrc) (s : State) : Host.Outcome State Fault Refusal := copyNone s desc true

/-- Whether a group identifier lies in the partition's share (R206). -/
def State.ownsGroup (s : State) (c : Ctx) (g : Nat) : Bool :=
  let p := s.part c.wg.part.val
  p.gBase ≤ g && g < p.gBase + p.gCount

/-- `mcast` (R203, R204). `ELEM`, which the table gives to `cred` only, must be 0 here (log 32). -/
def execMcast (desc m : GSrc) (s : State) : Host.Outcome State Fault Refusal :=
  issue s (fun c => groupStep s c [⟨3, m, 1⟩] none (fun vs s1 =>
    let d := Desc.of (readDesc s c desc 6)
    let w := (vs.headD 0).lo
    let mask := (w.extractLsb' 0 16).toNat
    let grp := (w.extractLsb' 16 12).toNat
    let members := (List.range 16).filter (fun i => mask.testBit i)
    if d.r4.extractLsb' 24 8 != 0 || d.dseg != 2 || d.r5.extractLsb' 6 6 != 0 then s.raise c { code := 0x02, opnd := 2 }
    else if w.extractLsb' 28 4 != 0 then s.raise c { code := 0x02, opnd := 3 }
    else if mask = 0 then (s1.noteDesc c desc 6).advance c
    else if members.any (fun i => c.wg.m ≤ i) || !s.ownsGroup c grp then s.raise c { code := 0x16, opnd := 3 }
    else
      let len := (d.r4.extractLsb' 0 24).toNat
      let win : Nat → Int := fun i => (i * Config.windowBytes : Nat)
      let src : List CopyRange := if len = 0 then [] else [⟨d.sseg, (d.src.toNat : Int), len, none, false, 2⟩]
      let dstOf : Nat → CopyRange := fun i => ⟨2, win i + d.dst.toNat, len, some i, false, 2⟩
      let arrOf : Nat → Nat → CopyRange := fun i a => ⟨2, win i + (a : Int), 8, some i, true, 2⟩
      let arrs : List CopyRange := match d.arrv with
        | some a => members.map (fun i => arrOf i a)
        | none => []
      match s.checkRanges c ((if len = 0 then [] else members.map dstOf) ++ src) arrs with
      | some x => s.stopAt c x
      | none =>
        match arrs.findSome? (s.checkArrival c) with
        | some x => s.stopAt c x
        | none =>
          let from_ := src.head?.bind (s.gripOf c)
          let chunks := members.flatMap (fun i =>
            (c.rowAddrs d.sseg 2 [((d.src.toNat : Int), win i + d.dst.toNat, len)]).flatMap (fun r =>
              rowChunks r.1 r.2.1 (d.arrv.bind (fun a => c.rangeAddr (arrOf i a))) from_ (s.gripOf c (dstOf i)) r.2.2 0 r.2.2))
          let srcs := (c.rowAddrs d.sseg 2 [((d.src.toNat : Int), 0, len)]).map (fun r => (r.1, r.2.2))
          s.launchCopy (s1.noteDesc c desc 6) c (len == 0) chunks srcs none (some grp)))

/-- `cred` (R205, R206). The spec does not say whether a copy of no bytes is checked for alignment: here it is (log 32). -/
def execCred (op : RedOp) (desc id : GSrc) (s : State) : Host.Outcome State Fault Refusal :=
  issue s (fun c => groupStep s c [⟨3, id, 1⟩] none (fun vs s1 =>
    let d := Desc.of (readDesc s c desc 6)
    let w := (vs.headD 0).lo
    let grp := w.toNat
    if d.r4.extractLsb' 24 8 != 0 || d.elem == 3 || d.r5.extractLsb' 8 4 != 0 || (d.elem == 2 && op != .add) then
      s.raise c { code := 0x02, opnd := 2 }
    else if w.extractLsb' 12 20 != 0 then s.raise c { code := 0x02, opnd := 3 }
    else if !s.ownsGroup c grp then s.raise c { code := 0x16, opnd := 3 }
    else
      let len := (d.r4.extractLsb' 0 24).toNat
      let es := 4 * 2 ^ d.elem
      let src : CopyRange := ⟨d.sseg, (d.src.toNat : Int), len, none, false, 2⟩
      let dst : CopyRange := ⟨d.dseg, (d.dst.toNat : Int), len, none, false, 2⟩
      let arrs : List CopyRange := match d.arrv with | some a => [⟨d.dseg, (a : Int), 8, none, false, 2⟩] | none => []
      match s.checkRanges c (if len = 0 then [] else [dst, src]) arrs with
      | some x => s.stopAt c x
      | none =>
        if len % es != 0 || d.src.toNat % es != 0 || d.dst.toNat % es != 0 then
          s.raise c { code := 0x07, opnd := 2, addr := if len = 0 then 0 else (c.rangeAddr src).getD 0 }
        else match arrs.findSome? (s.checkArrival c) with
          | some x => s.stopAt c x
          | none =>
            let addrs := c.rowAddrs d.sseg d.dseg [((d.src.toNat : Int), (d.dst.toNat : Int), len)]
            let arrEa := arrs.head?.bind c.rangeAddr
            let chunks := addrs.flatMap (fun r => rowChunks r.1 r.2.1 arrEa (s.gripOf c src) (s.gripOf c dst) r.2.2 0 r.2.2)
            s.launchCopy (s1.noteDesc c desc 6) c (len == 0) chunks (addrs.map (fun r => (r.1, r.2.2))) (some (op, es)) (some grp)))

/-! ### Landing (R200, R202, R205, R207, R208) -/

/-- The engine's way to memory: its core, its sheaf's allocations and its gang's. -/
def CopyOp.via (x : CopyOp) : Via := ⟨x.site, x.asid, some x.wg, some x.k, 2, false⟩

/-- One element combined into another (R205). -/
def credElem (op : RedOp) (es : Nat) (old new : List Byte) : List Byte :=
  if es = 16 then
    let a := leNat old
    let b := leNat new
    leBytes 16 (((a / 65536 + b / 65536) % 2 ^ 112) * 65536 + (a % 65536 ||| b % 65536))
  else leBytes es (redStep op ⟨es == 8, false⟩ (BitVec.ofNat 64 (leNat old)) (BitVec.ofNat 64 (leNat new))).toNat

/-- Elements combined one by one. -/
def credBytes (op : RedOp) (es : Nat) : Nat → List Byte → List Byte → List Byte
  | 0, _, _ => []
  | n + 1, old, new => credElem op es (old.take es) (new.take es) ++ credBytes op es n (old.drop es) (new.drop es)

/-- The update of an arrival word by n bytes (R208). -/
def countBytes (w : DWord) (n : Nat) : DWord :=
  let t := (w.extractLsb' 0 24).toNat
  let c := (w.extractLsb' 24 24).toNat + n
  let g := (w.extractLsb' 48 16).toNat
  let (c', g') := if t = 0 then (c % 2 ^ 24, g) else (c % t, (g + c / t) % 2 ^ 16)
  BitVec.ofNat 64 (t + c' * 2 ^ 24 + g' * 2 ^ 48)

/-- A copy with one chunk changed or, when done, without it. -/
def State.putChunk (s : State) (x : CopyOp) (i : Nat) (c : Option Chunk) : State :=
  let chunks := match c with | some y => lset x.chunks i y | none => x.chunks.eraseIdx i
  let x' := { x with chunks := chunks }
  if chunks.isEmpty then s.copyDone x' else { s with copies := s.copies.map (fun y => if y.id == x.id then x' else y) }

/-- A copy waits for a page (R202). -/
def State.stallCopy (s : State) (x : CopyOp) (va : Addr) (write : Bool) : State :=
  { s with copies := s.copies.map (fun y => if y.id == x.id then { y with stalled := some (va, write) } else y) }

/-- The engine fault of a copy (R202, R269). -/
def State.copyFault (s : State) (x : CopyOp) (code : Word) : State :=
  (s.stopCopy x.id).engineFaultOn x.k x.pc x.word x.region code x.byHand

/-- Whether a copy may read and write: every access its sheaf issued before it has performed, as a release orders them; one to
a UN page does so where a releasing fence stands between (R161, R200). -/
def State.copyMay (s : State) (x : CopyOp) : Bool :=
  s.accs.all (fun a => a.k != x.k || x.after ≤ a.id || a.kind.isFence || a.performedAt .dv ||
    (a.pk == .un && !s.accs.any (fun f => f.kind.isFence && f.k == x.k && f.ord.releases && a.id < f.id && f.id < x.after)))

/-- The places of a copy's source ranges, where they can be reached. -/
def State.sourcePlaces (s : State) (x : CopyOp) : List (Place × Nat) :=
  x.srcs.flatMap (fun r => (s.piecesOf x.via r.1 r.2).filterMap (fun p =>
    match s.reach x.via (r.1 + BitVec.ofNat 80 p.1) p.2 .rd with
    | .ok pl _ => some (pl, p.2)
    | _ => none))

/-- Bytes for the pieces of a destination, undefined where they are source bytes of the same copy too, whatever addresses name
them (R200). -/
def overlapped (free : Nat) (srcs : List (Place × Nat)) : Nat → List (Place × Nat) → List Byte → List Byte
  | _, [], _ => []
  | i, (pl, n) :: ds, bs =>
    mapIdxFrom (fun j b => if srcs.any (fun q => q.1.meets q.2 (pl.plus j) 1) then Config.overlapByte free (i + j) else b) 0 (bs.take n) ++
      overlapped free srcs (i + n) ds (bs.drop n)

/-- A chunk that an engine fault ends goes before the fault (R202). -/
def State.chunkFault (s : State) (x : CopyOp) (i : Nat) (code : Word) : State :=
  let s1 : State := { s with copies := s.copies.map (fun y => if y.id == x.id then { y with chunks := y.chunks.eraseIdx i } else y) }
  s1.copyFault x code

/-- A chunk lands, or a landed chunk is counted (R200, R202, R208). A source that was lost after the issue is an engine fault, and
bytes for a destination that was lost or freed are discarded and still counted (R152, R188). -/
def execCopyChunkLand (id chunk : Nat) (s : State) : Host.Outcome State Fault Refusal :=
  .next (match s.copies.find? (fun x => x.id == id) with
    | none => s
    | some x =>
      match x.chunks[chunk]? with
      | none => s
      | some c =>
        if x.stalled.isSome || !s.copyMay x then s
        else if x.discard then s.putChunk x chunk none
        else if c.landed then
          match c.arrive with
          | none => s.putChunk x chunk none
          | some ea =>
            match s.reachRange x.via ea 8 .wr with
            | .ok ps =>
              let w := leDWord (s.sliceBytes ps)
              (s.writePieces ps (leBytes 8 (countBytes w c.len).toNat)).putChunk x chunk none
            | .error (.replay va, _) => s.stallCopy x va true
            | .error (.stall _, _) => s
            | .error (.fault _ _, _) => s.chunkFault x chunk (Config.engineCode s.free)
            | .error _ => s.putChunk x chunk none
        else if c.lost then s.copyFault x (Config.engineCode s.free)
        else
          match s.reachRange x.via c.src c.len .rd with
          | .error (.replay va, _) => s.stallCopy x va false
          | .error (.stall _, _) => s
          | .error _ => s.copyFault x (Config.engineCode s.free)
          | .ok ss =>
            let bytes := s.sliceBytes ss
            let landed := if c.arrive.isSome then some { c with landed := true } else none
            if c.void then s.putChunk x chunk landed
            else match s.reachRange x.via c.dst c.len .wr with
            | .error (.replay va, _) => s.stallCopy x va true
            | .error (.stall _, _) => s
            | .error (.fault _ _, ea) =>
              (match rangeOf ea with
               | .aperture _ => s.putChunk x chunk landed
               | _ => s.copyFault x (Config.engineCode s.free))
            | .error _ => s.putChunk x chunk landed
            | .ok ds =>
              let old := s.sliceBytes ds
              let new := match x.red with
                | some (op, es) => credBytes op es (c.len / es) old bytes
                | none => bytes
              (((s.writePieces ds (overlapped s.free (s.sourcePlaces x) 0 ds new)).cacheLocal x.via c.src).cacheLocal x.via c.dst).putChunk x chunk landed)

end Sys2Proof.Machine
end

