-- ==== Sys2Proof/Decode.lean ====
section
/-! DEFINITION. The decoder, total on any word and rejecting by name as 02 R36 orders its checks, and after it the
encoder, written from the same tables (02 R24 to R34, 21 R307). -/

namespace Sys2Proof

/-- Why a word is no instruction: checks 1 to 3 of R36 (0x01), or check 4 (0x02) with the field it found, numbered as
OPND of R271: none 0, destination 1, A 2, B 3, C 4, data 5. -/
inductive Reject where
  | illegal
  | operand (field : Nat)
  deriving DecidableEq, Repr

/-- A field of a word. -/
abbrev bits (w : Word) (lo n : Nat) : BitVec n := w.extractLsb' lo n

/-! ### Operand numbers (R26, R27) -/

/-- The register of a lane operand number (R26). -/
def LReg.ofNum (f : BitVec 6) : LReg :=
  if h : f.toNat < 16 then .q ⟨f.toNat, h⟩
  else if h : f.toNat < 48 then .n ⟨f.toNat - 16, by omega⟩
  else if h : f.toNat < 56 then .g ⟨f.toNat - 48, by omega⟩
  else .h ⟨f.toNat - 56, by omega⟩

/-- The operand number of a lane register (R26). -/
def LReg.num : LReg → BitVec 6
  | .q k => BitVec.ofNat 6 k.val
  | .n k => BitVec.ofNat 6 (16 + k.val)
  | .g k => BitVec.ofNat 6 (48 + k.val)
  | .h k => BitVec.ofNat 6 (56 + k.val)

/-- The destination of a lane field, none for a reserved number (R26). -/
def LDst.ofNum (f : BitVec 6) : Option LDst :=
  match LReg.ofNum f with
  | .q k => if k.val = 0 then some .push else none
  | .n k => some (.n k)
  | .g _ => none
  | .h k => some (.h k)

/-- The operand number of a lane destination (R26). -/
def LDst.num : LDst → BitVec 6
  | .push => 0
  | .n k => BitVec.ofNat 6 (16 + k.val)
  | .h k => BitVec.ofNat 6 (56 + k.val)

/-- Specials by operand order (R27). -/
def Special.ofCode : Nat → Special
  | 0 => .sheaf | 1 => .wg | 2 => .gang | 3 => .stage
  | 4 => .width | 5 => .wgsize | 6 => .cycle | _ => .part

/-- The place of a special in operand order (R27). -/
def Special.num : Special → Nat
  | .sheaf => 0 | .wg => 1 | .gang => 2 | .stage => 3
  | .width => 4 | .wgsize => 5 | .cycle => 6 | .part => 7

/-- The source of a group field (R27). -/
def GSrc.ofNum (f : BitVec 6) : GSrc :=
  if h : f.toNat < 32 then .g ⟨f.toNat, h⟩
  else if h : f.toNat < 48 then .b ⟨f.toNat - 32, by omega⟩
  else if f.toNat < 56 then .sp (Special.ofCode (f.toNat - 48))
  else .h ⟨f.toNat - 56, by omega⟩

/-- The operand number of a group source (R27). -/
def GSrc.num : GSrc → BitVec 6
  | .g k => BitVec.ofNat 6 k.val
  | .b k => BitVec.ofNat 6 (32 + k.val)
  | .sp s => BitVec.ofNat 6 (48 + s.num)
  | .h k => BitVec.ofNat 6 (56 + k.val)

/-- The destination of a group field, none for a reserved number (R27). -/
def GDst.ofNum (f : BitVec 6) : Option GDst :=
  match GSrc.ofNum f with
  | .g k => some (.g k)
  | .b k => some (.b k)
  | .sp _ => none
  | .h k => some (.h k)

/-- The operand number of a group destination (R27). -/
def GDst.num : GDst → BitVec 6
  | .g k => BitVec.ofNat 6 k.val
  | .b k => BitVec.ofNat 6 (32 + k.val)
  | .h k => BitVec.ofNat 6 (56 + k.val)

/-! ### Modifier codes (R28, R30 to R32) -/

/-- Rounding (R28). -/
def Rnd.ofBits (c : BitVec 2) : Rnd :=
  match c.toNat with | 0 => .rne | 1 => .rtz | 2 => .rdn | _ => .rup
/-- Rounding (R28). -/
def Rnd.bits : Rnd → BitVec 2 | .rne => 0 | .rtz => 1 | .rdn => 2 | .rup => 3
/-- Float types (R28). -/
def FTy.ofBits (c : BitVec 2) : Option FTy :=
  match c.toNat with | 0 => some .f32 | 1 => some .f16 | 2 => some .bf16 | _ => none
/-- Float types (R28). -/
def FTy.bits : FTy → BitVec 2 | .f32 => 0 | .f16 => 1 | .bf16 => 2
/-- Integer relations (R65). -/
def Rel.ofBits (c : BitVec 3) : Option Rel :=
  match c.toNat with
  | 0 => some .eq | 1 => some .ne | 2 => some .lt | 3 => some .le | 4 => some .gt | 5 => some .ge | _ => none
/-- Integer relations (R65). -/
def Rel.bits : Rel → BitVec 3 | .eq => 0 | .ne => 1 | .lt => 2 | .le => 3 | .gt => 4 | .ge => 5
/-- Float relations (R82). -/
def FRel.ofBits (c : BitVec 3) : FRel :=
  match c.toNat with
  | 0 => .eq | 1 => .ne | 2 => .lt | 3 => .le | 4 => .gt | 5 => .ge | 6 => .uo | _ => .or
/-- Float relations (R82). -/
def FRel.bits : FRel → BitVec 3
  | .eq => 0 | .ne => 1 | .lt => 2 | .le => 3 | .gt => 4 | .ge => 5 | .uo => 6 | .or => 7
/-- Bit operations (R64). -/
def BitOp.ofBits (c : BitVec 3) : Option BitOp :=
  match c.toNat with
  | 0 => some .popc | 1 => some .clz | 2 => some .ctz | 3 => some .brev | 4 => some .not | _ => none
/-- Bit operations (R64). -/
def BitOp.bits : BitOp → BitVec 3 | .popc => 0 | .clz => 1 | .ctz => 2 | .brev => 3 | .not => 4
/-- Packed widths (R87). -/
def PackW.ofBits (c : BitVec 2) : Option PackW :=
  match c.toNat with | 0 => some .b4 | 1 => some .b8 | 2 => some .b16 | _ => none
/-- Packed widths (R87). -/
def PackW.bits : PackW → BitVec 2 | .b4 => 0 | .b8 => 1 | .b16 => 2
/-- Element formats (R51, R89). -/
def ElemTy.ofCode : Nat → Option ElemTy
  | 0 => some .bf16 | 1 => some .f16 | 2 => some .e4m3 | 3 => some .e5m2 | 4 => some .e2m1 | 5 => some .i8
  | 6 => some .i4 | _ => none
/-- Element formats (R51, R89). -/
def ElemTy.bits : ElemTy → BitVec 3
  | .bf16 => 0 | .f16 => 1 | .e4m3 => 2 | .e5m2 => 3 | .e2m1 => 4 | .i8 => 5 | .i4 => 6
/-- Conversion formats (R32). -/
def CvtTy.ofBits (c : BitVec 3) : CvtTy :=
  match c.toNat with
  | 0 => .f32 | 1 => .f16 | 2 => .bf16 | 3 => .e4m3 | 4 => .e5m2 | 5 => .e2m1 | 6 => .i32 | _ => .n32
/-- Conversion formats (R32). -/
def CvtTy.bits : CvtTy → BitVec 3
  | .f32 => 0 | .f16 => 1 | .bf16 => 2 | .e4m3 => 3 | .e5m2 => 4 | .e2m1 => 5 | .i32 => 6 | .n32 => 7
/-- Lane conditions (R120). -/
def LCond.ofBits (c : BitVec 2) : LCond :=
  match c.toNat with | 0 => .nz | 1 => .z | 2 => .eq | _ => .ne
/-- Lane conditions (R120). -/
def LCond.bits : LCond → BitVec 2 | .nz => 0 | .z => 1 | .eq => 2 | .ne => 3
/-- Pull modes (R122). -/
def PullMode.ofBits (c : BitVec 2) : PullMode :=
  match c.toNat with | 0 => .at | 1 => .step | 2 => .rot | _ => .mir
/-- Pull modes (R122). -/
def PullMode.bits : PullMode → BitVec 2 | .at => 0 | .step => 1 | .rot => 2 | .mir => 3
/-- Reductions (R123, R205). -/
def RedOp.ofBits (c : BitVec 3) : Option RedOp :=
  match c.toNat with
  | 0 => some .add | 1 => some .min | 2 => some .max | 3 => some .and | 4 => some .or | 5 => some .xor | _ => none
/-- Reductions (R123, R205). -/
def RedOp.bits : RedOp → BitVec 3 | .add => 0 | .min => 1 | .max => 2 | .and => 3 | .or => 4 | .xor => 5
/-- Atomic operations (R31). -/
def AtomOp.ofBits (c : BitVec 3) : AtomOp :=
  match c.toNat with
  | 0 => .add | 1 => .and | 2 => .or | 3 => .xor | 4 => .min | 5 => .max | 6 => .minn | _ => .maxn
/-- Atomic operations (R31). -/
def AtomOp.bits : AtomOp → BitVec 3
  | .add => 0 | .and => 1 | .or => 2 | .xor => 3 | .min => 4 | .max => 5 | .minn => 6 | .maxn => 7
/-- Orderings (R28). -/
def Ord.ofBits (c : BitVec 2) : Ord :=
  match c.toNat with | 0 => .rlx | 1 => .acq | 2 => .rel | _ => .ar
/-- Orderings (R28). -/
def Ord.bits : Ord → BitVec 2 | .rlx => 0 | .acq => 1 | .rel => 2 | .ar => 3
/-- Scopes; 5 to 7 are reserved (R28). -/
def Scope.ofBits (c : BitVec 3) : Option Scope :=
  match c.toNat with
  | 0 => some .sh | 1 => some .wg | 2 => some .gg | 3 => some .dv | 4 => some .pd | _ => none
/-- Scopes (R28). -/
def Scope.bits : Scope → BitVec 3 | .sh => 0 | .wg => 1 | .gg => 2 | .dv => 3 | .pd => 4

/-! ### Field readers. Each refuses as R36 says: `need` for checks 1 to 3, the operand readers for check 4. -/

/-- Checks 1 to 3 of R36. -/
def need (c : Bool) : Except Reject Unit := if c then .ok () else .error .illegal

/-- An assigned modifier value (check 2 of R36). -/
def assigned {α : Type} : Option α → Except Reject α
  | some x => .ok x
  | none => .error .illegal

/-- Check 4 of R36 on field f. -/
def operand (f : Nat) (c : Bool) : Except Reject Unit := if c then .ok () else .error (.operand f)

/-- A lane source, field f of OPND, under the predicate that its kind must meet. -/
def readSrc (f : Nat) (num : BitVec 6) (last : Bool) (ok : LSrc → Bool) : Except Reject LSrc :=
  if ok ⟨LReg.ofNum num, last⟩ then .ok ⟨LReg.ofNum num, last⟩ else .error (.operand f)

/-- A lane register field without a last-use bit. -/
def readReg (f : Nat) (num : BitVec 6) (ok : LReg → Bool) : Except Reject LReg :=
  if ok (LReg.ofNum num) then .ok (LReg.ofNum num) else .error (.operand f)

/-- A lane destination field. -/
def readDst (num : BitVec 6) (ok : LDst → Bool) : Except Reject LDst :=
  match LDst.ofNum num with
  | some d => if ok d then .ok d else .error (.operand 1)
  | none => .error (.operand 1)

/-- A group source field. -/
def readG (f : Nat) (num : BitVec 6) (ok : GSrc → Bool) : Except Reject GSrc :=
  if ok (GSrc.ofNum num) then .ok (GSrc.ofNum num) else .error (.operand f)

/-- A group destination field. -/
def readGd (num : BitVec 6) (ok : GDst → Bool) : Except Reject GDst :=
  match GDst.ofNum num with
  | some d => if ok d then .ok d else .error (.operand 1)
  | none => .error (.operand 1)

/-- A port field (56 to 63), field f of OPND. -/
def readPort (f : Nat) (num : BitVec 6) : Except Reject (Fin 8) :=
  match GSrc.ofNum num with
  | .h k => .ok k
  | _ => .error (.operand f)

/-- The fields of lane format R (R24). -/
structure FR where
  d : BitVec 6
  a : BitVec 6
  la : Bool
  b : BitVec 6
  lb : Bool
  sub : BitVec 4

/-- Format R (R24). -/
def FR.of (w : Word) : FR :=
  ⟨bits w 18 6, bits w 12 6, w.getLsbD 11, bits w 5 6, w.getLsbD 4, bits w 0 4⟩

/-- The fields of format T (R24). -/
structure FT where
  a : BitVec 6
  la : Bool
  b : BitVec 6
  lb : Bool
  c : BitVec 6
  lc : Bool
  m : BitVec 3

/-- Format T (R24). -/
def FT.of (w : Word) : FT :=
  ⟨bits w 18 6, w.getLsbD 17, bits w 11 6, w.getLsbD 10, bits w 4 6, w.getLsbD 3, bits w 0 3⟩

/-- The memory operand of format M (R24). -/
def readM (w : Word) : Except Reject MemM := do
  let base ← readSrc 2 (bits w 12 6) (w.getLsbD 11) LSrc.baseOk
  .ok ⟨base, (bits w 8 3).toFin, bits w 0 8⟩

/-- The memory operand of format A, whose scope and ordering have been read (R24). -/
def readA (w : Word) (s : Scope) (o : Ord) : Except Reject MemA := do
  let base ← readSrc 2 (bits w 12 6) (w.getLsbD 11) LSrc.baseOk
  .ok ⟨base, (bits w 8 3).toFin, s, o⟩

/-- Thresher and tile set of format X (R24). -/
def readX (w : Word) : TileRef := ⟨(bits w 22 2).toFin, (bits w 20 2).toFin⟩

/-- Two-source integer form of lane format R: width of the destination, of A and of B. -/
def rForm (f : FR) (wd wa wb : Bool) (k : LDst → LSrc → LSrc → Instr) : Except Reject Instr := do
  let d ← readDst f.d (LDst.ok wd)
  let a ← readSrc 2 f.a f.la (LSrc.ok wa)
  let b ← readSrc 3 f.b f.lb (LSrc.ok wb)
  .ok (k d a b)

/-- One-source form of lane format R. -/
def r1Form (f : FR) (wd wa : Bool) (k : LDst → LSrc → Instr) : Except Reject Instr := do
  let d ← readDst f.d (LDst.ok wd)
  let a ← readSrc 2 f.a f.la (LSrc.ok wa)
  .ok (k d a)

/-- Immediate form of lane format I (R24). -/
def iForm (w : Word) (w64 : Bool) (k : LDst → LSrc → BitVec 11 → Instr) : Except Reject Instr := do
  let d ← readDst (bits w 18 6) (LDst.ok w64)
  let a ← readSrc 2 (bits w 12 6) (w.getLsbD 11) (LSrc.ok w64)
  .ok (k d a (bits w 0 11))

/-- Three-source form (R24). -/
def tForm (f : FT) (w64 : Bool) (k : LSrc → LSrc → LSrc → Instr) : Except Reject Instr := do
  let a ← readSrc 2 f.a f.la (LSrc.ok w64)
  let b ← readSrc 3 f.b f.lb (LSrc.ok w64)
  let c ← readSrc 4 f.c f.lc (LSrc.ok w64)
  .ok (k a b c)

/-- Shift by an immediate, lane (R62): the width bit is immediate [6]. -/
def shiftI (w : Word) (k : Bool → LDst → LSrc → BitVec 6 → Instr) : Except Reject Instr := do
  need (bits w 7 4 == 0)
  need (shiftOk (w.getLsbD 6) (bits w 0 6))
  let d ← readDst (bits w 18 6) (LDst.ok (w.getLsbD 6))
  let a ← readSrc 2 (bits w 12 6) (w.getLsbD 11) (LSrc.ok (w.getLsbD 6))
  .ok (k (w.getLsbD 6) d a (bits w 0 6))

/-- Plain load of n words (R69). -/
def ldForm (w : Word) (n : Nat) (k : LDst → MemM → Instr) : Except Reject Instr := do
  let d ← readDst (bits w 18 6) (LDst.loadOk n)
  let m ← readM w
  .ok (k d m)

/-- Plain store of n words (R70). R36 checks the fields in the order destination, A, B, C: the base is A, and the data
field, which stands where a destination would, is checked first. -/
def stForm (w : Word) (n : Nat) (k : LReg → MemM → Instr) : Except Reject Instr := do
  let v ← readReg 5 (bits w 18 6) (LReg.dataOk n true)
  let m ← readM w
  .ok (k v m)

/-- Atomic forms (R178, R179): data of n words, every ordering and scope. -/
def atomForm (w : Word) (n : Nat) (k : LReg → MemA → Instr) : Except Reject Instr := do
  let s ← assigned (Scope.ofBits (bits w 5 3))
  let v ← readReg 5 (bits w 18 6) (LReg.dataOk n false)
  let m ← readA w s (Ord.ofBits (bits w 3 2))
  .ok (k v m)

/-- Integer type bits of lane and group format R (R28). -/
def tyOf (sub : BitVec 4) : IntTy := ⟨sub.getLsbD 3, sub.getLsbD 2⟩

/-- Lane conditions with the width bit (R120). -/
def condForm (f : FR) (wd : Bool) (k : LCond → Bool → LDst → LSrc → Instr) : Except Reject Instr := do
  need (f.b == 0 && !f.lb && !f.sub.getLsbD 2)
  let c := LCond.ofBits (f.sub.extractLsb' 0 2)
  need (!f.sub.getLsbD 3 || c.wide)
  r1Form f wd (f.sub.getLsbD 3) (k c (f.sub.getLsbD 3))

/-- The lane set (R29, R30). -/
def decodeLane (w : Word) : Except Reject Instr :=
  let f := FR.of w
  let t := FT.of w
  match (bits w 24 7).toNat with
  | 0x01 => do need (!f.sub.getLsbD 0)
               let ty := tyOf f.sub
               rForm f ty.w64 ty.w64 ty.w64 (.addR ty (f.sub.getLsbD 1))
  | 0x02 => iForm w false .addI32
  | 0x03 => iForm w true .addI64
  | 0x04 => do need (!f.sub.getLsbD 0)
               let ty := tyOf f.sub
               rForm f ty.w64 ty.w64 ty.w64 (.subR ty (f.sub.getLsbD 1))
  | 0x05 => do need (!f.sub.getLsbD 0)
               let ty := tyOf f.sub
               rForm f ty.w64 ty.w64 ty.w64 (.mulR ty (f.sub.getLsbD 1))
  | 0x06 => do need (!f.sub.getLsbD 0 && !f.sub.getLsbD 1)
               let ty := tyOf f.sub
               rForm f ty.w64 ty.w64 ty.w64 (.mulhi ty)
  | 0x07 => let ty : IntTy := ⟨t.m.getLsbD 0, t.m.getLsbD 1⟩
            tForm t ty.w64 (.mad ty (t.m.getLsbD 2))
  | 0x08 => do need (!f.sub.getLsbD 0)
               let ty := tyOf f.sub
               rForm f ty.w64 ty.w64 ty.w64 (.divInt ty (f.sub.getLsbD 1))
  | 0x09 => do need (!f.sub.getLsbD 0 && !f.sub.getLsbD 1)
               let ty := tyOf f.sub
               rForm f ty.w64 ty.w64 ty.w64 (.rem ty)
  | 0x0A => do need (!f.sub.getLsbD 1)
               let ty := tyOf f.sub
               rForm f ty.w64 ty.w64 ty.w64 (if f.sub.getLsbD 0 then .maxInt ty else .minInt ty)
  | 0x0B => do let r ← assigned (Rel.ofBits (f.sub.extractLsb' 0 3))
               rForm f false (f.sub.getLsbD 3) (f.sub.getLsbD 3) (.cmpSigned r (f.sub.getLsbD 3))
  | 0x1B => do let r ← assigned (Rel.ofBits (f.sub.extractLsb' 0 3))
               rForm f false (f.sub.getLsbD 3) (f.sub.getLsbD 3) (.cmpUnsigned r (f.sub.getLsbD 3))
  | 0x0C => do need (f.sub.extractLsb' 0 3 == 0)
               rForm f (f.sub.getLsbD 3) (f.sub.getLsbD 3) (f.sub.getLsbD 3) (.andR (f.sub.getLsbD 3))
  | 0x0D => do need (f.sub.extractLsb' 0 3 == 0)
               rForm f (f.sub.getLsbD 3) (f.sub.getLsbD 3) (f.sub.getLsbD 3) (.orR (f.sub.getLsbD 3))
  | 0x0E => do need (f.sub.extractLsb' 0 3 == 0)
               rForm f (f.sub.getLsbD 3) (f.sub.getLsbD 3) (f.sub.getLsbD 3) (.xorR (f.sub.getLsbD 3))
  | 0x0F => iForm w false .andI
  | 0x10 => iForm w false .orI
  | 0x11 => iForm w false .xorI
  | 0x12 => do need (f.sub.extractLsb' 0 3 == 0)
               rForm f (f.sub.getLsbD 3) (f.sub.getLsbD 3) false (.shlR (f.sub.getLsbD 3))
  | 0x13 => do need (f.sub.extractLsb' 0 3 == 0)
               rForm f (f.sub.getLsbD 3) (f.sub.getLsbD 3) false (.shrR (f.sub.getLsbD 3))
  | 0x14 => do need (f.sub.extractLsb' 0 3 == 0)
               rForm f (f.sub.getLsbD 3) (f.sub.getLsbD 3) false (.sarR (f.sub.getLsbD 3))
  | 0x15 => shiftI w .shlI
  | 0x16 => shiftI w .shrI
  | 0x17 => shiftI w .sarI
  | 0x18 => do need (!t.m.getLsbD 1 && !t.m.getLsbD 2)
               tForm t false (.bfx (t.m.getLsbD 0))
  | 0x19 => do need (t.m == 0)
               tForm t false .bfi
  | 0x1A => do need (f.b == 0 && !f.lb)
               let op ← assigned (BitOp.ofBits (f.sub.extractLsb' 0 3))
               r1Form f (f.sub.getLsbD 3 && op.wide) (f.sub.getLsbD 3) (.bit op (f.sub.getLsbD 3))
  | 0x1C => do need (t.m == 0)
               tForm t false .sel
  | 0x1D => match (bits w 16 2).toNat with
            | 0 => do let d ← readDst f.d (LDst.ok false)
                      .ok (.movl d (bits w 0 16))
            | 1 => do let d ← readDst f.d (LDst.ok false)
                      .ok (.movs d (bits w 0 16))
            | 2 => do let d ← readDst f.d LDst.named
                      .ok (.movt d (bits w 0 16))
            | _ => .error .illegal
  | 0x1E => do need (f.b == 0 && !f.lb && f.sub == 0)
               r1Form f false false .nget
  | 0x1F => do need (f.d == 0 && f.sub == 0)
               let i ← readSrc 2 f.a f.la (LSrc.ok false)
               let v ← readSrc 3 f.b f.lb (LSrc.ok false)
               .ok (.nset i v)
  | 0x20 => do let ty ← assigned (FTy.ofBits (f.sub.extractLsb' 2 2))
               rForm f false false false (.fadd ty (Rnd.ofBits (f.sub.extractLsb' 0 2)))
  | 0x21 => do let ty ← assigned (FTy.ofBits (f.sub.extractLsb' 2 2))
               rForm f false false false (.fsub ty (Rnd.ofBits (f.sub.extractLsb' 0 2)))
  | 0x22 => do let ty ← assigned (FTy.ofBits (f.sub.extractLsb' 2 2))
               rForm f false false false (.fmul ty (Rnd.ofBits (f.sub.extractLsb' 0 2)))
  | 0x23 => tForm t false (.fma (t.m.getLsbD 2) (Rnd.ofBits (t.m.extractLsb' 0 2)))
  | 0x24 => do need (!f.sub.getLsbD 1)
               let ty ← assigned (FTy.ofBits (f.sub.extractLsb' 2 2))
               rForm f false false false (if f.sub.getLsbD 0 then .fmax ty else .fmin ty)
  | 0x25 => do let ty ← assigned (FTy.ofBits (f.sub.extractLsb' 2 2))
               rForm f false false false (.fdiv ty (Rnd.ofBits (f.sub.extractLsb' 0 2)))
  | 0x26 => rForm f false false false (.fcmp (FRel.ofBits (f.sub.extractLsb' 0 3)) (f.sub.getLsbD 3))
  | 0x27 => do let ty ← assigned (FTy.ofBits (f.sub.extractLsb' 2 2))
               match (f.sub.extractLsb' 0 2).toNat with
               | 0 => r1Form f false false (fun d a => .abs ty d a (bits w 4 7))
               | 1 => r1Form f false false (fun d a => .neg ty d a (bits w 4 7))
               | 2 => rForm f false false false (.csgn ty)
               | _ => .error .illegal
  | 0x28 => do need (f.sub.extractLsb' 2 2 == 0)
               r1Form f false false (fun d a => .rcp (Rnd.ofBits (f.sub.extractLsb' 0 2)) d a (bits w 4 7))
  | 0x29 => do need (f.sub.extractLsb' 2 2 == 0)
               r1Form f false false (fun d a => .rsqrt (Rnd.ofBits (f.sub.extractLsb' 0 2)) d a (bits w 4 7))
  | 0x2A => do need (f.sub.extractLsb' 2 2 == 0)
               r1Form f false false (fun d a => .sqrt (Rnd.ofBits (f.sub.extractLsb' 0 2)) d a (bits w 4 7))
  | 0x2B => do need (f.sub.extractLsb' 2 2 == 0)
               r1Form f false false (fun d a => .exp2 (Rnd.ofBits (f.sub.extractLsb' 0 2)) d a (bits w 4 7))
  | 0x2C => do need (f.sub.extractLsb' 2 2 == 0)
               r1Form f false false (fun d a => .log2 (Rnd.ofBits (f.sub.extractLsb' 0 2)) d a (bits w 4 7))
  | 0x2D => do need (f.sub.extractLsb' 0 2 == 0 && f.b == 0 && !f.lb)
               let ty ← assigned (FTy.ofBits (f.sub.extractLsb' 2 2))
               r1Form f false false (.class ty)
  | 0x30 => do need (!f.sub.getLsbD 3 && !f.lb)
               let dt := CvtTy.ofBits (f.b.extractLsb' 3 3)
               let st := CvtTy.ofBits (f.b.extractLsb' 0 3)
               need (CvtTy.pairOk dt st)
               r1Form f false false (.cvt dt st (Rnd.ofBits (f.sub.extractLsb' 0 2)) (f.sub.getLsbD 2))
  | 0x31 => do need (f.sub.extractLsb' 2 2 == 0)
               let e ← assigned (PackW.ofBits (f.sub.extractLsb' 0 2))
               rForm f false false false (.pack e)
  | 0x32 => do need (!f.sub.getLsbD 3)
               let e ← assigned (PackW.ofBits (f.sub.extractLsb' 0 2))
               rForm f false false false (.unpk e (f.sub.getLsbD 2))
  | 0x33 => do let ty ← assigned (ElemTy.ofCode t.m.toNat)
               tForm t false (.dot ty)
  | 0x34 => do need (f.sub.extractLsb' 2 2 == 0)
               rForm f false false false (.scale (Rnd.ofBits (f.sub.extractLsb' 0 2)))
  | 0x38 => do need (bits w 0 18 == 0)
               let d ← readDst f.d (LDst.ok false)
               .ok (.laneid d)
  | 0x39 => condForm f true .lmask
  | 0x3A => condForm f false .lcount
  | 0x3B => condForm f false .lrank
  | 0x3C => do need (f.sub.extractLsb' 2 2 == 0)
               rForm f false false false (.lpullR (PullMode.ofBits (f.sub.extractLsb' 0 2)))
  | 0x3D => do need (bits w 9 2 == 0)
               let m := PullMode.ofBits (bits w 7 2)
               need (m == .step || !w.getLsbD 6)
               r1Form f false false (fun d a => .lpullI m d a (bits w 0 7))
  | 0x3E => do let op ← assigned (RedOp.ofBits (f.sub.extractLsb' 0 3))
               r1Form f false false (fun d a => .lred op (f.sub.getLsbD 3) d a (bits w 4 7))
  | 0x40 => ldForm w 1 .ldI8
  | 0x41 => ldForm w 1 .ldFp8
  | 0x42 => ldForm w 1 .ldH16
  | 0x43 => ldForm w 1 .ldW32
  | 0x44 => ldForm w 2 .ldD64
  | 0x45 => ldForm w 4 .ldq
  | 0x46 => stForm w 1 .stB8
  | 0x47 => stForm w 1 .stH16
  | 0x48 => stForm w 1 .stW32
  | 0x49 => stForm w 2 .stD64
  | 0x4A => stForm w 4 .stq
  | 0x50 => do need (!w.getLsbD 1 && !w.getLsbD 2 && !w.getLsbD 4)
               let s ← assigned (Scope.ofBits (bits w 5 3))
               let d ← readDst f.d (LDst.loadOk (words (w.getLsbD 0)))
               let m ← readA w s (Ord.ofBits (bits w 3 2))
               .ok (.ldOrdered (w.getLsbD 0) d m)
  | 0x51 => do need (!w.getLsbD 1 && !w.getLsbD 2 && !w.getLsbD 3)
               let s ← assigned (Scope.ofBits (bits w 5 3))
               let v ← readReg 5 f.d (LReg.dataOk (words (w.getLsbD 0)) true)
               let m ← readA w s (Ord.ofBits (bits w 3 2))
               .ok (.stOrdered (w.getLsbD 0) v m)
  | 0x52 => atomForm w 1 (.atom32 (AtomOp.ofBits (bits w 0 3)))
  | 0x53 => atomForm w 2 (.atom64 (AtomOp.ofBits (bits w 0 3)))
  | 0x54 => do need (bits w 1 2 == 0)
               atomForm w (words (w.getLsbD 0)) (.xchg (w.getLsbD 0))
  | 0x55 => do need (bits w 1 2 == 0)
               atomForm w (2 * words (w.getLsbD 0)) (.cas (w.getLsbD 0))
  | 0x56 => do need (bits w 8 16 == 0 && bits w 0 3 == 0)
               let s ← assigned (Scope.ofBits (bits w 5 3))
               need (Ord.ofBits (bits w 3 2) != .rlx)
               .ok (.fence (Ord.ofBits (bits w 3 2)) s)
  | 0x60 => do need (bits w 0 3 == 0)
               let a ← readReg 2 (bits w 14 6) LReg.quad
               let g ← readReg 4 (bits w 5 6) LReg.fmtOk
               .ok (.mma (readX w) a (bits w 11 3).toFin g (w.getLsbD 4) (w.getLsbD 3))
  | 0x61 => do need (bits w 11 9 == 0 && bits w 0 5 == 0)
               let g ← readReg 4 (bits w 5 6) LReg.fmtOk
               .ok (.accz (readX w) g)
  | 0x62 => do need (bits w 1 4 == 0)
               let d ← readReg 2 (bits w 14 6) LReg.quad
               let g ← readReg 4 (bits w 5 6) LReg.fmtOk
               .ok (.accrd (readX w) d (bits w 11 3).toFin g (w.getLsbD 0))
  | 0x63 => do need (bits w 0 5 == 0)
               let a ← readReg 2 (bits w 14 6) LReg.quad
               let g ← readReg 4 (bits w 5 6) LReg.fmtOk
               .ok (.accwr (readX w) a (bits w 11 3).toFin g)
  | _ => .error .illegal

/-- The fields of group format R (R25). -/
structure FG where
  d : BitVec 6
  a : BitVec 6
  b : BitVec 6
  sub : BitVec 6

/-- Group format R (R25). -/
def FG.of (w : Word) : FG := ⟨bits w 18 6, bits w 12 6, bits w 6 6, bits w 0 6⟩

/-- Group two-source form. -/
def gForm (f : FG) (wd wa wb : Bool) (k : GDst → GSrc → GSrc → Instr) : Except Reject Instr := do
  let d ← readGd f.d (GDst.ok wd)
  let a ← readG 2 f.a (GSrc.ok wa)
  let b ← readG 3 f.b (GSrc.ok wb)
  .ok (k d a b)

/-- Group immediate form (R25). -/
def giForm (w : Word) (k : GDst → GSrc → BitVec 12 → Instr) : Except Reject Instr := do
  let d ← readGd (bits w 18 6) (GDst.ok false)
  let a ← readG 2 (bits w 12 6) (GSrc.ok false)
  .ok (k d a (bits w 0 12))

/-- Group shift by an immediate (R34). -/
def gShiftI (w : Word) (k : Bool → GDst → GSrc → BitVec 6 → Instr) : Except Reject Instr := do
  need (bits w 7 5 == 0)
  need (shiftOk (w.getLsbD 6) (bits w 0 6))
  let d ← readGd (bits w 18 6) (GDst.ok (w.getLsbD 6))
  let a ← readG 2 (bits w 12 6) (GSrc.ok (w.getLsbD 6))
  .ok (k (w.getLsbD 6) d a (bits w 0 6))

/-- A form whose only operand is an even pair A. -/
def gPair (f : FG) (k : GSrc → Instr) : Except Reject Instr := do
  need (f.d == 0 && f.b == 0 && f.sub == 0)
  let p ← readG 2 f.a GSrc.pair
  .ok (k p)

/-- A word whose bits [23:0] must all be 0. -/
def gNone (w : Word) (i : Instr) : Except Reject Instr := do
  need (bits w 0 24 == 0)
  .ok i

/-- `setseg` with a value pair (R184); a segment 0 to 4 is an illegal operand that no operand field holds. -/
def setsegForm (f : FG) (k : Fin 8 → GSrc → Instr) : Except Reject Instr := do
  let x ← readG 2 f.a GSrc.pair
  operand 0 (5 ≤ (f.sub.extractLsb' 0 3).toNat)
  .ok (k (f.sub.extractLsb' 0 3).toFin x)

/-- `getseg` of one part (R184). -/
def getsegForm (f : FG) (part : Fin 4) : Except Reject Instr := do
  need (f.a == 0 && f.b == 0)
  let d ← readGd f.d (GDst.ok true)
  .ok (.getseg part (f.sub.extractLsb' 0 3).toFin d)

/-- `copy` and `copy2d` (R246): n descriptor registers. -/
def copyForm (f : FG) (n : Nat) (k : GSrc → GSrc → Fin 8 → Instr) (kna : GSrc → Instr) : Except Reject Instr := do
  need (f.d == 0 && f.sub.extractLsb' 4 2 == 0)
  if f.sub.getLsbD 3 then do
    need (f.sub.extractLsb' 0 3 == 0 && f.b == 0)
    let d ← readG 2 f.a (GSrc.desc n)
    .ok (kna d)
  else do
    let d ← readG 2 f.a (GSrc.desc n)
    let p ← readG 3 f.b GSrc.pair
    .ok (k d p (f.sub.extractLsb' 0 3).toFin)

/-- Forms with one quorum register and nothing else (R261). -/
def gQuorum (w : Word) (k : Fin 4 → Instr) : Except Reject Instr := do
  need (bits w 2 22 == 0)
  .ok (k (bits w 0 2).toFin)

/-- The group set (R33, R34). -/
def decodeGroup (w : Word) : Except Reject Instr :=
  let f := FG.of w
  let s4 := f.sub.extractLsb' 0 4
  let hi0 : Bool := f.sub.extractLsb' 4 2 == 0
  let ty := tyOf s4
  match (bits w 24 7).toNat with
  | 0x01 => do need (hi0 && !f.sub.getLsbD 0)
               gForm f ty.w64 ty.w64 ty.w64 (.gAddR ty (f.sub.getLsbD 1))
  | 0x02 => giForm w .gAddI
  | 0x03 => do need (hi0 && !f.sub.getLsbD 0)
               gForm f ty.w64 ty.w64 ty.w64 (.gSub ty (f.sub.getLsbD 1))
  | 0x04 => do need (hi0 && !f.sub.getLsbD 0)
               gForm f ty.w64 ty.w64 ty.w64 (.gMul ty (f.sub.getLsbD 1))
  | 0x05 => do need (hi0 && !f.sub.getLsbD 0 && !f.sub.getLsbD 1)
               gForm f ty.w64 ty.w64 ty.w64 (.gMulhi ty)
  | 0x06 => do need (hi0 && !f.sub.getLsbD 1)
               gForm f ty.w64 ty.w64 ty.w64 (if f.sub.getLsbD 0 then .gMax ty else .gMin ty)
  | 0x07 => do need (!f.sub.getLsbD 5)
               let r ← assigned (Rel.ofBits (f.sub.extractLsb' 0 3))
               gForm f false ty.w64 ty.w64 (.gCmp r (f.sub.getLsbD 4) (f.sub.getLsbD 3))
  | 0x08 => do need (hi0 && f.sub.extractLsb' 0 3 == 0)
               gForm f ty.w64 ty.w64 ty.w64 (.gAndR (f.sub.getLsbD 3))
  | 0x09 => do need (hi0 && f.sub.extractLsb' 0 3 == 0)
               gForm f ty.w64 ty.w64 ty.w64 (.gOrR (f.sub.getLsbD 3))
  | 0x0A => do need (hi0 && f.sub.extractLsb' 0 3 == 0)
               gForm f ty.w64 ty.w64 ty.w64 (.gXorR (f.sub.getLsbD 3))
  | 0x0B => giForm w .gAndI
  | 0x0C => giForm w .gOrI
  | 0x0D => giForm w .gXorI
  | 0x0E => do need (hi0 && f.sub.extractLsb' 0 3 == 0)
               gForm f ty.w64 ty.w64 false (.gShlR (f.sub.getLsbD 3))
  | 0x0F => do need (hi0 && f.sub.extractLsb' 0 3 == 0)
               gForm f ty.w64 ty.w64 false (.gShrR (f.sub.getLsbD 3))
  | 0x10 => do need (hi0 && f.sub.extractLsb' 0 3 == 0)
               gForm f ty.w64 ty.w64 false (.gSarR (f.sub.getLsbD 3))
  | 0x11 => gShiftI w .gShlI
  | 0x12 => gShiftI w .gShrI
  | 0x13 => gShiftI w .gSarI
  | 0x14 => do need (hi0 && f.b == 0)
               let op ← assigned (BitOp.ofBits (f.sub.extractLsb' 0 3))
               let d ← readGd f.d (GDst.ok (f.sub.getLsbD 3 && op.wide))
               let a ← readG 2 f.a (GSrc.ok (f.sub.getLsbD 3))
               .ok (.gBit op (f.sub.getLsbD 3) d a)
  | 0x15 => do need (f.sub.extractLsb' 1 5 == 0)
               gForm f false false false (.gBfx (f.sub.getLsbD 0))
  | 0x16 => do need (f.b == 0 && f.sub == 0)
               let d ← readGd f.d (GDst.ok false)
               let a ← readG 2 f.a (GSrc.ok false)
               .ok (.gMov d a)
  | 0x17 => match (bits w 16 2).toNat with
            | 0 => do let d ← readGd f.d (GDst.ok false)
                      .ok (.gMovl d (bits w 0 16))
            | 1 => do let d ← readGd f.d (GDst.ok false)
                      .ok (.gMovs d (bits w 0 16))
            | 2 => do let d ← readGd f.d GDst.file
                      .ok (.gMovt d (bits w 0 16))
            | _ => .error .illegal
  | 0x18 => do need (f.sub == 0)
               let d ← readGd f.d (GDst.ok false)
               let a ← readReg 2 f.a LReg.plain
               let i ← readG 3 f.b (GSrc.ok false)
               .ok (.rdlane d a i)
  | 0x19 => do need (f.b == 0 && f.sub == 0)
               let d ← readGd f.d (GDst.ok false)
               let a ← readReg 2 f.a LReg.plain
               .ok (.rdfirst d a)
  | 0x1A => do need (bits w 0 18 == 0)
               let d ← readGd f.d (GDst.ok true)
               .ok (.amask d)
  | 0x20 => do need (f.d == 0)
               .ok (.br (bits w 0 18))
  | 0x21 => do let c ← readG 2 f.d GSrc.cond
               .ok (.bz c (bits w 0 18))
  | 0x22 => do let c ← readG 2 f.d GSrc.cond
               .ok (.bnz c (bits w 0 18))
  | 0x23 => do need (f.d == 0)
               .ok (.call (bits w 0 18))
  | 0x24 => gNone w .ret
  | 0x25 => gPair f .jmp
  | 0x26 => do let c ← readReg 2 f.d LReg.plain
               .ok (.brl c (bits w 0 18))
  | 0x27 => do let c ← readReg 2 f.d LReg.plain
               .ok (.brlz c (bits w 0 18))
  | 0x28 => gNone w .merge
  | 0x29 => gNone w .exit
  | 0x2A => gNone w .nop
  | 0x30 => do need (bits w 0 8 == 0)
               .ok (.waitc (bits w 20 4) (bits w 16 4) (bits w 12 4) (bits w 8 4))
  | 0x31 => do need (bits w 1 23 == 0)
               .ok (if w.getLsbD 0 then .barGg else .barWg)
  | 0x32 => gNone w .yield
  | 0x33 => do need (bits w 12 12 == 0)
               .ok (.sleep (bits w 0 12))
  | 0x34 => gPair f .tmset
  | 0x35 => do need (f.d == 0)
               let s ← assigned (Scope.ofBits (f.sub.extractLsb' 3 3))
               let p ← readG 2 f.a GSrc.pair
               let e ← readG 3 f.b (GSrc.ok false)
               .ok (.watch s (f.sub.extractLsb' 0 3).toFin p e)
  | 0x36 => do need (f.d == 0 && f.sub.extractLsb' 3 3 == 0)
               let p ← readG 2 f.a GSrc.pair
               let e ← readG 3 f.b (GSrc.ok false)
               .ok (.await (f.sub.extractLsb' 0 3).toFin p e)
  | 0x40 => copyForm f 6 .copy .copyNa
  | 0x41 => copyForm f 8 .copy2d .copy2dNa
  | 0x42 => do need (f.sub == 2 && f.d == 0)
               let d ← readG 2 f.a (GSrc.desc 6)
               let m ← readG 3 f.b (GSrc.ok false)
               .ok (.mcast d m)
  | 0x43 => do need (f.sub.extractLsb' 3 3 == 0 && f.d == 0)
               let op ← assigned (RedOp.ofBits (f.sub.extractLsb' 0 3))
               let d ← readG 2 f.a (GSrc.desc 6)
               let m ← readG 3 f.b (GSrc.ok false)
               .ok (.cred op d m)
  | 0x44 => gNone w .mfence
  | 0x45 => gQuorum w .mlease
  | 0x46 => gQuorum w .mpass
  | 0x47 => gQuorum w .mfree
  | 0x50 => do need (f.b == 0 && f.sub.extractLsb' 1 5 == 0)
               let h ← readPort 1 f.d
               let a ← readG 2 f.a (GSrc.ok false)
               .ok (.qbind (f.sub.getLsbD 0) h a)
  | 0x51 => do need (f.b == 0 && f.sub == 0)
               let d ← readReg 1 f.d LReg.named
               let h ← readPort 2 f.a
               .ok (.qpopRec d h)
  | 0x52 => do need (f.d == 0 && f.sub == 0)
               let a ← readReg 2 f.a LReg.named
               let h ← readPort 3 f.b
               .ok (.qpushRec a h)
  | 0x53 => do need (bits w 0 18 == 0)
               let h ← readPort 1 f.d
               .ok (.qunbind h)
  | 0x54 => gPair f .spawn
  | 0x55 => do need (f.d == 0 && f.sub == 0)
               let p ← readG 2 f.a GSrc.pair
               let c ← readG 3 f.b (GSrc.ok false)
               .ok (.depset p c)
  | 0x56 => gPair f .depdec
  | 0x57 => do need (f.sub == 0)
               let d ← readGd f.d (GDst.ok true)
               let p ← readG 2 f.a GSrc.pair
               let c ← readG 3 f.b GSrc.pair
               .ok (.fread d p c)
  | 0x58 => do need (f.sub == 0)
               let d ← readGd f.d (GDst.ok true)
               let p ← readG 2 f.a GSrc.pair
               let c ← readG 3 f.b GSrc.pair
               .ok (.fwrite d p c)
  | 0x59 => do need (f.d == 0 && f.sub.extractLsb' 2 4 == 0)
               let p ← readG 2 f.a GSrc.pair
               let v ← readG 3 f.b (GSrc.ok false)
               .ok (.jbind (f.sub.extractLsb' 0 2).toFin p v)
  | 0x5A => do need (f.d == 0 && f.sub.extractLsb' 3 3 == 0)
               if f.sub.getLsbD 2 then do
                 let c ← readG 2 f.a (GSrc.ok false)
                 let e ← readG 3 f.b (GSrc.ok false)
                 .ok (.qcontribRow (f.sub.extractLsb' 0 2).toFin c e)
               else do
                 let a ← readReg 2 f.a LReg.quad
                 let e ← readG 3 f.b (GSrc.ok false)
                 .ok (.qcontrib (f.sub.extractLsb' 0 2).toFin a e)
  | 0x5B => gQuorum w .qarrive
  | 0x5C => gQuorum w .qkpt
  | 0x5D => gQuorum w .qwait
  | 0x60 => match (f.sub.extractLsb' 3 3).toNat with
            | 0 => do need (f.d == 0 && f.b == 0)
                      setsegForm f .setsegBase
            | 1 => do need (f.d == 0 && f.b == 0)
                      setsegForm f .setsegLast
            | 2 => do need (f.d == 0 && f.b == 0)
                      setsegForm f .setsegHi
            | 4 => do need (f.d == 0 && f.b == 0 && f.a == 0)
                      operand 0 (5 ≤ (f.sub.extractLsb' 0 3).toNat)
                      .ok (.setsegClr (f.sub.extractLsb' 0 3).toFin)
            | _ => .error .illegal
  | 0x61 => match (f.sub.extractLsb' 3 3).toNat with
            | 0 => getsegForm f 0
            | 1 => getsegForm f 1
            | 2 => getsegForm f 2
            | 4 => getsegForm f 3
            | _ => .error .illegal
  | 0x62 => do need (f.sub == 0)
               let d ← readGd f.d (GDst.ok false)
               let c ← readG 2 f.a (GSrc.ok false)
               let a ← readG 3 f.b GSrc.attr
               .ok (.grant d c a)
  | 0x63 => do need (f.d == 0 && f.b == 0 && f.sub == 0)
               let a ← readG 2 f.a (GSrc.ok false)
               .ok (.gfree a)
  | 0x64 => do need (f.d == 0 && f.sub == 0)
               let a ← readG 2 f.a (GSrc.ok false)
               let r ← readG 3 f.b (GSrc.ok false)
               .ok (.grank a r)
  | 0x65 => do need (f.d == 0 && f.b == 0 && f.sub == 0)
               let a ← readG 2 f.a (GSrc.ok false)
               .ok (.shadow a)
  | 0x66 => match f.sub.toNat with
            | 0 => do need (f.a == 0 && f.b == 0)
                      let d ← readGd f.d (GDst.ok true)
                      .ok (.gstatLevel d)
            | 1 => do need (f.b == 0)
                      let d ← readGd f.d (GDst.ok true)
                      let a ← readG 2 f.a (GSrc.ok false)
                      .ok (.gstatAlloc d a)
            | _ => .error .illegal
  | 0x67 => gNone w .lret
  | 0x68 => do need (bits w 0 18 == 0)
               let d ← readGd f.d (GDst.ok true)
               .ok (.tsread d)
  | 0x69 => do need (bits w 4 14 == 0)
               let d ← readGd f.d (GDst.ok true)
               .ok (.ctrd d (bits w 0 4).toFin)
  | 0x70 => do need (bits w 12 12 == 0)
               .ok (.trap (bits w 0 12))
  | 0x71 => do need (bits w 12 12 == 0)
               .ok (.syscall (bits w 0 12))
  | 0x72 => do need (bits w 12 12 == 0)
               .ok (.brk (bits w 0 12))
  | 0x73 => gNone w .tret
  | 0x74 => do need (bits w 1 23 == 0)
               .ok (if w.getLsbD 0 then .rgnEnd else .rgnBegin)
  | 0x75 => do need (bits w 4 14 == 0)
               let d ← readDst f.d (LDst.loadOk 1)
               .ok (.qfrd d (bits w 0 4).toFin)
  | 0x76 => do need (f.d == 0 && f.b == 0 && f.sub.extractLsb' 3 3 == 0)
               let p ← readG 2 f.a GSrc.pair
               .ok (.saveopq p (f.sub.extractLsb' 0 3).toFin)
  | 0x77 => do need (f.d == 0 && f.b == 0 && f.sub.extractLsb' 3 3 == 0)
               let p ← readG 2 f.a GSrc.pair
               .ok (.loadopq p (f.sub.extractLsb' 0 3).toFin)
  | 0x78 => do need (f.d == 0 && f.b == 0 && f.sub == 0)
               let a ← readG 2 f.a (GSrc.ok false)
               .ok (.enter a)
  | 0x79 => gNone w .leave
  | _ => .error .illegal

/-- The decoder of Gikel words (R23): bit 31 selects the set. -/
def decode (w : Word) : Except Reject Instr :=
  if w.getLsbD 31 then decodeGroup w else decodeLane w

/-- The decoder of the firmware cores' Xirbcp words (R307, R308): none raises illegal-instruction. -/
def decodeXirbcp (w : Word) : Option Instr :=
  let rd := (bits w 7 5).toFin
  let rs1 := (bits w 15 5).toFin
  let rs2 := (bits w 20 5).toFin
  if bits w 0 7 == 0x0B && bits w 25 7 == 0 then
    match (bits w 12 3).toNat with
    | 0 => some (.ringf rd rs1 rs2)
    | 1 => some (.bfe rd rs1 rs2)
    | 2 => if rs2.val = 0 then some (.sigw rd rs1) else none
    | 3 => some (.disp rd rs1 rs2)
    | _ => none
  else none

/-- The decoder the host asks (opcode_table.json numbers bits from the least significant bit of the first word). The
Gikel set and Xirbcp share no word: a Xirbcp word has opcode 0x00 or 0x01 of the lane set with bit 0 set, which R36
refuses. -/
def decodeTableWord (_nbits w : Nat) : Option Instr :=
  match decode (BitVec.ofNat 32 w) with
  | .ok i => some i
  | .error _ => decodeXirbcp (BitVec.ofNat 32 w)

/-! ### The encoder -/

/-- A two-bit number. -/
abbrev u2 (k : Fin 4) : BitVec 2 := BitVec.ofFin k
/-- A three-bit number. -/
abbrev u3 (k : Fin 8) : BitVec 3 := BitVec.ofFin k
/-- A four-bit number. -/
abbrev u4 (k : Fin 16) : BitVec 4 := BitVec.ofFin k
/-- A five-bit number. -/
abbrev u5 (k : Fin 32) : BitVec 5 := BitVec.ofFin k

/-- Bit of a Bool. -/
abbrev bit1 (b : Bool) : BitVec 1 := BitVec.ofBool b

/-- Lane format R (R24). -/
def encR (op : BitVec 7) (d : LDst) (a b : LSrc) (sub : BitVec 4) : Word :=
  0#1 ++ op ++ d.num ++ a.reg.num ++ bit1 a.last ++ b.reg.num ++ bit1 b.last ++ sub

/-- Lane format R with one source and the B field and its bit given raw. -/
def encR1 (op : BitVec 7) (d : LDst) (a : LSrc) (b : BitVec 7) (sub : BitVec 4) : Word :=
  0#1 ++ op ++ d.num ++ a.reg.num ++ bit1 a.last ++ b ++ sub

/-- Lane format I (R24). -/
def encI (op : BitVec 7) (d : LDst) (a : LSrc) (imm : BitVec 11) : Word :=
  0#1 ++ op ++ d.num ++ a.reg.num ++ bit1 a.last ++ imm

/-- Format K of either set (R24, R25). -/
def encK (set : BitVec 1) (op : BitVec 7) (d : BitVec 6) (sub : BitVec 2) (imm : BitVec 16) : Word :=
  set ++ op ++ d ++ sub ++ imm

/-- Format T (R24). -/
def encT (op : BitVec 7) (a b c : LSrc) (m : BitVec 3) : Word :=
  0#1 ++ op ++ a.reg.num ++ bit1 a.last ++ b.reg.num ++ bit1 b.last ++ c.reg.num ++ bit1 c.last ++ m

/-- Format M (R24). -/
def encM (op : BitVec 7) (d : BitVec 6) (m : MemM) : Word :=
  0#1 ++ op ++ d ++ m.base.reg.num ++ bit1 m.base.last ++ u3 m.seg ++ m.off

/-- Format A (R24). -/
def encA (op : BitVec 7) (d : BitVec 6) (m : MemA) (sub : BitVec 3) : Word :=
  0#1 ++ op ++ d ++ m.base.reg.num ++ bit1 m.base.last ++ u3 m.seg ++ m.scope.bits ++ m.ord.bits ++ sub

/-- Format X (R24). -/
def encX (op : BitVec 7) (r : TileRef) (a : BitVec 6) (b : BitVec 3) (f : BitVec 6) (reuse zero : Bool)
    (sub : BitVec 3) : Word :=
  0#1 ++ op ++ u2 r.t ++ u2 r.set ++ a ++ b ++ f ++ bit1 reuse ++ bit1 zero ++ sub

/-- Group format R (R25). -/
def encG (op : BitVec 7) (d a b sub : BitVec 6) : Word := 1#1 ++ op ++ d ++ a ++ b ++ sub

/-- Group format I (R25). -/
def encGI (op : BitVec 7) (d a : BitVec 6) (imm : BitVec 12) : Word := 1#1 ++ op ++ d ++ a ++ imm

/-- Group format B (R25). -/
def encB (op : BitVec 7) (c : BitVec 6) (off : BitVec 18) : Word := 1#1 ++ op ++ c ++ off

/-- Sub-operation of the integer forms (R28). -/
def intSub (ty : IntTy) (sat low : Bool) : BitVec 4 := bit1 ty.w64 ++ bit1 ty.uns ++ bit1 sat ++ bit1 low

/-- Sub-operation with only the width bit. -/
def wSub (w64 : Bool) : BitVec 4 := bit1 w64 ++ 0#3

/-- Sub-operation of the float forms (R28). -/
def fSub (ty : FTy) (r : Rnd) : BitVec 4 := ty.bits ++ r.bits

/-- A group sub-operation from its low four bits. -/
def gs (s : BitVec 4) : BitVec 6 := 0#2 ++ s

/-- The four parts of `setseg` and `getseg` (R184). -/
def segPart (p : Fin 4) : BitVec 3 :=
  match p.val with | 0 => 0 | 1 => 1 | 2 => 2 | _ => 4

/-- The word of an instruction; none for a step without an encoding. -/
def encode : Instr → Option Word
  | .addR ty s d a b => some (encR 0x01 d a b (intSub ty s false))
  | .addI32 d a i => some (encI 0x02 d a i)
  | .addI64 d a i => some (encI 0x03 d a i)
  | .subR ty s d a b => some (encR 0x04 d a b (intSub ty s false))
  | .mulR ty s d a b => some (encR 0x05 d a b (intSub ty s false))
  | .mulhi ty d a b => some (encR 0x06 d a b (intSub ty false false))
  | .mad ty s a b c => some (encT 0x07 a b c (bit1 s ++ bit1 ty.uns ++ bit1 ty.w64))
  | .divInt ty s d a b => some (encR 0x08 d a b (intSub ty s false))
  | .rem ty d a b => some (encR 0x09 d a b (intSub ty false false))
  | .minInt ty d a b => some (encR 0x0A d a b (intSub ty false false))
  | .maxInt ty d a b => some (encR 0x0A d a b (intSub ty false true))
  | .cmpSigned r w d a b => some (encR 0x0B d a b (bit1 w ++ r.bits))
  | .cmpUnsigned r w d a b => some (encR 0x1B d a b (bit1 w ++ r.bits))
  | .andR w d a b => some (encR 0x0C d a b (wSub w))
  | .orR w d a b => some (encR 0x0D d a b (wSub w))
  | .xorR w d a b => some (encR 0x0E d a b (wSub w))
  | .andI d a i => some (encI 0x0F d a i)
  | .orI d a i => some (encI 0x10 d a i)
  | .xorI d a i => some (encI 0x11 d a i)
  | .shlR w d a b => some (encR 0x12 d a b (wSub w))
  | .shrR w d a b => some (encR 0x13 d a b (wSub w))
  | .sarR w d a b => some (encR 0x14 d a b (wSub w))
  | .shlI w d a c => some (encI 0x15 d a (0#4 ++ bit1 w ++ c))
  | .shrI w d a c => some (encI 0x16 d a (0#4 ++ bit1 w ++ c))
  | .sarI w d a c => some (encI 0x17 d a (0#4 ++ bit1 w ++ c))
  | .bfx sx a b c => some (encT 0x18 a b c (0#2 ++ bit1 sx))
  | .bfi a b c => some (encT 0x19 a b c 0)
  | .bit op w d a => some (encR1 0x1A d a 0 (bit1 w ++ op.bits))
  | .sel c a b => some (encT 0x1C c a b 0)
  | .movl d i => some (encK 0 0x1D d.num 0 i)
  | .movs d i => some (encK 0 0x1D d.num 1 i)
  | .movt d i => some (encK 0 0x1D d.num 2 i)
  | .nget d i => some (encR1 0x1E d i 0 0)
  | .nset i v => some (encR 0x1F .push i v 0)
  | .fadd ty r d a b => some (encR 0x20 d a b (fSub ty r))
  | .fsub ty r d a b => some (encR 0x21 d a b (fSub ty r))
  | .fmul ty r d a b => some (encR 0x22 d a b (fSub ty r))
  | .fdiv ty r d a b => some (encR 0x25 d a b (fSub ty r))
  | .fma h r a b c => some (encT 0x23 a b c (bit1 h ++ r.bits))
  | .fmin ty d a b => some (encR 0x24 d a b (ty.bits ++ 0#2))
  | .fmax ty d a b => some (encR 0x24 d a b (ty.bits ++ 1#2))
  | .fcmp r h d a b => some (encR 0x26 d a b (bit1 h ++ r.bits))
  | .abs ty d a s => some (encR1 0x27 d a s (ty.bits ++ 0#2))
  | .neg ty d a s => some (encR1 0x27 d a s (ty.bits ++ 1#2))
  | .csgn ty d a b => some (encR 0x27 d a b (ty.bits ++ 2#2))
  | .rcp r d a s => some (encR1 0x28 d a s (0#2 ++ r.bits))
  | .rsqrt r d a s => some (encR1 0x29 d a s (0#2 ++ r.bits))
  | .sqrt r d a s => some (encR1 0x2A d a s (0#2 ++ r.bits))
  | .exp2 r d a s => some (encR1 0x2B d a s (0#2 ++ r.bits))
  | .log2 r d a s => some (encR1 0x2C d a s (0#2 ++ r.bits))
  | .class ty d a => some (encR1 0x2D d a 0 (ty.bits ++ 0#2))
  | .cvt dt st r s d a => some (encR1 0x30 d a (dt.bits ++ st.bits ++ 0#1) (0#1 ++ bit1 s ++ r.bits))
  | .pack e d a b => some (encR 0x31 d a b (0#2 ++ e.bits))
  | .unpk e sx d a b => some (encR 0x32 d a b (0#1 ++ bit1 sx ++ e.bits))
  | .dot ty a b c => some (encT 0x33 a b c ty.bits)
  | .scale r d a b => some (encR 0x34 d a b (0#2 ++ r.bits))
  | .laneid d => some (encR1 0x38 d ⟨.q 0, false⟩ 0 0)
  | .lmask c w d a => some (encR1 0x39 d a 0 (bit1 w ++ 0#1 ++ c.bits))
  | .lcount c w d a => some (encR1 0x3A d a 0 (bit1 w ++ 0#1 ++ c.bits))
  | .lrank c w d a => some (encR1 0x3B d a 0 (bit1 w ++ 0#1 ++ c.bits))
  | .lpullR m d a b => some (encR 0x3C d a b (0#2 ++ m.bits))
  | .lpullI m d a v => some (encI 0x3D d a (0#2 ++ m.bits ++ v))
  | .lred op u d a s => some (encR1 0x3E d a s (bit1 u ++ op.bits))
  | .ldI8 d m => some (encM 0x40 d.num m)
  | .ldFp8 d m => some (encM 0x41 d.num m)
  | .ldH16 d m => some (encM 0x42 d.num m)
  | .ldW32 d m => some (encM 0x43 d.num m)
  | .ldD64 d m => some (encM 0x44 d.num m)
  | .ldq d m => some (encM 0x45 d.num m)
  | .stB8 v m => some (encM 0x46 v.num m)
  | .stH16 v m => some (encM 0x47 v.num m)
  | .stW32 v m => some (encM 0x48 v.num m)
  | .stD64 v m => some (encM 0x49 v.num m)
  | .stq v m => some (encM 0x4A v.num m)
  | .ldOrdered w d m => some (encA 0x50 d.num m (0#2 ++ bit1 w))
  | .stOrdered w v m => some (encA 0x51 v.num m (0#2 ++ bit1 w))
  | .atom32 op v m => some (encA 0x52 v.num m op.bits)
  | .atom64 op v m => some (encA 0x53 v.num m op.bits)
  | .xchg w v m => some (encA 0x54 v.num m (0#2 ++ bit1 w))
  | .cas w c m => some (encA 0x55 c.num m (0#2 ++ bit1 w))
  | .fence o s => some (encA 0x56 0 ⟨⟨.q 0, false⟩, 0, s, o⟩ 0)
  | .mma r a b f ru z => some (encX 0x60 r a.num (u3 b) f.num ru z 0)
  | .accz r f => some (encX 0x61 r 0 0 f.num false false 0)
  | .accrd r d c f s => some (encX 0x62 r d.num (u3 c) f.num false false (0#2 ++ bit1 s))
  | .accwr r a c f => some (encX 0x63 r a.num (u3 c) f.num false false 0)
  | .gAddR ty s d a b => some (encG 0x01 d.num a.num b.num (gs (intSub ty s false)))
  | .gAddI d a i => some (encGI 0x02 d.num a.num i)
  | .gSub ty s d a b => some (encG 0x03 d.num a.num b.num (gs (intSub ty s false)))
  | .gMul ty s d a b => some (encG 0x04 d.num a.num b.num (gs (intSub ty s false)))
  | .gMulhi ty d a b => some (encG 0x05 d.num a.num b.num (gs (intSub ty false false)))
  | .gMin ty d a b => some (encG 0x06 d.num a.num b.num (gs (intSub ty false false)))
  | .gMax ty d a b => some (encG 0x06 d.num a.num b.num (gs (intSub ty false true)))
  | .gCmp r u w d a b => some (encG 0x07 d.num a.num b.num (0#1 ++ bit1 u ++ bit1 w ++ r.bits))
  | .gAndR w d a b => some (encG 0x08 d.num a.num b.num (gs (wSub w)))
  | .gOrR w d a b => some (encG 0x09 d.num a.num b.num (gs (wSub w)))
  | .gXorR w d a b => some (encG 0x0A d.num a.num b.num (gs (wSub w)))
  | .gAndI d a i => some (encGI 0x0B d.num a.num i)
  | .gOrI d a i => some (encGI 0x0C d.num a.num i)
  | .gXorI d a i => some (encGI 0x0D d.num a.num i)
  | .gShlR w d a b => some (encG 0x0E d.num a.num b.num (gs (wSub w)))
  | .gShrR w d a b => some (encG 0x0F d.num a.num b.num (gs (wSub w)))
  | .gSarR w d a b => some (encG 0x10 d.num a.num b.num (gs (wSub w)))
  | .gShlI w d a c => some (encGI 0x11 d.num a.num (0#5 ++ bit1 w ++ c))
  | .gShrI w d a c => some (encGI 0x12 d.num a.num (0#5 ++ bit1 w ++ c))
  | .gSarI w d a c => some (encGI 0x13 d.num a.num (0#5 ++ bit1 w ++ c))
  | .gBit op w d a => some (encG 0x14 d.num a.num 0 (gs (bit1 w ++ op.bits)))
  | .gBfx sx d a c => some (encG 0x15 d.num a.num c.num (0#5 ++ bit1 sx))
  | .gMov d a => some (encG 0x16 d.num a.num 0 0)
  | .gMovl d i => some (encK 1 0x17 d.num 0 i)
  | .gMovs d i => some (encK 1 0x17 d.num 1 i)
  | .gMovt d i => some (encK 1 0x17 d.num 2 i)
  | .rdlane d a i => some (encG 0x18 d.num a.num i.num 0)
  | .rdfirst d a => some (encG 0x19 d.num a.num 0 0)
  | .amask d => some (encG 0x1A d.num 0 0 0)
  | .br o => some (encB 0x20 0 o)
  | .bz c o => some (encB 0x21 c.num o)
  | .bnz c o => some (encB 0x22 c.num o)
  | .call o => some (encB 0x23 0 o)
  | .ret => some (encG 0x24 0 0 0 0)
  | .jmp p => some (encG 0x25 0 p.num 0 0)
  | .brl c o => some (encB 0x26 c.num o)
  | .brlz c o => some (encB 0x27 c.num o)
  | .merge => some (encG 0x28 0 0 0 0)
  | .exit => some (encG 0x29 0 0 0 0)
  | .nop => some (encG 0x2A 0 0 0 0)
  | .waitc l s c t => some (1#1 ++ 0x30#7 ++ l ++ s ++ c ++ t ++ 0#8)
  | .barWg => some (encG 0x31 0 0 0 0)
  | .barGg => some (encG 0x31 0 0 0 1)
  | .yield => some (encG 0x32 0 0 0 0)
  | .sleep n => some (encGI 0x33 0 0 n)
  | .tmset p => some (encG 0x34 0 p.num 0 0)
  | .watch s n p e => some (encG 0x35 0 p.num e.num (s.bits ++ u3 n))
  | .await n p g => some (encG 0x36 0 p.num g.num (0#3 ++ u3 n))
  | .copy d a n => some (encG 0x40 0 d.num a.num (0#3 ++ u3 n))
  | .copyNa d => some (encG 0x40 0 d.num 0 8)
  | .copy2d d a n => some (encG 0x41 0 d.num a.num (0#3 ++ u3 n))
  | .copy2dNa d => some (encG 0x41 0 d.num 0 8)
  | .mcast d m => some (encG 0x42 0 d.num m.num 2)
  | .cred op d m => some (encG 0x43 0 d.num m.num (0#3 ++ op.bits))
  | .mfence => some (encG 0x44 0 0 0 0)
  | .mlease t => some (encG 0x45 0 0 0 (0#4 ++ u2 t))
  | .mpass t => some (encG 0x46 0 0 0 (0#4 ++ u2 t))
  | .mfree t => some (encG 0x47 0 0 0 (0#4 ++ u2 t))
  | .qbind p h a => some (encG 0x50 (GSrc.h h).num a.num 0 (0#5 ++ bit1 p))
  | .qpopRec d h => some (encG 0x51 d.num (GSrc.h h).num 0 0)
  | .qpushRec a h => some (encG 0x52 0 a.num (GSrc.h h).num 0)
  | .qunbind h => some (encG 0x53 (GSrc.h h).num 0 0 0)
  | .spawn p => some (encG 0x54 0 p.num 0 0)
  | .depset p c => some (encG 0x55 0 p.num c.num 0)
  | .depdec p => some (encG 0x56 0 p.num 0 0)
  | .fread d p c => some (encG 0x57 d.num p.num c.num 0)
  | .fwrite d p v => some (encG 0x58 d.num p.num v.num 0)
  | .jbind j p v => some (encG 0x59 0 p.num v.num (0#4 ++ u2 j))
  | .qcontrib j a e => some (encG 0x5A 0 a.num e.num (0#4 ++ u2 j))
  | .qcontribRow j c e => some (encG 0x5A 0 c.num e.num (0#3 ++ 1#1 ++ u2 j))
  | .qarrive j => some (encG 0x5B 0 0 0 (0#4 ++ u2 j))
  | .qkpt j => some (encG 0x5C 0 0 0 (0#4 ++ u2 j))
  | .qwait j => some (encG 0x5D 0 0 0 (0#4 ++ u2 j))
  | .setsegBase n x => some (encG 0x60 0 x.num 0 (0#3 ++ u3 n))
  | .setsegLast n x => some (encG 0x60 0 x.num 0 (1#3 ++ u3 n))
  | .setsegHi n x => some (encG 0x60 0 x.num 0 (2#3 ++ u3 n))
  | .setsegClr n => some (encG 0x60 0 0 0 (4#3 ++ u3 n))
  | .getseg p n d => some (encG 0x61 d.num 0 0 (segPart p ++ u3 n))
  | .grant d c a => some (encG 0x62 d.num c.num a.num 0)
  | .grantRelight d c a => some (encG 0x62 d.num c.num a.num 0)
  | .gfree a => some (encG 0x63 0 a.num 0 0)
  | .grank a r => some (encG 0x64 0 a.num r.num 0)
  | .shadow a => some (encG 0x65 0 a.num 0 0)
  | .gstatLevel d => some (encG 0x66 d.num 0 0 0)
  | .gstatAlloc d a => some (encG 0x66 d.num a.num 0 1)
  | .lret => some (encG 0x67 0 0 0 0)
  | .tsread d => some (encG 0x68 d.num 0 0 0)
  | .ctrd d s => some (encG 0x69 d.num 0 0 (0#2 ++ u4 s))
  | .trap c => some (encGI 0x70 0 0 c)
  | .syscall c => some (encGI 0x71 0 0 c)
  | .brk c => some (encGI 0x72 0 0 c)
  | .tret => some (encG 0x73 0 0 0 0)
  | .rgnBegin => some (encG 0x74 0 0 0 0)
  | .rgnEnd => some (encG 0x74 0 0 0 1)
  | .qfrd d k => some (encG 0x75 d.num 0 0 (0#2 ++ u4 k))
  | .saveopq p n => some (encG 0x76 0 p.num 0 (0#3 ++ u3 n))
  | .loadopq p n => some (encG 0x77 0 p.num 0 (0#3 ++ u3 n))
  | .enter a => some (encG 0x78 0 a.num 0 0)
  | .leave => some (encG 0x79 0 0 0 0)
  | .ringf rd a b => some (0#7 ++ u5 b ++ u5 a ++ 0#3 ++ u5 rd ++ 0x0B#7)
  | .bfe rd a b => some (0#7 ++ u5 b ++ u5 a ++ 1#3 ++ u5 rd ++ 0x0B#7)
  | .sigw rd a => some (0#7 ++ 0#5 ++ u5 a ++ 2#3 ++ u5 rd ++ 0x0B#7)
  | .disp rd a b => some (0#7 ++ u5 b ++ u5 a ++ 3#3 ++ u5 rd ++ 0x0B#7)
  | _ => none

end Sys2Proof
end

