-- ==== Sys2Proof/Machine/Flags.lean ====
section
/-! DEFINITION. The accumulator element A128 with its status bits (03 R53 to R57). -/

namespace Sys2Proof.Machine

/-- An accumulator element. -/
abbrev A128 := BitVec 128

/-- The integer V (R53). -/
def A128.v (e : A128) : Int := (e.extractLsb' 16 112).toInt
/-- The status bits (R53). -/
def A128.status (e : A128) : BitVec 16 := e.extractLsb' 0 16
/-- An element of V and status. -/
def A128.mk (v : Int) (st : BitVec 16) : A128 := BitVec.ofInt 112 v ++ st

/-- Status bit numbers (R53). -/
def bitNAN : Nat := 0
/-- Some term was +∞. -/
def bitINFP : Nat := 1
/-- Some term was −∞. -/
def bitINFN : Nat := 2
/-- Some positive term was too large. -/
def bitOVFP : Nat := 3
/-- Some negative term was too large. -/
def bitOVFN : Nat := 4
/-- Some admitted term lost bits. -/
def bitINX : Nat := 5
/-- The term budget was exceeded. -/
def bitCNT : Nat := 6

/-- An element with a status bit set. -/
def A128.flag (e : A128) (b : Nat) : A128 := e ||| (1#128 <<< b)

/-- `AddTerm` of R54. -/
def addTerm (e : A128) (t : Ext) (anchor : Int) : A128 :=
  match t with
  | .nan => A128.flag e bitNAN
  | .inf neg => A128.flag e (if neg then bitINFN else bitINFP)
  | .zero _ => e
  | .fin neg num den =>
    let lim := anchor + 96
    let tooBig := if 0 ≤ lim then decide (den * 2 ^ lim.toNat ≤ num) else decide (den ≤ num * 2 ^ (-lim).toNat)
    if tooBig then A128.flag e (if neg then bitOVFN else bitOVFP)
    else
      let n := if 0 ≤ anchor then num else num * 2 ^ (-anchor).toNat
      let d := if 0 ≤ anchor then den * 2 ^ anchor.toNat else den
      let q : Int := (n / d : Nat)
      let e1 := A128.mk (A128.v e + (if neg then -q else q)) (A128.status e)
      if n % d = 0 then e1 else A128.flag e1 bitINX

/-- `Readout` of R57, before its rounding: the exact value. -/
def readoutExt (e : A128) (anchor : Int) : Ext :=
  let st : Nat → Bool := e.getLsbD
  if st bitNAN || st bitCNT then .nan
  else if st bitINFP || st bitINFN then (if st bitINFP && st bitINFN then .nan else .inf (st bitINFN))
  else if st bitOVFP || st bitOVFN then (if st bitOVFP && st bitOVFN then .nan else .inf (st bitOVFN))
  else
    let v := A128.v e
    if v = 0 then .zero false else scaleFin (decide (v < 0)) v.natAbs 1 anchor

/-- `Readout` of R57. -/
def readout (e : A128) (anchor : Int) (f : Fmt) (sat : Bool) : Nat := narrow f .rne sat (readoutExt e anchor)

/-- The format and elements per quad of a readout code; raw is code 8 (R254). -/
def readoutFmt : Nat → Option (Fmt × Nat)
  | 0 => some (fmt32, 4)
  | 1 => some (fmt16, 8)
  | 2 => some (fmtB16, 8)
  | 3 => some (fmtE4M3, 16)
  | 4 => some (fmtE5M2, 16)
  | 5 => some (fmtE2M1, 32)
  | _ => none

/-- Elements per quad of a code, none for an unassigned one. -/
def readoutCount (code : Nat) : Option Nat := if code = 8 then some 1 else (readoutFmt code).map (·.2)

/-- The four words of an element (R53). -/
def A128.words (e : A128) : List Word := (List.range 4).map (fun i => e.extractLsb' (32 * i) 32)

/-- An element from four words; status bits [15:7] are 0 (R53, R255). -/
def A128.ofWords (ws : List Word) : A128 :=
  let n := ws.foldr (fun w n => w.toNat + 2 ^ 32 * n) 0
  BitVec.ofNat 128 (n / 2 ^ 16 * 2 ^ 16 + n % 2 ^ 7)

/-- The sum of two elements, as a join or `cred` adds them: V modulo 2^112, status ORed (R205, R238). -/
def A128.add (a b : A128) : A128 := (a.extractLsb' 16 112 + b.extractLsb' 16 112) ++ (a.extractLsb' 0 16 ||| b.extractLsb' 0 16)

end Sys2Proof.Machine
end

