-- ==== Sys2Proof/Machine/Waits.lean ====
section
/-! DEFINITION. Instructions that wait (04 R72, 07 R124 to R128, 11 R182, 16 R247) and the events that end the waits. -/

namespace Sys2Proof.Machine

/-! ### `waitc` (R72) -/

/-- A limit of `waitc` is met: 15 sets none. -/
def limMet (lim : WaitLim) (n : Nat) : Bool := lim.toNat == 15 || n ≤ lim.toNat

/-- A `waitc` with a limit on loads covers the loads that are over: their data may be read from now on (R22, R72). -/
def State.coverLoads (s : State) (c : Ctx) (lds : WaitLim) : State :=
  if lds.toNat == 15 then s
  else s.modSheaf c.k (fun sh => { sh with lanes := sh.lanes.map (Lane.mapEntries Entry.cover) })

/-- `waitc` (R72). -/
def execWaitc (lds sts cps tls : WaitLim) (s : State) : Host.Outcome State Fault Refusal :=
  issue s (fun c =>
    if !limMet lds c.sh.loads then s.stall c 3
    else if !limMet sts c.sh.stores then s.stall c 4
    else if !limMet cps c.sh.copies then s.stall c 5
    else if !limMet tls c.sh.tiles then s.stall c 6
    else (s.coverLoads c lds).advance c)

/-! ### Barriers (R124, R125, R166) -/

/-- Every split of a control state goes on behind the `bar` it stands at. -/
def Ctl.passBar (t : Ctl) : Ctl := { t with splits := t.splits.map (fun x => x.at (x.pc + 1)) }

/-- A sheaf's barrier is passed: its split goes on behind the `bar`; that of a sheaf which a save has met does so once it is
restored (R125). -/
def Sheaf.passBar (sh : Sheaf) (w : Wait) : Sheaf :=
  if sh.wait == some w then { sh with wait := none, ctl := sh.ctl.passBar }
  else match sh.hand with
    | some h => { sh with recorded := none, hand := some { h with saved := h.saved.passBar } }
    | none => { sh with recorded := none, ctl := sh.ctl.passBar }

/-- Whether a sheaf has arrived (R125, R166): it waits at the barrier, or did when a save met it, and its earlier accesses to
memory have performed at the barrier's scope. That a load has performed does not put its data into registers. -/
def State.hasArrived (s : State) (k : Nat) (sh : Sheaf) (gg : Bool) : Bool :=
  let w : Option Wait := some (if gg then .barGg else .barWg)
  (sh.wait == w || sh.recorded == w) &&
  s.accs.all (fun x => x.k != k || !(x.kind.reads || x.kind.writes) || x.performedAt (if gg then .gg else .wg))

/-- A workgroup's barrier releases when every sheaf that has not ended has arrived (R125); every sheaf then sees the block
registers (R104). -/
def State.releaseWg (s : State) (w : Nat) : State :=
  let live := (s.sheavesOf w).filter (fun p => !p.2.finished)
  if live.isEmpty || !live.all (fun p => s.hasArrived p.1 p.2 false) then s
  else
    (s.modWg w (fun g => { g with barGen := g.barGen + 1, bpast := [] })).mapSheaves (fun _ sh =>
      if sh.wg == w && !sh.finished then { sh.passBar .barWg with seen := List.replicate 16 0 } else sh)

/-- A gang's barrier releases likewise (R125). -/
def State.releaseGang (s : State) (g : Nat) : State :=
  match kget s.gangs g with
  | none => s
  | some gang =>
    let live := s.sheaves.filter (fun p => gang.members.contains p.2.wg && !p.2.finished)
    if live.isEmpty || !live.all (fun p => s.hasArrived p.1 p.2 true) then s
    else (s.setGang g { gang with barGen := gang.barGen + 1 }).mapSheaves (fun _ sh =>
      if gang.members.contains sh.wg && !sh.finished then sh.passBar .barGg else sh)

/-- Every barrier that can release does (R125). -/
def State.releaseBars (s : State) : State :=
  let s1 := s.wgs.foldl (fun (t : State) p => t.releaseWg p.1) s
  s1.gangs.foldl (fun (t : State) p => t.releaseGang p.1) s1

/-- A fence among the sheaf's accesses (R166, R181). -/
def State.addFence (s : State) (c : Ctx) (ord : Ord) (scope : Scope) : State :=
  let a : Acc := ⟨s.nextKey, s.nextKey, s.nextKey, c.k, c.site, sheafLane, .fence, 0, 0, .hbm 0, 0, [], ord, scope, .rc, .issued, [], none⟩
  ({ s with accs := s.accs ++ [a] }.bump).settleFences

/-- A `bar` (R124): the splits meet first; then the sheaf's fence, its arrival and its wait. -/
def barOp (s : State) (gg : Bool) : Host.Outcome State Fault Refusal :=
  issueStop s (fun c =>
    if c.alone then
      let s1 := (s.addFence c .ar (if gg then .gg else .wg)).waitOn c (if gg then .barGg else .barWg)
      if gg then s1.releaseGang c.wg.gang else s1.releaseWg c.sh.wg
    else s.rendezvous c true)

/-- `bar.wg` (R124). -/
def execBarWg (s : State) : Host.Outcome State Fault Refusal := barOp s false
/-- `bar.gg` (R124). -/
def execBarGg (s : State) : Host.Outcome State Fault Refusal := barOp s true

/-! ### Giving way, sleeping, the timer (R126 to R128) -/

/-- The sheaf's greedy run ends on both pipes of its scheduler (R126). -/
def State.endGreedy (s : State) (c : Ctx) : State :=
  let sched := c.sh.slot % 4
  let off : Option Nat → Option Nat := fun g => if g == some c.k then none else g
  (s.modCore c.site (fun x => { x with greedy := lmod off (lmod off x.greedy (2 * sched)) (2 * sched + 1) })).modSheaf c.k
    (fun sh => { sh with yielded := true, yieldedG := true })

/-- `yield` (R126). -/
def execYield (s : State) : Host.Outcome State Fault Refusal := issue s (fun c => (s.endGreedy c).advance c)

/-- `sleep` (R127). -/
def execSleep (n : BitVec 12) (s : State) : Host.Outcome State Fault Refusal :=
  issue s (fun c =>
    if n = 0 then (s.endGreedy c).advance c
    else (s.modSheaf c.k (fun sh => { sh with sleep := some (s.cycle + 16 * n.toNat) })).advance c)

/-- The time of a sleep has passed (R127). -/
def execSleepWake (k : Nat) (s : State) : Host.Outcome State Fault Refusal :=
  .next (s.modSheaf k (fun sh => match sh.sleep with
    | some t => if t ≤ s.cycle then { sh with sleep := none } else sh
    | none => sh))

/-- `tmset` (R128). -/
def execTmset (p : GSrc) (s : State) : Host.Outcome State Fault Refusal :=
  issue s (fun c => groupStep s c [⟨2, p, 2⟩] none (fun vs s1 =>
    (s1.modSheaf c.k (fun sh => { sh with ctl := { sh.ctl with cmp := vs.headD 0 } })).advance c))

/-- The word a split stands at, where it can be fetched. -/
def State.wordAt (s : State) (k j : Nat) : Option Word :=
  match ({ s with cur := .sheaf k j } : State).ctx with
  | some c => match s.reach (viaOf c.k c.sh c.wg 0) (byteAddr c.sp.pc) 4 .ex with
    | .ok pl _ => some (leWord (s.readPlace pl 4))
    | _ => none
  | none => none

/-- Whether a word is a region edge (R324). -/
def isEdge (w : Word) : Bool :=
  match decode w with
  | .ok (.enter _) => true
  | .ok .leave => true
  | .ok .rgnBegin => true
  | .ok .rgnEnd => true
  | .ok (.brk _) => true
  | _ => false

/-- Whether a debugger's request is taken now: at a recorded fault, or before a region edge (R276, R324). -/
def State.haltNow (s : State) (k : Nat) (sh : Sheaf) : Bool :=
  sh.haltReq && (sh.pend.isSome || (List.range sh.ctl.splits.length).any (fun j => ((s.wordAt k j).map isEdge).getD false))

/-- The timer trap (R128, R276): the comparator has passed and nothing of a higher rank is there. The sheaf leaves its wait
or sleep, and a replay keeps its lanes. -/
def execTimerTrap (k : Nat) (s : State) : Host.Outcome State Fault Refusal :=
  .next (match s.sheaf k with
    | none => s
    | some sh =>
      if !(s.timerDue sh) || sh.pend.isSome || sh.hand.isSome || sh.restarting || sh.finished || s.haltNow k sh || sh.halted ||
          sh.preempt || sh.saving != .none || sh.writing then s
      else
        let pc := (sh.ctl.splits.find? (fun x => !x.parked)).elim 0 (fun x => x.pc)
        s.setSheaf k { sh.stopTrap with
          ctl := { sh.stopTrap.ctl with cmp := 0 }
          pend := some (({ code := 0x1B, opnd := 0 } : Exc).record 0 pc 0 sh.trapEntry) })

/-! ### Watching a word (R182, R247) -/

/-- Whether a read of a whole sheaf may perform now (R165). -/
def State.readDue (s : State) (k site : Nat) (pl : Place) (n : Nat) (pk : PageKind) : Bool :=
  s.mayPerform (syncAcc s k site (.load n 0 false) pl n .rlx .sh pk)

/-- The completing read of a `watch` or an `await` is an acquire (R165, row 2): of the L1, at least (R164). -/
def State.acquire (s : State) (site : Nat) (scope : Scope) : State := if scope.near then s else s.dropL1 site

/-- The kind of the page a place was reached through. -/
def State.kindAt (s : State) (c : Ctx) (seg : Nat) (ea : Addr) : PageKind :=
  match s.reach (viaOf c.k c.sh c.wg seg) ea 1 .rd with
  | .ok _ pk => pk
  | _ => .rc

/-- What a read of `watch` or `await` finds: the core's write path counts at `.sh` and `.wg`, only the slice or bank at a wider
scope, and never an L1 copy (R197). -/
def State.watchRead (s : State) (site : Nat) (pl : Place) (n : Nat) (scope : Scope) : DWord :=
  leDWord (if scope.near then (s.loadBytes site pl n false).1 else s.readPlace pl n)

/-- Whether a read of `watch` or `await` may complete it: the order of R165 allows it, and every earlier store of the sheaf to
the word has performed where the read is served (R197). -/
def State.watchDue (s : State) (k site : Nat) (pl : Place) (n : Nat) (scope : Scope) (pk : PageKind) : Bool :=
  s.readDue k site pl n pk &&
    s.accs.all (fun x => !(x.k == k && x.kind.writes && x.place.meets x.size pl n) || x.performedAt scope)

/-- The completing read is an acquire (R165, row 2); the core keeps no copy of the word older than what it returned (R164). -/
def State.watchDone (s : State) (site : Nat) (pl : Place) (scope : Scope) : State := (s.dropLine site pl).acquire site scope

/-- Whether a `watch` or an `await` is over now: its word has left what it waits on, and its read may perform. -/
def State.watchOver (s : State) (k site : Nat) (pl : Place) (n : Nat) (scope : Scope) (pk : PageKind) (waits : DWord → Bool) : Bool :=
  !waits (s.watchRead site pl n scope) && s.watchDue k site pl n scope pk

/-- Whether a watched word still holds the value (R182). -/
def holdsWord (e : Word) (v : DWord) : Bool := v.lo == e

/-- The generation of an arrival word (R207). -/
def arrGen (w : DWord) : BitVec 16 := w.extractLsb' 48 16

/-- `watch` (R182). -/
def execWatch (scope : Scope) (seg : Fin 8) (p e : GSrc) (s : State) : Host.Outcome State Fault Refusal :=
  issueStop s (fun c => groupVals s c [⟨2, p, 2⟩, ⟨3, e, 1⟩] none (fun vs s1 =>
    atSegment s s1 c vs seg (vs.headD 0) 4 4 2 .rd (fun ea ps =>
      let pl := firstPlace ps
      let pk := s.kindAt c seg.val ea
      let e' := (lget 0 vs 1).lo
      if s1.watchOver c.k c.site pl 4 (scope.onPage pk) pk (holdsWord e') then
        (s1.watchDone c.site pl (scope.onPage pk)).advance c
      else s1.waitOn c (.watch seg ea pl scope e' s.cycle))))

/-- A waiting sheaf's instruction is over. -/
def Sheaf.finishWait (sh : Sheaf) (j : Nat) : Sheaf :=
  { sh with wait := none, ctl := { sh.ctl with splits := lmod (fun x => x.at (x.pc + 1)) sh.ctl.splits j } }

/-- Whether the word a sheaf waits on is still reached where it was: a lost or freed allocation wakes the sheaf, whose
instruction then issues again (R112, R183). -/
def State.stillThere (s : State) (pl : Place) : Bool :=
  match pl with
  | .gran site id _ => match s.alloc site id with
    | some a => a.state == .lit || (a.state == .refilling && a.relit)
    | none => false
  | _ => true

/-- A waiting sheaf reaches its word again, by the address it formed: where it cannot, its instruction issues again and meets
what is in the way (R183, R247, R291). Else the read completes the wait, or the wait goes on at the place now reached. -/
def State.reread (s : State) (k : Nat) (sh : Sheaf) (wg : Workgroup) (seg : Fin 8) (ea : Addr) (n : Nat) (scope : Scope)
    (waits : DWord → Bool) (since : Nat) (again : Place → Nat → Wait) : State :=
  match s.reach (viaOf k sh wg seg.val) ea n .rd with
  | .ok pl pk =>
    if s.watchOver k wg.site pl n (scope.onPage pk) pk waits then
      (s.watchDone wg.site pl (scope.onPage pk)).modSheaf k (fun x => x.finishWait x.waiter)
    else s.setSheaf k { sh with wait := some (again pl (if since + Config.rereadCycles ≤ s.cycle then s.cycle else since)) }
  | _ => s.setSheaf k { sh with wait := none }

/-- A watched word is read again, after a write to its line or 65,536 cycles (R182, R183). -/
def execWatchReread (k : Nat) (s : State) : Host.Outcome State Fault Refusal :=
  .next (match s.sheaf k with
    | none => s
    | some sh =>
      match sh.wait, s.wg sh.wg with
      | some (.watch seg ea _ scope e since), some wg =>
        s.reread k sh wg seg ea 4 scope (holdsWord e) since (fun pl t => .watch seg ea pl scope e t)
      | _, _ => s)

/-- `await` (R247). -/
def execAwait (seg : Fin 8) (p gen : GSrc) (s : State) : Host.Outcome State Fault Refusal :=
  issueStop s (fun c => groupVals s c [⟨2, p, 2⟩, ⟨3, gen, 1⟩] none (fun vs s1 =>
    let g : BitVec 16 := (lget 0 vs 1).setWidth 16
    match c.segAddr seg (vs.headD 0) 8 with
    | some ea =>
      if ea.toNat % 8 = 0 && s.unpinned (viaOf c.k c.sh c.wg seg.val) ea 8 then s.raise c { code := 0x1E, opnd := 2, addr := ea }
      else atSegment s s1 c vs seg (vs.headD 0) 8 8 2 .rd (fun ea ps =>
        let pl := firstPlace ps
        let pk := s.kindAt c seg.val ea
        if s1.watchOver c.k c.site pl 8 .dv pk (fun v => arrGen v == g) then (s1.watchDone c.site pl .dv).advance c
        else s1.waitOn c (.await seg ea pl g s.cycle))
    | none => atSegment s s1 c vs seg (vs.headD 0) 8 8 2 .rd (fun _ _ => s)))

/-- An awaited arrival word is read again (R247). -/
def execAwaitReread (k : Nat) (s : State) : Host.Outcome State Fault Refusal :=
  .next (match s.sheaf k with
    | none => s
    | some sh =>
      match sh.wait, s.wg sh.wg with
      | some (.await seg ea _ g since), some wg =>
        s.reread k sh wg seg ea 8 .dv (fun v => arrGen v == g) since (fun pl t => .await seg ea pl g t)
      | _, _ => s)

/-- A sheaf stalled on a queue port for 256 cycles is descheduled (R105). -/
def execQueuePortDeschedule (k : Nat) (s : State) : Host.Outcome State Fault Refusal :=
  .next (s.modSheaf k (fun sh =>
    match sh.ctl.splits.find? (fun x => x.stall == 8 && !x.parked) with
    | some x => if x.since + Config.portStallCycles ≤ s.cycle && sh.wait.isNone then { sh with wait := some (.port x.needs) } else sh
    | none => sh))

/-- The starvation guard (R107): a ready sheaf that has not issued on a pipe for 4,096 cycles goes first. -/
def execStarvationGuard (k : Nat) (group : Bool) (s : State) : Host.Outcome State Fault Refusal :=
  .next (s.modSheaf k (fun sh =>
    if (if group then sh.lastGroup else sh.lastLane) + Config.guardCycles ≤ s.cycle then
      (if group then { sh with nextFirstG := true } else { sh with nextFirst := true })
    else sh))

/-- Sheaves whose queues now hold what they wait for, or have left OPEN, become ready (R105, R224). -/
def State.wakePorts (s : State) : State :=
  s.mapSheaves (fun _ sh => match sh.wait with
    | some (.port ns) =>
      if s.portsReady ns || ns.any (fun x => (kget s.queues x.q).elim true (fun q => q.state != .opened)) then
        { sh with wait := none } else sh
    | _ => sh)

end Sys2Proof.Machine
end

