-- ==== Sys2Proof/Machine/LaneMatrix.lean ====
section
/-! DEFINITION. Leases, matrix operations and accumulator moves (14 R211 to R220, 16 R250 to R255). -/

namespace Sys2Proof.Machine

/-! ### Leases (R212, R250) -/

/-- Whether the kernel declared a thresher name (R211). -/
def Ctx.declared (c : Ctx) (t : Nat) : Bool := lget 0 c.wg.kernel.acc t != 0

/-- Whether the issuing sheaf holds the lease of a name. -/
def Ctx.holds (c : Ctx) (t : Nat) : Bool := lget none c.wg.leases t == some c.k

/-- A workgroup's lease given to a holder or freed. -/
def State.setLease (s : State) (wg t : Nat) (h : Option Nat) : State :=
  s.modWg wg (fun w => { w with leases := lset w.leases t h })

/-- A sheaf's reuse latch emptied (R217). -/
def State.clearLatch (s : State) (k t : Nat) : State := s.modSheaf k (fun sh => { sh with latches := lset sh.latches t [] })

/-- The oldest sheaf of a workgroup that waits for a lease (R212). -/
def State.leaseWaiter (s : State) (wg : Nat) (t : Fin 4) : Option Nat :=
  let ws := (s.sheavesOf wg).filter (fun p => p.2.wait == some (.lease t))
  (ws.foldl (fun (m : Option (Nat × Sheaf)) p => match m with
    | some q => if p.2.age < q.2.age then some p else some q
    | none => some p) none).map (·.1)

/-- The lease is released: free, or the oldest waiter's, whose `mlease` is over (R212). -/
def State.releaseLease (s : State) (wg : Nat) (t : Fin 4) : State :=
  match s.leaseWaiter wg t with
  | some k => (s.setLease wg t.val (some k)).modSheaf k (fun sh => sh.finishWait sh.waiter)
  | none => s.setLease wg t.val none

/-- `mlease` (R212, R250). -/
def execMlease (t : Fin 4) (s : State) : Host.Outcome State Fault Refusal :=
  issueStop s (fun c =>
    if !c.declared t.val then s.trap c 0x11 0
    else if c.holds t.val then s.advance c
    else if lget none c.wg.leases t.val == none then (s.setLease c.sh.wg t.val (some c.k)).advance c
    else s.waitOn c (.lease t))

/-- The next sheaf of a workgroup after an index, in `%sheaf` order, wrapping, that has not ended (R212). -/
def State.nextSheaf (s : State) (wg sidx n : Nat) : Option Nat :=
  (List.range n).findSome? (fun i =>
    ((s.sheavesOf wg).find? (fun p => p.2.sidx == (sidx + 1 + i) % n && !p.2.finished)).map (·.1))

/-- `mpass` (R212). A next sheaf that waits in `mlease` for the name has it. -/
def execMpass (t : Fin 4) (s : State) : Host.Outcome State Fault Refusal :=
  issue s (fun c =>
    if !c.declared t.val then s.trap c 0x11 0
    else if !c.holds t.val then s.trap c 0x10 0
    else
      let nk := (s.nextSheaf c.sh.wg c.sh.sidx c.wg.k).getD c.k
      let s1 := ((s.setLease c.sh.wg t.val (some nk)).clearLatch c.k t.val).advance c
      s1.modSheaf nk (fun sh => if sh.wait == some (.lease t) then sh.finishWait sh.waiter else sh))

/-- `mfree` (R212). -/
def execMfree (t : Fin 4) (s : State) : Host.Outcome State Fault Refusal :=
  issue s (fun c =>
    if !c.declared t.val then s.trap c 0x11 0
    else if !c.holds t.val then s.trap c 0x10 0
    else ((s.clearLatch c.k t.val).releaseLease c.sh.wg t).advance c)

/-- An accumulator read, whose registers are reserved (R254). -/
def TileFn.isRead : TileFn → Bool | .accrd .. => true | _ => false

/-- `mfence` (R218, R252): earlier loads and accumulator reads have delivered, and earlier granary stores have performed. -/
def execMfence (s : State) : Host.Outcome State Fault Refusal :=
  issue s (fun c =>
    let gran : Acc → Bool := fun a => match a.place with | .gran .. => a.kind.writes | _ => false
    if c.sh.loads != 0 || s.accs.any (fun a => a.k == c.k && gran a) || s.tops.any (fun x => x.k == c.k && x.fn.isRead) then
      s.stall c 18
    else s.advance c)

/-! ### Tiles -/

/-- A tile of a workgroup; one never written holds zeros at anchor 0 (log 2). -/
def State.tile (s : State) (wg : Nat) (t set : Fin 4) (n : Nat) : Tile :=
  (s.tiles.find? (fun x => x.wg == wg && x.t == t && x.set == set && x.tile == n)).getD ⟨wg, t, set, n, 0, 0, []⟩

/-- A tile replaced. -/
def State.putTile (s : State) (x : Tile) : State :=
  { s with tiles := x :: s.tiles.filter (fun y => !(y.wg == x.wg && y.t == x.t && y.set == x.set && y.tile == x.tile)) }

/-- Element (row, column) of a tile. -/
def Tile.elem (x : Tile) (r col : Nat) : A128 := (kget x.elems (r * 64 + col)).getD 0

/-- Element (row, column) replaced; elements that are 0 are not listed. -/
def Tile.putElem (x : Tile) (r col : Nat) (e : A128) : Tile :=
  { x with elems := if e = 0 then kdel x.elems (r * 64 + col) else kset x.elems (r * 64 + col) e }

/-- The octets of a mask (R213). -/
def octets (m : Mask) : List Nat := (List.range 8).filter (fun o => m.extractLsb' (8 * o) 8 != 0)

/-- The lanes of an octet in a mask. -/
def octetLanes (m : Mask) (o : Nat) : List Nat := (maskLanes m).filter (fun l => l / 8 == o)

/-! ### Format words (R214) -/

/-- `AFMT`, `BFMT`, `SMODE` of a format word that uses assigned codes. -/
def fmtParts (w : Word) : Option (ElemTy × ElemTy × Bool) :=
  match ElemTy.ofCode (w.extractLsb' 0 4).toNat, ElemTy.ofCode (w.extractLsb' 4 4).toNat with
  | some a, some b =>
    let m := (w.extractLsb' 8 4).toNat
    if m ≤ 1 && w.extractLsb' 12 4 == 0 then some (a, b, m == 1) else none
  | _, _ => none

/-- `ANCHOR`. -/
def fmtAnchor (w : Word) : BitVec 16 := w.extractLsb' 16 16

/-- Elements of a fragment (R213). -/
def fragCount (a : ElemTy) : Nat := 128 / elemBits a

/-- Bytes of a B tile, and with its scale row (R213). -/
def bBytes (a b : ElemTy) (scaled : Bool) : Nat := fragCount a * 64 * elemBits b / 8 + (if scaled then 64 else 0)

/-- A lane's format operand. -/
def fmtWord (s : State) (c : Ctx) (f : LReg) (l : Nat) : Word := (regRead s.free c.sh l f).1

/-- Whether all of a list are one value. -/
def allSame (ws : List Word) : Bool := ws.all (fun w => w == ws.headD 0)

/-- The anchor that a tile records once the operations already taken for it are carried out (R214, R219). -/
def State.anchorDue (s : State) (wg : Nat) (t set : Fin 4) (o : Nat) : BitVec 16 :=
  (s.tops.filter (fun x => x.wg == wg && x.t == t && x.set == set)).foldl (fun a x => match x.fn with
    | .accz b => b
    | .mma _ fmts _ true => ((fmts.find? (fun p => p.1 == o)).map (fun p => fmtAnchor p.2)).getD a
    | _ => a) (s.tile wg t set o).anchor

/-- The first failure of the format check, octet by octet (R214). -/
def State.fmtFault (s : State) (c : Ctx) (r : TileRef) (f : LReg) (zero : Bool) : Option Nat :=
  (octets c.sp.mask).findSome? (fun o =>
    let ws := (octetLanes c.sp.mask o).map (fmtWord s c f)
    if !allSame ws then some 0x0D
    else if (fmtParts (ws.headD 0)).isNone then some 0x0E
    else if !zero && fmtAnchor (ws.headD 0) != s.anchorDue c.sh.wg r.t r.set o then some 0x0F
    else none)

/-- The agreed format word of each octet with active lanes. -/
def octetFmts (s : State) (c : Ctx) (f : LReg) : List (Nat × Word) :=
  (octets c.sp.mask).map (fun o => (o, fmtWord s c f ((octetLanes c.sp.mask o).headD 0)))

/-! ### Issue (R251, R253 to R255) -/

/-- Checks 1 to 3 of R251, then dead reads under `.strict`, then the rest; a full counter stalls. -/
def tileChecks (s : State) (c : Ctx) (r : TileRef) (regs : List (Nat × LReg × Nat)) (go : State) : State :=
  checkNamed s c (regs.map (fun x => (x.1, x.2.1.top x.2.2)))
    (if !c.holds r.t.val then s.trap c 0x10 0
     else if lget 0 c.wg.kernel.acc r.t.val ≤ r.set.val then s.trap c 0x11 0
     else if c.sh.tiles ≥ 63 then s.stall c 7
     else go)

/-- Whether a lane's format word names a scale register (R214). -/
def scaledLane (s : State) (c : Ctx) (f : LReg) (l : Nat) : Bool := (fmtWord s c f l).extractLsb' 8 4 == 1

/-- Whether an active lane's scale register, where its octet names one that is declared, is dead, under `.strict` (R251). -/
def State.scaleDead (s : State) (c : Ctx) (a f : LReg) : Bool :=
  c.sh.strict && (a.top 5).any (fun k => k < c.sh.named) &&
    (maskLanes c.sp.mask).any (fun l => scaledLane s c f l && regsDead s.free c.sh l (a.nth 4) 1)

/-- The field of a dead register that a matrix instruction reads in an active lane, under `.strict` (R251). -/
def State.tileDead (s : State) (c : Ctx) (regs : List (Nat × LReg × Nat)) : Option Nat :=
  if c.sh.strict then
    (regs.find? (fun x => (maskLanes c.sp.mask).any (fun l => regsDead s.free c.sh l x.2.1 x.2.2))).map (·.1)
  else none

/-- A tile operation is taken by its thresher, in issue order (R219). -/
def State.takeTile (s : State) (c : Ctx) (r : TileRef) (fn : TileFn) (from_ : Option (Nat × BitVec 16)) : State :=
  let x : TileOp := ⟨s.nextKey, c.k, c.sh.wg, r.t, r.set, c.sp.mask, fn, from_, false, c.sp.pc, s.word, c.sh.ctl.origin, c.sh.hand.map (·.no)⟩
  ({ s with tops := s.tops ++ [x] }.bump).modSheaf c.k (fun sh => { sh with tiles := sh.tiles + 1 })

/-- The number of a named register. -/
def namedNo : LReg → Option Nat
  | .n k => some k.val
  | _ => none

/-- The A fragment and scale of a lane (R213), for the operation that reads them. -/
def fragOf (s : State) (sh : Sheaf) (a : XReg) (scaled : Bool) (op l : Nat) : Latch :=
  ⟨l, regsRead s.free sh l a 4, if scaled then ((regRead s.free sh l (a.nth 4)).1.setWidth 8) else 127, (namedNo a).getD 0, scaled, op⟩

/-- The allocation at a place. -/
def placeAlloc : Place → Option (Nat × BitVec 16)
  | .gran site id _ => some (site, id)
  | _ => none

/-- `mma` (R213 to R217, R251): rows 1 to 3, dead registers under `.strict`, then rows 4 to 9. -/
def execMma (r : TileRef) (a : XReg) (bg : Fin 8) (f : XReg) (reuse zero : Bool) (s : State) :
    Host.Outcome State Fault Refusal :=
  issue s (fun c =>
    tileChecks s c r [(2, a, 4), (4, f, 1)]
      (let latch := lget [] c.sh.latches r.t.val
       let fromLatch := reuse && !latch.isEmpty
       let dead := match s.tileDead c (if fromLatch then [] else [(2, a, 4)]) with
         | some fld => some fld
         | none => if !fromLatch && s.scaleDead c a f then some 2 else s.tileDead c [(4, f, 1)]
       match dead with
       | some fld => s.trap c 0x03 fld
       | none =>
         match s.fmtFault c r f zero with
         | some code => s.trap c code 4
         | none =>
           if (maskLanes c.sp.mask).any (scaledLane s c f) && (a.top 5).any (fun k => c.sh.named ≤ k) then s.trap c 0x04 2
           else
             let off := lget 0 c.sh.g bg.val
             let sg := lget ⟨0, 0, false⟩ c.sh.segs 1
             let sizes := (octetFmts s c f).map (fun p => match fmtParts p.2 with | some (x, y, z) => bBytes x y z | none => 0)
             let size := sizes.foldl max 1
             let ea := sg.base + off.setWidth 80
             if off.toNat % 64 != 0 then s.raise c { code := 0x07, opnd := 3, addr := ea }
             else match formAddr sg (off.setWidth 64) 0 size with
               | none => s.raise c { code := 0x08, opnd := 3, addr := ea }
               | some _ =>
                 match s.reachIssue (viaOf c.k c.sh c.wg 1) ea size .rd with
                 | .fault code alloc => s.raise c { code := code, opnd := 3, addr := ea, alloc := alloc }
                 | .loss site id o => s.raiseLoss c site id o 3 ea
                 | .lossWait site id => s.waitOn c (.loss site id)
                 | .stall n => s.stall c n
                 | .replay _ => s
                 | .ok pl _ =>
                   let lanes := maskLanes c.sp.mask
                   let frags := if fromLatch then latch.filter (fun x => lanes.contains x.lane)
                     else lanes.map (fun l => fragOf s c.sh a (scaledLane s c f l) s.nextKey l)
                   let s1 := s.takeTile c r (.mma off (octetFmts s c f) frags zero) (placeAlloc pl)
                   let s2 := if fromLatch then s1
                     else s1.modSheaf c.k (fun sh => { sh with latches := lset sh.latches r.t.val (if reuse then frags else []) })
                   s2.advance c))

/-- `accz` (R253). -/
def execAccz (r : TileRef) (f : XReg) (s : State) : Host.Outcome State Fault Refusal :=
  issue s (fun c =>
    tileChecks s c r [(4, f, 1)]
      (match s.tileDead c [(4, f, 1)] with
       | some fld => s.trap c 0x03 fld
       | none =>
         let hi := (maskLanes c.sp.mask).map (fun l => (fmtAnchor (fmtWord s c f l)).setWidth 32)
         if !allSame hi then s.trap c 0x0D 4
         else (s.takeTile c r (.accz ((hi.headD 0).setWidth 16)) none).advance c))

/-- The checks of a readout word and column (R254, R255); answers code and column. -/
def readChecks (s : State) (c : Ctx) (f : XReg) (col : Fin 8) (raw : Bool) (go : Nat → Nat → State) : State :=
  let ws := (maskLanes c.sp.mask).map (fmtWord s c f)
  let w := ws.headD 0
  let c0 := (lget 0 c.sh.g col.val).toNat
  if !allSame ws then s.trap c 0x0D 4
  else match (if w.extractLsb' 4 28 = 0 then readoutCount w.toNat else none) with
    | none => s.trap c 0x0E 4
    | some n =>
      if raw && w.toNat != 8 then s.trap c 0x0E 4
      else if 64 ≤ c0 || 64 < c0 + n then s.trap c 0x11 3
      else if c0 % n != 0 then s.trap c 0x07 3
      else go w.toNat c0

/-- `accrd` (R254): its destination quad is reserved. -/
def execAccrd (r : TileRef) (d : XReg) (col : Fin 8) (f : XReg) (sat : Bool) (s : State) : Host.Outcome State Fault Refusal :=
  issue s (fun c =>
    tileChecks s c r [(1, d, 4), (4, f, 1)]
      (match s.tileDead c [(4, f, 1)] with
       | some fld => s.trap c 0x03 fld
       | none => readChecks s c f col false (fun code c0 =>
           let s1 := s.takeTile c r (.accrd c0 code sat) none
           (s1.modLanes c.k (maskLanes c.sp.mask) (fun _ _ l => match namedNo d with
             | some k => { l with n := lsets l.n k (reserved s.nextKey 4) }
             | none => l)).advance c)))

/-- `accwr` (R255). -/
def execAccwr (r : TileRef) (src : XReg) (col : Fin 8) (f : XReg) (s : State) : Host.Outcome State Fault Refusal :=
  issue s (fun c =>
    tileChecks s c r [(2, src, 4), (4, f, 1)]
      (match s.tileDead c [(2, src, 4), (4, f, 1)] with
       | some fld => s.trap c 0x03 fld
       | none => readChecks s c f col true (fun _ c0 =>
           (s.takeTile c r (.accwr ((namedNo src).getD 0) c0
             ((maskLanes c.sp.mask).map (fun l => (l, regsRead s.free c.sh l src 4)))
             (c.sh.hand.any (fun h => h.fault.restore))) none).advance c)))

/-! ### Carrying out (R215, R218, R219) -/

/-- A register quad that still holds what was read at issue, or undefined values where it was changed (R218, log 16). -/
def stillHeld (s : State) (sh : Sheaf) (k l : Nat) (ws : List Word) : List Word :=
  let now := (List.range 4).map (fun i => (regRead s.free sh l (.n (Fin.ofNat 32 (k + i)))).1)
  if now = ws then ws else (List.range 4).map (fun i => Config.undef s.free l (100 + i))

/-- A fragment as an operation finds it: while the operation that reads its registers is not over, undefined where they were
changed (R218, log 16). -/
def Latch.now (s : State) (sh : Sheaf) (x : Latch) : Latch :=
  if s.tops.any (fun y => y.id == x.fill) then
    let scale := ((regRead s.free sh x.lane (.n (Fin.ofNat 32 (x.reg + 4)))).1).setWidth 8
    { x with frag := stillHeld s sh x.reg x.lane x.frag
             scale := if !x.scaled || scale == x.scale then x.scale else (Config.undef s.free x.lane 104).setWidth 8 }
  else x

/-- A list of fragments where one operation has read its own. -/
def refill (fill : Nat) (frags l : List Latch) : List Latch :=
  l.map (fun y => if y.fill == fill then (frags.find? (fun x => x.lane == y.lane)).getD y else y)

/-- What an operation has read stays in the latch it fills, and in the operations that reuse it (R217, R218). -/
def State.latchRead (s : State) (k id : Nat) (frags : List Latch) : State :=
  { s.modSheaf k (fun sh => { sh with latches := sh.latches.map (refill id frags) }) with
    tops := s.tops.map (fun y => match y.fn with
      | .mma b f l z => { y with fn := .mma b f (refill id frags l) z }
      | _ => y) }

/-- The terms of one row and column added (R215). -/
def addRow (e : A128) (anchor : Int) (fa fb : ElemTy) (frag : List Word) (sa : Nat) (bws : List Word) (sb col : Nat) : A128 :=
  (List.range (fragCount fa)).foldl (fun e k => addTerm e (term (elemAt fa frag k) (elemAt fb bws (k * 64 + col)) sa sb) anchor) e

/-- One octet of an `mma` (R215, R55). -/
def mmaOctet (x : Tile) (w : Word) (frags : List Latch) (zero : Bool) (o : Nat) (bytes : List Byte) : Tile :=
  match fmtParts w with
  | none => x
  | some (fa, fb, scaled) =>
    let x0 := if zero then { x with anchor := fmtAnchor w, count := 0, elems := [] } else x
    let count := x0.count + fragCount fa
    if 32768 < x0.count then { x0 with count := count }
    else if 32768 < count then
      { x0 with count := count, elems := (List.range 512).map (fun i => (i, A128.flag 0 bitCNT)) }
    else
      let size := bBytes fa fb false
      let bws := leWords (bytes.take size)
      let rows := frags.filter (fun f => f.lane / 8 == o)
      let x1 := rows.foldl (fun t f => (List.range 64).foldl (fun t col =>
        let sb := if scaled then (lget 0 bytes (size + col)).toNat else 127
        let sa := if scaled then f.scale.toNat else 127
        t.putElem (f.lane % 8) col (addRow (t.elem (f.lane % 8) col) x0.anchor.toInt fa fb f.frag sa bws sb col)) t) x0
      { x1 with count := count }

/-- The elements of a row packed into a quad (R50, R254). -/
def packQuad (x : Tile) (r c0 code : Nat) (sat : Bool) : List Word :=
  match readoutFmt code with
  | none => A128.words (x.elem r c0)
  | some (f, n) =>
    let total := (List.range n).foldl (fun acc j => acc + readout (x.elem r (c0 + j)) x.anchor.toInt f sat * 2 ^ (128 / n * j)) 0
    A128.words (BitVec.ofNat 128 total)

/-- Whether an operation names tiles of a join or is one (R219). -/
def TileFn.isJoin : TileFn → Bool | .mma .. => false | _ => true

/-- The octets an operation names. -/
def TileOp.octets (x : TileOp) : List Nat :=
  match x.fn with
  | .accz _ => List.range 8
  | _ => Machine.octets x.mask

/-- Whether an earlier-taken operation has to be carried out first (R219). -/
def State.tileBlocked (s : State) (x : TileOp) : Bool :=
  s.tops.any (fun y => y.id < x.id && y.wg == x.wg && y.t == x.t &&
    (if x.fn.isJoin then y.set == x.set && y.octets.any (fun o => x.octets.contains o) else y.fn.isJoin))

/-- The operation is over: its sheaf's counter falls (R218). -/
def State.tileDone (s : State) (x : TileOp) : State :=
  { s with tops := s.tops.filter (fun y => y.id != x.id) }.modSheaf x.k (fun sh => { sh with tiles := sh.tiles - 1 })

/-- The effect of an operation on the tiles and registers; `bytes` is the B tile with its scale row. An `accwr` writes, and counts,
whatever the tile's count is (log 32). -/
def State.carryOut (s : State) (x : TileOp) (bytes : List Byte) : State :=
  match s.sheaf x.k with
  | none => s
  | some sh =>
    let lanes := maskLanes x.mask
    match x.fn with
    | .mma _ fmts frags zero =>
      let now := frags.map (Latch.now s sh)
      (fmts.foldl (fun (t : State) p =>
        t.putTile (mmaOctet (t.tile x.wg x.t x.set p.1) p.2 now zero p.1 bytes)) s).latchRead x.k x.id now
    | .accz anchor => (List.range 8).foldl (fun (t : State) o => t.putTile ⟨x.wg, x.t, x.set, o, anchor, 0, []⟩) s
    | .accrd col code sat =>
      lanes.foldl (fun (t : State) l =>
        t.modLanes x.k [l] (fun _ _ ln => ln.mapEntries (Entry.fillNow x.id (packQuad (t.tile x.wg x.t x.set (l / 8)) (l % 8) col code sat)))) s
    | .accwr src col vals restoring =>
      let written := vals.map (fun p => (p.1, A128.ofWords (stillHeld s sh src p.1 p.2)))
      x.octets.foldl (fun (t : State) o =>
        let mine := written.filter (fun p => p.1 / 8 == o)
        let y := mine.foldl (fun z p => z.putElem (p.1 % 8) col p.2) (t.tile x.wg x.t x.set o)
        let big := mine.any (fun p => decide (2 ^ 110 ≤ (A128.v p.2).natAbs))
        t.putTile { y with count := if restoring then y.count else if big then 32768 else max y.count 16384 }) s

/-- A tile operation is carried out (R215, R218, R219). A B tile that was darkened, or that has gone, since the issue raises an
engine fault (R220). -/
def execTileOperationComplete (id : Nat) (s : State) : Host.Outcome State Fault Refusal :=
  .next (match s.tops.find? (fun x => x.id == id) with
    | none => s
    | some x =>
      if s.tileBlocked x then s
      else match x.fn with
        | .mma off fmts _ _ =>
          (match s.sheaf x.k, s.wg x.wg with
           | some sh, some wg =>
             let size := (fmts.map (fun p => match fmtParts p.2 with | some (a, b, z) => bBytes a b z | none => 0)).foldl max 1
             let ea := (lget ⟨0, 0, false⟩ sh.segs 1).base + off.setWidth 80
             let v := viaOf x.k sh wg 1
             let fail := (s.cancelTile id).engineFaultOn x.k x.pc x.word x.region (Config.engineCode s.free) x.byHand
             if x.lost then fail
             else match s.reachIssue v ea size .rd with
               | .stall _ => s
               | .ok _ _ => match s.hwPages v .rd (size / 65536 + 2) ea size with
                 | (t, .ok ps) => (t.carryOut x (t.sliceBytes ps)).tileDone x
                 | (_, .error _) => fail
               | _ => fail
           | _, _ => s)
        | _ => (s.carryOut x []).tileDone x)

end Sys2Proof.Machine
end

