-- ==== Sys2Proof/Machine/Tasks.lean ====
section
/-! DEFINITION. Tasks and future words (15 R228 to R235, 16 R256, R257). -/

namespace Sys2Proof.Machine

/-! ### Task control blocks (R228) -/

/-- The fields of a TCB that the hardware reads. -/
structure Tcb where
  entry : DWord
  w8 : Word
  dep : Word
  succ : DWord
  w18 : Word
  rstrt : Word
  args : List Word
  deriving DecidableEq, Repr

/-- A TCB from its 64 bytes. -/
def Tcb.of (bs : List Byte) : Tcb :=
  let ws := leWords bs
  ⟨DWord.ofPair (lget 0 ws 0) (lget 0 ws 1), lget 0 ws 2, lget 0 ws 3, DWord.ofPair (lget 0 ws 4) (lget 0 ws 5), lget 0 ws 6,
    lget 0 ws 7, ws.drop 8⟩

/-- `NAMED`. -/
def Tcb.named (t : Tcb) : Nat := (t.w8.extractLsb' 0 6).toNat
/-- Width from `WCODE`. -/
def Tcb.width (t : Tcb) : Nat := 8 * 2 ^ (t.w8.extractLsb' 6 2).toNat
/-- `GRAN`. -/
def Tcb.gran (t : Tcb) : Nat := (t.w8.extractLsb' 8 9).toNat
/-- `TSETS`. -/
def Tcb.tsets (t : Tcb) : Nat := (t.w8.extractLsb' 17 3).toNat
/-- `PRIO`. -/
def Tcb.prio (t : Tcb) : Nat := (t.w8.extractLsb' 20 2).toNat
/-- `GRANK`. -/
def Tcb.grank (t : Tcb) : Nat := (t.w8.extractLsb' 25 3).toNat
/-- `NSUCC`. -/
def Tcb.nsucc (t : Tcb) : Nat := (t.w18.extractLsb' 0 16).toNat
/-- `STATE`. -/
def Tcb.state (t : Tcb) : Nat := (t.w18.extractLsb' 16 3).toNat

/-- `STATE` of a TCB changed (R228): bits [2:0] of the byte at 0x1A. -/
def State.putTaskState (s : State) (ps : List (Place × Nat)) (n : Nat) : State := s.editField ps 0x1A 1 (fun b => b / 8 * 8 + n)

/-- A task enters the FIFO of its priority (R230). -/
def State.enterFifo (s : State) (p : Fin 16) (prio : Nat) (t : ReadyTask) : State :=
  let x := s.part p.val
  s.setPart p.val { x with fifos := lmod (fun l => l ++ [t]) x.fifos prio }

/-- Checks 3 to 5 of R229: the code of the first that fails. -/
def spawnFault (t : Tcb) (depth : Nat) : Option Nat :=
  if !(t.state == 0 || t.state == 4 || t.state == 5) || 32 < t.named || 4 < t.tsets || t.w8.extractLsb' 28 4 != 0 ||
      t.w18.extractLsb' 19 13 != 0 then some 0x02
  else if 8 ≤ depth then some 0x14
  else if 384 < t.gran || (t.grank == 7 && 16 < t.gran) then some 0x15
  else none

/-- `spawn` of a reached TCB (R229). -/
def State.spawnAt (s : State) (p : Fin 16) (asid : BitVec 16) (tcb : Addr) (ps : List (Place × Nat)) (depth stage : Nat)
    (record : Option RecordRef) : Except Nat State :=
  let t := Tcb.of (s.sliceBytes ps)
  match spawnFault t depth with
  | some c => .error c
  | none =>
    let rt : ReadyTask := ⟨tcb, asid, depth, stage, firstPlace ps, record⟩
    let s1 := s.editField ps 0x0A 2 (fun w => w % 2 ^ 6 + depth % 8 * 2 ^ 6 + w / 2 ^ 9 * 2 ^ 9)
    if t.dep = 0 then .ok ((s1.putTaskState ps 2).enterFifo p t.prio rt)
    else
      let s2 := s1.putTaskState ps 1
      let x := s2.part p.val
      .ok (s2.setPart p.val { x with waiting := x.waiting ++ [rt] })

/-- A task that has become READY, with its partition and priority. -/
structure Released where
  part : Nat
  prio : Nat
  task : ReadyTask
  deriving DecidableEq, Repr

/-- A waiting task leaves the waiting list of its partition (R230). A block whose `STATE` a program wrote as WAITING is in no
list: `t` is its entry, with a stage that nothing gives (log 27). -/
def State.unwait (s : State) (p : Fin 16) (u : ReadyTask) (prio : Nat) : State × Released :=
  match s.parts.findSome? (fun kp => (kp.2.waiting.find? (fun t => t.at_ == u.at_)).map (fun t => (kp.1, t))) with
  | none => (s, ⟨p.val, prio, u⟩)
  | some (k, t) =>
    let x := s.part k
    (s.setPart k { x with waiting := x.waiting.filter (fun v => v.at_ != u.at_) }, ⟨k, prio, t⟩)

/-- Where a task stands among others that enter in the same cycle: in ascending TCB address (R230). -/
def Released.insert (r : Released) : List Released → List Released
  | [] => [r]
  | x :: l => if x.task.tcb.toNat ≤ r.task.tcb.toNat then x :: r.insert l else r :: x :: l

/-- Tasks that become READY in one cycle enter the FIFOs (R230, R284). -/
def State.enterAll (s : State) (l : List Released) : State :=
  (l.foldl (fun (m : List Released) r => r.insert m) []).foldl (fun (t : State) r => t.enterFifo (Fin.ofNat 16 r.part) r.prio r.task) s

/-- `depdec` of a reached TCB, one indivisible update (R229), and the task that it makes READY. -/
def State.lowerDep (s : State) (p : Fin 16) (asid : BitVec 16) (tcb : Addr) (ps : List (Place × Nat)) : State × List Released :=
  let s0 := s.flushPieces (subPieces ps 0x0C 4)
  let t := Tcb.of (s0.sliceBytes ps)
  if t.dep = 0 then (s0, [])
  else
    let s1 := s0.putField ps 0x0C (leBytes 4 (t.dep - 1).toNat)
    if t.dep = 1 && t.state == 1 then
      let (s2, r) := (s1.putTaskState ps 2).unwait p
        ⟨tcb, asid, (t.w8.extractLsb' 22 3).toNat, (Config.undef s.free 64 0).toNat % 16, firstPlace ps, none⟩ t.prio
      (s2, [r])
    else (s1, [])

/-- `depdec` of a reached TCB (R229). -/
def State.depdecAt (s : State) (p : Fin 16) (asid : BitVec 16) (tcb : Addr) (ps : List (Place × Nat)) : State :=
  let (t, l) := s.lowerDep p asid tcb ps
  t.enterAll l

/-- The nesting depth a sheaf spawns at (R229). -/
def Ctx.spawnDepth (c : Ctx) : Nat := match c.wg.task with | some t => t.depth + 1 | none => 0

/-- `spawn` (R229, R256). -/
def execSpawn (p : GSrc) (s : State) : Host.Outcome State Fault Refusal :=
  issue s (fun c => groupVals s c [⟨2, p, 2⟩] none (fun vs s1 =>
    let a := vs.headD 0
    atShort s s1 c vs false true a 64 64 2 .wr (fun ps =>
      match s1.spawnAt c.wg.part c.wg.asid (shortAddr a).va ps c.spawnDepth c.wg.stage none with
      | .ok t => t.advance c
      | .error code => s.raise c { code := code, opnd := 2 })))

/-- `depset` (R229, R256). -/
def execDepset (p c : GSrc) (s : State) : Host.Outcome State Fault Refusal :=
  issue s (fun x => groupVals s x [⟨2, p, 2⟩, ⟨3, c, 1⟩] none (fun vs s1 =>
    atShort s s1 x vs false false (vs.headD 0) 64 64 2 .wr (fun ps =>
      let st := (Tcb.of (s1.sliceBytes ps)).state
      if 1 ≤ st && st ≤ 3 then s.raise x { code := 0x02, opnd := 2 }
      else (s1.putField ps 0x0C (leBytes 4 (lget 0 vs 1).lo.toNat)).advance x)))

/-- `depdec` (R229, R256). -/
def execDepdec (p : GSrc) (s : State) : Host.Outcome State Fault Refusal :=
  issue s (fun c => groupVals s c [⟨2, p, 2⟩] none (fun vs s1 =>
    atShort s s1 c vs false true (vs.headD 0) 64 64 2 .wr (fun ps =>
      (s1.depdecAt c.wg.part c.wg.asid (shortAddr (vs.headD 0)).va ps).advance c)))

/-! ### Future words (R234, R235, R257) -/

/-- `FST`. -/
def futState (w : DWord) : Nat := (w.extractLsb' 0 2).toNat

/-- A future word FULL with a 62-bit value. -/
def futFull (v : DWord) : DWord := (v <<< 2) ||| 1

/-- A future word POISONED with a code. -/
def futPoison (code : Nat) : DWord := (BitVec.ofNat 64 code <<< 2) ||| 2

/-- The old word delivered, and the sheaf goes on. -/
def State.giveOld (s : State) (c : Ctx) (d : GDst) (w : DWord) : State := (s.gWrite c d [w.lo, w.hi]).advance c

/-- `fread` (R235, R257). -/
def execFread (d : GDst) (p c : GSrc) (s : State) : Host.Outcome State Fault Refusal :=
  issue s (fun x => groupVals s x [⟨2, p, 2⟩, ⟨3, c, 2⟩] (some d) (fun vs s1 =>
      let a := vs.headD 0
      let k := lget 0 vs 1
      if a.toNat % 8 = 0 && k.toNat % 64 != 0 then s.raise x { code := 0x07, opnd := 3, addr := (shortAddr k).va }
      else
        atShort s s1 x vs true false a 8 8 2 .wr (fun ps =>
          let s2 := s1.flushPieces ps
          let old := leDWord (s2.sliceBytes ps)
          atShort s s1 x vs false false k 64 64 3 .wr (fun cs =>
            if futState old = 0 then
              (((s2.putField cs 0x38 (leBytes 8 old.toNat)).writePieces ps (leBytes 8 k.toNat)).dropLine x.site
                (firstPlace ps)).giveOld x d old
            else (if futState old = 1 then s2.dropL1 x.site else s2).giveOld x d old))))

/-- `fwrite` (R235, R257). -/
def execFwrite (d : GDst) (p v : GSrc) (s : State) : Host.Outcome State Fault Refusal :=
  issue s (fun c => groupVals s c [⟨2, p, 2⟩, ⟨3, v, 2⟩] (some d) (fun vs s1 =>
      let a := vs.headD 0
      let x := lget 0 vs 1
      if a.toNat % 8 = 0 && x.extractLsb' 62 2 != 0 then s.raise c { code := 0x02, opnd := 3 }
      else
        atShort s s1 c vs true true a 8 8 2 .wr (fun ps =>
          let s2 := s1.flushPieces ps
          let old := leDWord (s2.sliceBytes ps)
          (if futState old = 0 then (s2.writePieces ps (leBytes 8 (futFull x).toNat)).dropLine c.site (firstPlace ps)
            else s2).giveOld c d old)))

/-! ### What the hardware does to tasks and futures -/

/-- The place of a TCB that the hardware names for an address space. -/
def State.hwTcb (s : State) (asid : BitVec 16) (p : DWord) : State × Except Nat (List (Place × Nat)) :=
  if p.toNat % 64 != 0 then (s, .error 0x07) else s.hwShort asid .wr false p 64

/-- A distributor or command processor spawns a TCB, depth 0 and stage 0 (R226). -/
def State.hwSpawn (s : State) (p : Fin 16) (asid : BitVec 16) (tcb : DWord) (record : Option RecordRef) : Except Nat State :=
  match s.hwTcb asid tcb with
  | (_, .error c) => .error c
  | (t, .ok ps) => t.spawnAt p asid (shortAddr tcb).va ps 0 0 record

/-- The list of continuations that a write of a future has returned, walked (R235): each takes the value in `ARG0` and is
spawned; one that cannot be used ends the walk when its link cannot be read, and is skipped otherwise (R226). A list that comes
back to a continuation has no end: the walk stops there (log 27). No other list outlasts the count of all heads. -/
def State.walkFuture (s : State) (p : Fin 16) (asid : BitVec 16) (val : DWord) : Nat → List DWord → DWord → State
  | 0, _, _ => s
  | n + 1, seen, head =>
    if head = 0 || seen.contains head then s
    else match s.hwTcb asid head with
      | (t, .error _) => t
      | (t, .ok ps) =>
        let next := leDWord (((t.sliceBytes ps).drop 0x38).take 8)
        let t1 := t.putField ps 0x20 (leBytes 8 val.toNat)
        let t2 := match t1.hwSpawn p asid head none with
          | .ok u => u
          | .error _ => t1
        State.walkFuture t2 p asid val n (head :: seen) next

/-- A future written by the hardware, FULL or POISONED, and its continuations spawned (R226, R235, R312). `val` is what a
continuation receives. Answers whether the word could be read and written. -/
def State.hwFuture (s : State) (p : Fin 16) (asid : BitVec 16) (addr word val : DWord) : State × Bool :=
  if addr.toNat % 8 != 0 then (s, false)
  else match s.hwShort asid .wr true addr 8 with
    | (t, .error _) => (t, false)
    | (t, .ok ps) =>
      let u := t.flushPieces ps
      let old := leDWord (u.sliceBytes ps)
      if futState old = 0 then
        ((u.writePieces ps (leBytes 8 word.toNat)).walkFuture p asid val (2 ^ 58) [] (old &&& ~~~(0x3F#64)), true)
      else (u, true)

end Sys2Proof.Machine
end

