-- ==== Sys2Proof/Machine/Place.lean ====
section
/-! DEFINITION. Placement: what a core holds, where a workgroup fits, gangs placed afresh or again, tasks placed (06 R91 to
R94, R108, R109, 08 R131 to R133, 09 R142, R143, R146, R150, 15 R230, R231, 18 R279). -/

namespace Sys2Proof.Machine

/-! ### Allocation entries (R145) -/

/-- `STATE` of an allocation entry (R145). -/
def AllocState.num : AllocState → Nat
  | .lit => 0
  | .dark => 1
  | .refilling => 2
  | .shadowed => 3

/-- Word 0x00 of an allocation entry (R145). -/
def Alloc.word0 (a : Alloc) : Word :=
  BitVec.ofNat 32 (a.id.toNat + a.state.num * 2 ^ 16 + a.rank * 2 ^ 18 + b2n a.decl * 2 ^ 21 + b2n a.relit * 2 ^ 22)

/-- The 32 bytes of an allocation entry (R145). -/
def Alloc.entry (a : Alloc) : List Byte :=
  leBytes 4 a.word0.toNat ++ leBytes 4 a.woff ++ leBytes 4 a.size ++ leBytes 4 a.seq ++ leBytes 8 a.handler.toNat ++
    leBytes 8 a.backing.toNat

/-- The allocation entries of a workgroup, their bytes left aside. -/
def State.entriesOf (s : State) (wg site : Nat) : List Alloc :=
  ((s.core site).allocs.filter (fun a => a.wg == wg && !a.journal)).map (fun a => { a with data := [] })

/-! ### Granules (R142, R143, R150, R158) -/

/-- Granules of a size in bytes. -/
def granules (n : Nat) : Nat := (n + Config.granuleBytes - 1) / Config.granuleBytes

/-- Whether an allocation holds granules (R150, R151). -/
def Alloc.holds (a : Alloc) : Bool := a.state == .lit || (a.state == .refilling && a.relit)

/-- Granules held on a core. -/
def heldGranules (l : List Alloc) : Nat := l.foldl (fun n a => if a.holds then n + a.size else n) 0

/-- Granules of the pinned allocations of a core. -/
def pinnedGranules (l : List Alloc) : Nat := l.foldl (fun n a => if a.rank == 7 then n + a.size else n) 0

/-- Granules new storage may bring a core to: those of its lit silos, and of the pending level while a fall is pending
(R150, R158). -/
def State.capacity (s : State) (site : Nat) : Nat :=
  let d := s.die (dieOf site)
  let n := min d.level (s.core site).usable
  Config.granulesPerSilo * (match d.pending with | some (p, _) => min n p | none => n)

/-- Whether n granules of a rank fit on a core (R143, R150). -/
def State.granulesFit (s : State) (site n rank : Nat) : Bool :=
  let l := (s.core site).allocs
  heldGranules l + n ≤ s.capacity site && (rank != 7 || pinnedGranules l + n ≤ Config.granulesPerSilo)

/-- Whether a window range is free (R142). -/
def windowFree (l : List Alloc) (lo n : Nat) : Bool :=
  l.all (fun a => lo + n ≤ a.woff / Config.granuleBytes || a.woff / Config.granuleBytes + a.size ≤ lo)

/-- The lowest free window range of n granules; which one is the controller's choice (R142, log 27). -/
def freeWindow (l : List Alloc) (n : Nat) : Option Nat :=
  ((List.range (512 + 1 - n)).find? (fun lo => windowFree l lo n)).map (fun lo => lo * Config.granuleBytes)

/-- The next identifier from the core's counter, skipping 0 and those in use (R185). -/
def nextAllocId (l : List Alloc) : Nat → BitVec 16 → BitVec 16
  | 0, i => i
  | n + 1, i => if i = 0 || l.any (fun a => a.id == i) then nextAllocId l n (i + 1) else i

/-- An allocation made, if the core has granules and a window range for it (R142, R186). -/
def State.makeAlloc (s : State) (site wg : Nat) (d : AllocDecl) (decl : Bool) : Option (BitVec 16 × State) :=
  let n := granules d.size
  if !s.granulesFit site n d.rank then none
  else
    let c := s.core site
    match freeWindow c.allocs n with
    | none => none
    | some w =>
      let i := nextAllocId c.allocs (c.allocs.length + 2) c.nextId
      let a : Alloc := { id := i, state := .lit, rank := d.rank, decl := decl, relit := false, woff := w, size := n
                         seq := c.nextSeq, handler := d.handler, backing := d.backing, wg := wg, handSheaf := none
                         writeback := none, journal := false, data := [] }
      some (i, s.setCore site { c with allocs := c.allocs ++ [a], nextId := i + 1, nextSeq := c.nextSeq + 1 })

/-- Declared allocations made in order. -/
def State.makeAllocs (s : State) (site wg : Nat) : List AllocDecl → Option (List (BitVec 16) × State)
  | [] => some ([], s)
  | d :: ds =>
    match s.makeAlloc site wg d true with
    | none => none
    | some (i, t) => (State.makeAllocs t site wg ds).map (fun p => (i :: p.1, p.2))

/-! ### Slots, registers, tile sets (R91, R92, R109, R211) -/

/-- A taken slot position: slot, position, width, what shares the slot (a grid, or 0 for tasks; log 27), and the split table
entries held (R96). -/
structure Seat where
  slot : Nat
  pos : Nat
  width : Nat
  tag : Nat
  entries : Nat
  deriving DecidableEq, Repr

/-- What shares slots with a workgroup's sheaves. -/
def Workgroup.tag (s : State) (w : Workgroup) : Nat :=
  if w.task.isSome then 0 else (kget s.gangs w.gang).elim 0 (fun g => g.grid + 1)

/-- The sheaves that hold slots and registers on a core. -/
def State.residents (s : State) (site : Nat) : List (Nat × Sheaf) :=
  s.sheaves.filter (fun p => !p.2.ended && (s.wg p.2.wg).elim false (fun w => w.site == site && !w.away))

/-- The seats taken on a core. -/
def State.seats (s : State) (site : Nat) : List Seat :=
  (s.residents site).map (fun p => ⟨p.2.slot, p.2.pos, p.2.width, (s.wg p.2.wg).elim 0 (fun w => w.tag s), p.2.entries⟩)

/-- The seat a sheaf takes (R92). -/
def takeSeat (l : List Seat) (tag width : Nat) : Option Seat :=
  let fresh := ((List.range Config.slots).find? (fun i => l.all (fun x => x.slot != i))).map (fun i => (⟨i, 0, width, tag, 1⟩ : Seat))
  if width = 64 then fresh
  else
    let shared := (List.range Config.slots).findSome? (fun i =>
      if l.any (fun x => x.slot == i && x.tag == tag && x.width == width) &&
          l.foldl (fun n x => if x.slot == i then n + x.entries else n) 0 < 8 then
        ((List.range (64 / width)).find? (fun p => l.all (fun x => x.slot != i || x.pos != p))).map
          (fun p => (⟨i, p, width, tag, 1⟩ : Seat))
      else none)
    match shared with
    | some x => some x
    | none => fresh

/-- Seats of n sheaves in sheaf order (R92). -/
def takeSeats (l : List Seat) (tag width : Nat) : Nat → Option (List Seat)
  | 0 => some []
  | n + 1 =>
    match takeSeat l tag width with
    | none => none
    | some x => (takeSeats (x :: l) tag width n).map (fun xs => x :: xs)

/-- Register bytes of a sheaf (R13, R109). -/
def sheafBytes (width named : Nat) : Nat := width * (16 + (named + 7) / 8 * 8) * 4

/-- Register bytes taken on a core. -/
def State.regBytes (s : State) (site : Nat) : Nat :=
  (s.residents site).foldl (fun n p => n + sheafBytes p.2.width p.2.named) 0

/-- The workgroups resident on a core. -/
def State.workgroupsOn (s : State) (site : Nat) : List (Nat × Workgroup) :=
  s.wgs.filter (fun p => p.2.site == site && !p.2.ended && !p.2.away)

/-- Tile sets bound on a core. -/
def State.boundSets (s : State) (site : Nat) : List (Nat × Nat) := (s.workgroupsOn site).flatMap (fun p => p.2.binds.flatten)

/-- Tile sets for declared names, each name on a thresher of its own (R211): the first assignment that fits. -/
def bindTiles (used : List (Nat × Nat)) (busy : List Nat) : List Nat → Option (List (List (Nat × Nat)))
  | [] => some []
  | 0 :: ns => (bindTiles used busy ns).map (fun l => [] :: l)
  | n :: ns => (List.range 4).findSome? (fun t =>
      let free := (List.range 4).filter (fun x => !used.contains (t, x))
      if busy.contains t || free.length < n then none
      else (bindTiles used (t :: busy) ns).map (fun l => ((free.take n).map (fun x => (t, x))) :: l))

/-- What a workgroup is given on a core where it fits (R109), its allocations apart. -/
def State.roomFor (s : State) (site tag k : Nat) (kr : Kernel) : Option (List Seat × List (List (Nat × Nat))) :=
  let c := s.core site
  if c.noPlace || c.retired || Config.maxResident ≤ (s.workgroupsOn site).length ||
      Config.regFileBytes < s.regBytes site + k * sheafBytes kr.width kr.named then none
  else
    match takeSeats (s.seats site) tag kr.width k, bindTiles (s.boundSets site) [] kr.acc with
    | some xs, some b => some (xs, b)
    | _, _ => none

/-! ### Launch values (R9, R18, R231) -/

/-- `seg1` (R18, R146). -/
def seg1Of (site : Nat) : Segment := ⟨BitVec.ofNat 80 (Config.apertureBase + site * Config.windowBytes), 0x7FFFFF, true⟩

/-- `seg2` (R18, R146). -/
def seg2Of (site m : Nat) (aliasNo : Option Nat) : Segment :=
  match aliasNo with
  | some a => ⟨BitVec.ofNat 80 (Config.apertureBase + Config.aliasBase + a * Config.aliasBytes),
      BitVec.ofNat 64 (m * Config.windowBytes - 1), true⟩
  | none => seg1Of site

/-- The segments at launch (R18, R330). -/
def launchSegs (site m : Nat) (aliasNo : Option Nat) (stack : DWord) (stackLen : Nat) (args : Addr) (alen : Nat) : List Segment :=
  [⟨0, 0xFFFFFFFFFFFFFFFF, true⟩, seg1Of site, seg2Of site m aliasNo, ⟨stack.setWidth 80, BitVec.ofNat 64 (stackLen - 1), true⟩,
   if alen = 0 then ⟨args, 0, false⟩ else ⟨args, BitVec.ofNat 64 (alen - 1), true⟩, ⟨0, 0, false⟩, ⟨0, 0, false⟩, ⟨0, 0, false⟩]

/-- The program counter of a 64-bit address. -/
def pcOf (p : DWord) : BitVec 78 := (p.extractLsb' 2 62).setWidth 78

/-- A control state of one split (R96). -/
def Ctl.single (pc : BitVec 78) (mask : Mask) (origin : Option (BitVec 78 × Mask)) : Ctl :=
  ⟨[Split.fresh pc mask], [], [], origin, 0, 0⟩

/-- A sheaf at launch (R9, R18, R71, R96, R128, R129). -/
def Sheaf.launch (age wg sidx : Nat) (seat : Seat) (kr : Kernel) (trap : DWord) (segs : List Segment) (g : List Word)
    (origin : Bool) (now : Nat) : Sheaf :=
  let mask := maskAll kr.width
  { age := age, wg := wg, sidx := sidx, slot := seat.slot, pos := seat.pos, width := kr.width, named := kr.named
    strict := kr.strict, trapEntry := trap, lanes := List.replicate kr.width Lane.launch, g := g, segs := segs
    ctl := Ctl.single (pcOf kr.entry) mask (if origin then some (pcOf kr.entry, mask) else none)
    loads := 0, stores := 0, copies := 0, tiles := 0, rmarks := List.replicate 8 0, rdepth := 0, sleep := none, wait := none
    recorded := none, nap := none, ports := List.replicate 8 none, pend := none, hand := none, engine := none, restarting := false
    smashed := false
    preempt := false, slice := false, timer := false, haltReq := false, halted := false, saving := .none
    latches := List.replicate 4 [], seen := List.replicate 16 0, lastLane := now, lastGroup := now, nextFirst := false
    nextFirstG := false, yielded := false, yieldedG := false, ended := false }

/-- The trap entry a kernel names, or the partition's (R264). -/
def State.trapFor (s : State) (p : Fin 16) (kr : Kernel) : DWord := if kr.trape = 0 then (s.part p.val).trapEntry else kr.trape

/-- The stack area of a sheaf of a grid: its number in the grid, each area with 576 bytes below it (R102, log 27). -/
def Grid.stackOf (g : Grid) (stage gang wg sheaf : Nat) : DWord :=
  let n := ((stage * g.gangs + gang) * g.m + wg) * g.k + sheaf
  g.stackBase + BitVec.ofNat 64 (n * (g.kernel.stack + 576) + 576)

/-! ### One workgroup placed -/

/-- The launch age of a sheaf: kept from before (R108), or the next. -/
def ageOf (ages : List Nat) (base i : Nat) : Nat := match ages[i]? with | some a => a | none => base + i

/-- Sheaves of a fresh workgroup put in their seats. -/
def State.seatSheaves (s : State) (w : Nat) (mk : Nat → Seat → Sheaf) : Nat → List Seat → State
  | _, [] => s
  | i, x :: xs => State.seatSheaves ({ s with sheaves := s.sheaves ++ [(s.nextKey, mk i x)] }.bump) w mk (i + 1) xs

/-- What a member of a gang needs to start afresh. -/
structure Start where
  gangKey : Nat
  grid : Grid
  gridKey : Nat
  stage : Nat
  gangNo : Nat
  aliasNo : Option Nat
  task : Option Task
  args : Addr
  g : List Word
  deriving DecidableEq, Repr

/-- Workgroup `idx` of a gang placed afresh on a core, if it fits there (R109, R131, R231). -/
def State.placeFresh (s : State) (x : Start) (idx site : Nat) (ages : List Nat) : Option State :=
  let kr := x.grid.kernel
  match s.roomFor site (if x.task.isSome then 0 else x.gridKey + 1) x.grid.k kr with
  | none => none
  | some (seats, binds) =>
    let key := s.nextKey
    match s.bump.makeAllocs site key kr.allocs with
    | none => none
    | some (ids, s1) =>
      let w : Workgroup :=
        { gang := x.gangKey, idx := idx, part := x.grid.part, asid := x.grid.asid, site := site, stage := x.stage
          gangNo := x.gangNo, k := x.grid.k, m := x.grid.m, kernel := kr, breg := List.replicate 16 0, bpast := [], barGen := 0
          decls := ids, binds := binds, leases := List.replicate 4 none, held := none, joins := List.replicate 4 none
          task := x.task, killed := false, ended := false, saveArea := 0, savedAllocs := none, away := false }
      let s2 := { s1 with wgs := s1.wgs ++ [(key, w)] }
      let trap := s.trapFor x.grid.part kr
      let mk : Nat → Seat → Sheaf := fun i seat =>
        let stack := match x.task with
          | some t => t.stack
          | none => x.grid.stackOf x.stage x.gangNo idx i
        Sheaf.launch (ageOf ages s.ages (idx * x.grid.k + i)) key i seat kr trap
          (launchSegs site x.grid.m x.aliasNo stack kr.stack x.args x.grid.alen) x.g x.task.isSome s.cycle
      let s3 := s2.seatSheaves key mk 0 seats
      some ((s3.decision x.grid.part x.grid.asid 2 site
        (match x.task with
         | some t => t.tcb.extractLsb' 0 64
         | none => match x.grid.record with
           | some r => (match (kget s.queues r.q).map (fun y => y.slot r.i) with
             | some (Place.hbm pa) => BitVec.ofNat 64 pa
             | some (Place.gran _ _ o) => BitVec.ofNat 64 o
             | _ => 0)
           | none => 0)
        (BitVec.ofNat 64 (ageOf ages s.ages (idx * x.grid.k)))))

/-! ### A saved workgroup placed again (R156, R279) -/

/-- An allocation recreated at its window offset (R146, R156): LIT or SHADOWED as it was, else DARK; of its bytes a saved entry
keeps those of a journal alone (log 33). -/
def Alloc.again (a : Alloc) : Alloc :=
  { a with state := (match a.state with | .refilling => .dark | x => x), relit := false, handSheaf := none, writeback := none }

/-- Whether saved allocations can be recreated on a core: identifiers and window ranges free, granules there. -/
def State.againFits (s : State) (site : Nat) (l : List Alloc) : Bool :=
  let c := (s.core site).allocs
  let lit := heldGranules (l.map Alloc.again)
  l.all (fun a => windowFree c (a.woff / Config.granuleBytes) a.size && c.all (fun b => b.id != a.id)) &&
    heldGranules c + lit ≤ s.capacity site && pinnedGranules c + pinnedGranules l ≤ Config.granulesPerSilo

/-- A sheaf before its restore entry (R277, R279): fresh registers and segments, the saved control state stopped, and the
restore pending, whose entry writes the record with `RESTORE` (R270). -/
def Sheaf.restored (sh : Sheaf) (seat : Seat) (kr : Kernel) (segs : List Segment) (slot : DWord) (now : Nat) : Sheaf :=
  let base := Sheaf.launch sh.age sh.wg sh.sidx seat kr sh.trapEntry segs (List.replicate 32 0) false now
  let f := { (({ code := 0x1C, opnd := 0 } : Exc).record 0 ((sh.ctl.splits.headD (Split.fresh 0 0)).pc) 0 sh.trapEntry) with
             save := slot, restore := true }
  { base with
    rmarks := sh.rmarks, rdepth := sh.rdepth, ports := sh.ports, latches := sh.latches, engine := sh.engine
    slice := sh.slice, haltReq := sh.haltReq, saving := .restoreDue, recorded := sh.recorded, nap := sh.nap
    smashed := sh.smashed, pend := some f
    ctl := { sh.ctl with splits := stopOthers none sh.ctl.splits } }

/-- The context save slot of a sheaf (R277). -/
def saveSlot (area : DWord) (sidx : Nat) : DWord := area + BitVec.ofNat 64 (0x1000 + sidx * 0x4000)

/-- Sheaves of a saved workgroup put in their new seats; those that had ended stay so. -/
def seatAgain (w : Workgroup) (segs : Nat → List Segment) (now : Nat) : List (Nat × Sheaf) → List Seat → List (Nat × Sheaf)
  | [], _ => []
  | (k, sh) :: l, seats =>
    if sh.ended then (k, sh) :: seatAgain w segs now l seats
    else match seats with
      | [] => (k, sh) :: seatAgain w segs now l []
      | x :: xs => (k, sh.restored x w.kernel (segs sh.sidx) (saveSlot w.saveArea sh.sidx) now) :: seatAgain w segs now l xs

/-- A saved workgroup placed on a core, if it fits there. -/
def State.placeAgain (s : State) (x : Start) (v : SavedWg) (site : Nat) : Option State :=
  let alive := (v.sheaves.filter (fun p => !p.2.ended)).length
  match s.roomFor site (if v.wg.task.isSome then 0 else x.gridKey + 1) alive v.wg.kernel with
  | none => none
  | some (seats, binds) =>
    if !s.againFits site v.allocs then none
    else
      let w := { v.wg with gang := x.gangKey, site := site, binds := binds, breg := List.replicate 16 0, bpast := []
                           leases := v.wg.held.getD v.wg.leases, held := none, savedAllocs := none, away := false }
      let segs : Nat → List Segment := fun i =>
        let stack := match w.task with
          | some t => t.stack
          | none => x.grid.stackOf x.stage x.gangNo w.idx i
        launchSegs site x.grid.m x.aliasNo stack w.kernel.stack x.args x.grid.alen
      let s1 := (s.dropL1 site).modCore site (fun c => { c with allocs := c.allocs ++ v.allocs.map Alloc.again })
      let moved : Place → Place := fun pl => match pl with
        | .gran t i o => if t == v.wg.site && v.allocs.any (fun a => a.id == i) then .gran site i o else pl
        | _ => pl
      let s2 : State := { s1 with
        wgs := s1.wgs ++ [(v.key, w)]
        sheaves := s1.sheaves ++ seatAgain w segs s.cycle v.sheaves seats
        tiles := v.tiles.map (fun t => { t with elems := [] }) ++ s1.tiles
        queues := s1.queues.map (fun q => (q.1, { q.2 with ring := moved q.2.ring }))
        joins := s1.joins.map (fun j => (j.1, { j.2 with members := j.2.members.map (fun m =>
          if m.wg == v.key then { m with jsite := site } else m) })) }
      some (s2.decision w.part w.asid 2 site 0 (BitVec.ofNat 64 ((v.sheaves.headD (0, (Sheaf.launch 0 0 0 ⟨0, 0, 8, 0, 1⟩ v.wg.kernel 0 [] [] false 0))).2.age)))

/-! ### Gangs (R109) -/

/-- A member placed on the first core of a list that holds it. -/
def firstCore (f : Nat → Option State) : List Nat → Option State
  | [] => none
  | c :: cs => match f c with | some s => some s | none => firstCore f cs

/-- Members from `idx` on, in order, each on the lowest core that holds it. -/
def State.placeMembers (s : State) (x : Start) (pg : PendingGang) (cores : List Nat) (idx : Nat) : Nat → Option State
  | 0 => some s
  | n + 1 =>
    match firstCore (fun c => match pg.saved[idx]? with
        | some v => s.placeAgain x v c
        | none => s.placeFresh x idx c pg.ages) cores with
    | none => none
    | some t => State.placeMembers t x pg cores (idx + 1) n

/-- The lowest alias range no gang holds (R146). -/
def State.freeAlias (s : State) : Nat :=
  ((List.range 7680).find? (fun a => s.gangs.all (fun g => g.2.aliasNo != some a))).getD 0

/-- A gang placed whole on one die, dies in order, if it fits (R109). -/
def State.placeGang (s : State) (gridKey : Nat) (g : Grid) (pg : PendingGang) (task : Option Task) (args : Addr) (gs : List Word) :
    Option State :=
  let key := s.nextKey
  let aliasNo := if 2 ≤ g.m then some s.freeAlias else none
  let x : Start := ⟨key, g, gridKey, pg.stage, pg.gangNo, aliasNo, task, args, gs⟩
  let fresh : Gang := ⟨gridKey, [], aliasNo, pg.barGen, s.cycle, false, pg.kept⟩
  let s0 := { s with gangs := s.gangs ++ [(key, fresh)] }.bump
  let cores := (s.part g.part.val).cores
  let placed := (List.range 4).findSome? (fun d =>
    (s0.placeMembers x pg (cores.filter (fun c => dieOf c == d)) 0 g.m))
  placed.map (fun (t : State) =>
    let members := if pg.saved.isEmpty then ((t.wgs.filter (fun w => w.2.gang == key)).map (·.1)) else pg.saved.map (·.key)
    let t1 := { t with gangs := t.gangs.map (fun y => if y.1 == key then (y.1, { y.2 with members := members }) else y) }
    if pg.ages.isEmpty then { t1 with ages := t1.ages + g.m * g.k } else t1)

/-- One grid's pending list served from its head (R109): nothing overtakes the head; a gang that still waits for a recorded
wait is not in the list (R112). -/
def State.serveGrid (s : State) (k : Nat) : Nat → State
  | 0 => s
  | n + 1 =>
    match kget s.grids k with
    | none => s
    | some g =>
      match g.pending.find? (fun p => !p.waits) with
      | none => s
      | some pg =>
        let task := (pg.saved.head?).bind (fun v => v.wg.task)
        let args := match task with | some t => t.tcb | none => localAddr g.args
        match s.placeGang k g pg task args (List.replicate 32 0) with
        | none => s
        | some t => State.serveGrid (t.setGrid k { g with pending := g.pending.erase pg }) k n

/-! ### Tasks (R230, R231) -/

/-- A task as a kernel of one sheaf (R231). -/
def Tcb.kernel (t : Tcb) : Kernel :=
  { width := t.width, named := t.named, strict := false, idemp := false, stages := 1, entry := t.entry, trape := 0, stack := 4096
    allocs := if t.gran = 0 then [] else [⟨t.gran * Config.granuleBytes, t.grank, 0, 0⟩], acc := [t.tsets, 0, 0, 0] }

/-- A task at the head of a FIFO placed, if it fits: on the lowest core of the partition in die order (R230, R231). -/
def State.placeTask (s : State) (p : Fin 16) (r : ReadyTask) : Option State :=
  let tcb := Tcb.of (s.readPlace r.at_ 64)
  let area := match (s.part p.val).stackPool with
    | a :: _ => a
    | [] => (s.part p.val).stackNext + 576
  let g : Grid := { part := p, asid := r.asid, kernel := tcb.kernel, gangs := 1, m := 1, k := 1, stages := 1, alen := 64
                    args := r.tcb.extractLsb' 0 64, donef := 0, stackBase := 0, pending := [], left := 1, record := none }
  let task : Task := ⟨r.tcb, r.depth, area, false, r.at_, r.record⟩
  let key := s.nextKey
  let s0 := { s with grids := s.grids ++ [(key, g)] }.bump
  (s0.placeGang key g ⟨r.stage, 0, [], [], [], 0, false⟩ (some task) r.tcb (tcb.args.take 8 ++ List.replicate 24 0)).map (fun t =>
    let x := t.part p.val
    let t1 := t.setPart p.val (match x.stackPool with
      | _ :: l => { x with stackPool := l }
      | [] => { x with stackNext := x.stackNext + 4096 + 576 })
    -- what releases a task orders earlier accesses before the task's, at `.dv` (R232)
    let site := ((t1.wgs.getLast?).map (fun w => w.2.site)).getD 0
    (t1.dropL1 site).putTaskState [(r.at_, 64)] 3)

/-- One FIFO served from its head (R230). -/
def State.serveFifo (s : State) (p : Fin 16) (prio : Nat) : Nat → State
  | 0 => s
  | n + 1 =>
    match ((s.part p.val).fifos[prio]?).getD [] with
    | [] => s
    | r :: _ =>
      match s.placeTask p r with
      | none => s
      | some t =>
        let x := t.part p.val
        State.serveFifo (t.setPart p.val { x with fifos := lmod (fun l => l.tail) x.fifos prio }) p prio n

/-- The distributor of a partition retries placement: its grids' pending lists, in launch order (log 32), then the FIFOs from
priority 3 down (R109, R132, R133, R230). -/
def State.retry (s : State) (part : Fin 16) : State :=
  let mine := s.grids.filter (fun g => g.2.part == part)
  let s1 := mine.foldl (fun (t : State) g => t.serveGrid g.1 g.2.pending.length) s
  [3, 2, 1, 0].foldl (fun (t : State) i => t.serveFifo part i (((t.part part.val).fifos[i]?).getD []).length) s1

/-- Every distributor retries: after the end of a workgroup, once all that ended in the same cycle are released (R109, R133), or
after a rise of a level (R132). -/
def State.retryAll (s : State) : State := ((List.range 16).filter (fun p => (kget s.parts p).isSome)).foldl
  (fun (t : State) p => t.retry (Fin.ofNat 16 p)) s

/-- A distributor retries placement (R109, R132, R133, R230). -/
def execWorkgroupPlacement (part : Fin 16) (s : State) : Host.Outcome State Fault Refusal := .next (s.retry part)

end Sys2Proof.Machine
end

