-- ==== Sys2Proof/Machine/Joins.lean ====
section
/-! DEFINITION. Quorum joins: binding, contributing, arriving, kill points, the finaliser (15 R236 to R244, 16 R258 to R261,
18 R281). -/

namespace Sys2Proof.Machine

/-! ### Join blocks (R236) -/

/-- The fields of a join block. -/
structure Block where
  ws : List Word
  deriving DecidableEq, Repr

/-- A block from its 256 bytes. -/
def Block.of (bs : List Byte) : Block := ⟨leWords bs⟩
/-- A word by its number. -/
def Block.w (b : Block) (i : Nat) : Word := lget 0 b.ws i
/-- A 64-bit field by the number of its low word. -/
def Block.d (b : Block) (i : Nat) : DWord := DWord.ofPair (b.w i) (b.w (i + 1))
/-- `NPART`. -/
def Block.npart (b : Block) : Nat := ((b.w 0).extractLsb' 0 16).toNat
/-- `STATE`. -/
def Block.state (b : Block) : Nat := ((b.w 0).extractLsb' 16 3).toNat
/-- `FILL`. -/
def Block.fill (b : Block) : Nat := ((b.w 0).extractLsb' 19 3).toNat
/-- `DFMT`. -/
def Block.dfmt (b : Block) : Nat := ((b.w 0).extractLsb' 22 4).toNat
/-- `DSAT`. -/
def Block.dsat (b : Block) : Bool := (b.w 0).getLsbD 26
/-- `GEN`. -/
def Block.gen (b : Block) : BitVec 16 := (b.w 1).extractLsb' 0 16
/-- `QNUM`. -/
def Block.qnum (b : Block) : Nat := ((b.w 2).extractLsb' 0 16).toNat
/-- `QDEN`. -/
def Block.qden (b : Block) : Nat := ((b.w 2).extractLsb' 16 16).toNat
/-- `TOTW`. -/
def Block.totw (b : Block) : Nat := (b.d 4).toNat
/-- `ARRW`. -/
def Block.arrw (b : Block) : Nat := (b.d 6).toNat
/-- `WARR`. -/
def Block.warr (b : Block) : DWord := b.d 8
/-- `BMAP`. -/
def Block.bmap (b : Block) : DWord := b.d 10
/-- `ABUF`. -/
def Block.abuf (b : Block) : DWord := b.d 12
/-- `NELEM`. -/
def Block.nelem (b : Block) : Nat := (b.w 14).toNat
/-- `ANCHOR`. -/
def Block.anchor (b : Block) : BitVec 16 := (b.w 15).extractLsb' 0 16
/-- `FBUF`. -/
def Block.fbuf (b : Block) : DWord := b.d 16
/-- `DEST`. -/
def Block.dest (b : Block) : DWord := b.d 18
/-- `NARR`. -/
def Block.narr (b : Block) : Nat := (b.w 20).toNat
/-- `NCOND`. -/
def Block.ncond (b : Block) : Nat := (b.w 21).toNat

/-- A reserved field is set, or a field lies outside its range (R236, R237). -/
def Block.bad (b : Block) : Bool :=
  b.npart == 0 || 4096 < b.npart || 3 ≤ b.state || 4 ≤ b.fill || 6 ≤ b.dfmt || (b.w 0).extractLsb' 27 5 != 0 ||
  (b.w 1).extractLsb' 16 16 != 0 || b.qden == 0 || b.qden < b.qnum || b.w 3 != 0 || b.nelem == 0 || 16384 < b.nelem ||
  (b.w 15).extractLsb' 16 16 != 0 || (b.ws.drop 22).any (· != 0)

/-- Bits of a destination element (R236, R50). -/
def Block.elemBits (b : Block) : Nat := match readoutFmt b.dfmt with | some (f, _) => f.width | none => 32

/-- Bytes of the destination. -/
def Block.destBytes (b : Block) : Nat := (b.nelem * b.elemBits + 7) / 8

/-! ### What the quorum table does in memory -/

/-- The block of a join. -/
def State.joinBlock (s : State) (j : Join) : Block := Block.of (s.readPlace j.at_ 256)

/-- Bytes of the block written. -/
def State.putBlock (s : State) (j : Join) (off : Nat) (bs : List Byte) : State := s.writePlace (j.at_.plus off) bs

/-- A short address in the block of a join: in the block of another device's join, one of that device (R244, log 25). -/
def homeAddr (block : Place) (p : DWord) : DWord :=
  match block, shortAddr p with
  | .pod dev _, .plain va => if va.getLsbD 79 then p else 1#1 ++ BitVec.ofNat 13 dev ++ p.extractLsb' 0 50
  | _, _ => p

/-- Bytes of a buffer the block names. -/
def State.joinBytes (s : State) (j : Join) (p : DWord) (n : Nat) : List Byte × State :=
  match s.hwShort j.asid .rd false (homeAddr j.at_ p) n with
  | (t, .ok ps) => (t.sliceBytes ps, t)
  | (t, .error _) => (List.replicate n 0, t)

/-- Bytes of a buffer the block names, written. -/
def State.putJoinBytes (s : State) (j : Join) (p : DWord) (bs : List Byte) : State :=
  match s.hwShort j.asid .wr false (homeAddr j.at_ p) bs.length with
  | (t, .ok ps) => t.writePieces ps bs
  | (t, .error _) => t

/-- Elements from bytes. -/
def elemsOf : Nat → List Byte → List A128
  | 0, _ => []
  | n + 1, bs => BitVec.ofNat 128 (leNat (bs.take 16)) :: elemsOf n (bs.drop 16)

/-- Bytes of elements. -/
def elemBytes (l : List A128) : List Byte := l.flatMap (fun e => leBytes 16 e.toNat)

/-- A participant's journal as it stands, on its core or with its saved workgroup. -/
def State.journalAlloc (s : State) (m : Member) : Option Alloc :=
  match (s.alloc m.jsite m.jid).filter (fun a => a.wg == m.wg) with
  | some a => some a
  | none => s.grids.findSome? (fun g => g.2.pending.findSome? (fun p => p.saved.findSome? (fun v =>
      if v.key == m.wg then v.allocs.find? (fun a => a.id == m.jid) else none)))

/-- The journal's elements. -/
def State.journal (s : State) (m : Member) (n : Nat) : List A128 :=
  match m.away, s.journalAlloc m with
  | some l, _ => (l ++ List.replicate n 0).take n
  | none, some a => elemsOf n (Memory.read a.data 0 (16 * n))
  | none, none => List.replicate n 0

/-- Only V of one element added to or taken from another (R238, R239). -/
def A128.addV (a b : A128) (neg : Bool) : A128 :=
  let v := b.extractLsb' 16 112
  (if neg then a.extractLsb' 16 112 - v else a.extractLsb' 16 112 + v) ++ a.extractLsb' 0 16

/-- A journal taken out of `ABUF` exactly (R239, R240). -/
def State.retract (s : State) (j : Join) (m : Member) : State :=
  let b := s.joinBlock j
  let (bs, s1) := s.joinBytes j b.abuf (16 * b.nelem)
  let old := elemsOf b.nelem bs
  let jr := s1.journal m b.nelem
  s1.putJoinBytes j b.abuf (elemBytes (List.zipWith (fun x y => A128.addV x y true) old jr))

/-- A participant of a join changed. -/
def State.modMember (s : State) (key index : Nat) (f : Member → Member) : State :=
  match kget s.joins key with
  | some j => s.setJoin key { j with members := j.members.map (fun m => if m.index == index then f m else m) }
  | none => s

/-- The journal's elements written where it stands. -/
def State.putJournal (s : State) (key : Nat) (m : Member) (es : List A128) : State :=
  match m.away with
  | some _ => s.modMember key m.index (fun x => { x with away := some es })
  | none => s.writePlace (.gran m.jsite m.jid 0) (elemBytes es)

/-- Journals retracted one by one. -/
def State.retractAll (s : State) (j : Join) (l : List Member) : State := l.foldl (fun (t : State) m => t.retract j m) s

/-- Whether the table can read a participant's journal: that of another device over the link (R294). -/
def State.inReach (s : State) (m : Member) : Bool :=
  match m.dev with
  | some d => (s.remote d.toNat).elim false (·.up)
  | none => true

/-- The journals of participants that have ended are freed (R259). -/
def State.freeJournals (s : State) (j : Join) : State :=
  j.members.foldl (fun (t : State) m => if m.gone then
    t.modCore m.jsite (fun c => { c with allocs := c.allocs.filter (fun a => !(a.id == m.jid && a.wg == m.wg && a.journal)) }) else t) s

/-- Whether a join is one of this device (R244). -/
def Join.home (j : Join) : Bool := match j.at_ with | .pod .. => false | _ => true

/-- The release (R239): STATE, the condemned and their journals; one out of reach is retracted later (R294). -/
def State.releaseJoin (s : State) (key : Nat) : State :=
  match kget s.joins key with
  | none => s
  | some j =>
    let late := j.members.filter (fun m => !m.arrived)
    let b := s.joinBlock j
    let s1 := s.retractAll j (late.filter (fun m => !m.retracted && s.inReach m))
    let w0 := (b.w 0).toNat
    let s2 := (s1.putBlock j 0 (leBytes 4 (w0 % 2 ^ 16 + 1 * 2 ^ 16 + w0 / 2 ^ 19 * 2 ^ 19))).putBlock j 0x54 (leBytes 4 (b.ncond + late.length))
    (s2.freeJournals j).setJoin key { j with
      released := true
      members := j.members.map (fun m => if m.arrived then m
        else { m with condemned := true, retracted := m.retracted || s.inReach m }) }

/-- The retractions that a release has left are made, as far as they can be (R242, R294). -/
def State.lateRetractions (s : State) (key : Nat) : State :=
  match kget s.joins key with
  | none => s
  | some j =>
    let due : Member → Bool := fun m => m.condemned && !m.retracted && s.inReach m
    if !j.released || !j.members.any due then s
    else (s.retractAll j (j.members.filter due)).setJoin key { j with members := j.members.map (fun m =>
      if due m then { m with retracted := true } else m) }

/-- Whether the arrivals meet the quorum (R239). -/
def Block.met (b : Block) : Bool :=
  if b.fill = 3 then b.narr == b.npart else decide (b.totw * b.qnum ≤ b.arrw * b.qden)

/-- A participant's journals leave every join still OPEN, where it stays condemned (R240). -/
def State.condemnAll (s : State) (wg : Nat) : State :=
  s.joins.foldl (fun (t : State) kj =>
    match kget t.joins kj.1 with
    | none => t
    | some j =>
      if j.released then t
      else
        let mine := j.members.filter (fun m => m.wg == wg && !m.arrived && !m.retracted)
        (t.retractAll j mine).setJoin kj.1 { j with members := j.members.map (fun m =>
          if m.wg == wg && !m.arrived then { m with condemned := true, retracted := true } else m) }) s

/-- A participant killed by the quorum (R240). -/
def State.quorumKill (s : State) (wg : Nat) : State := (s.condemnAll wg).kill wg

/-! ### Binding (R237, R258, R281) -/

/-- A quorum register of the issuing workgroup. -/
def Ctx.bound (c : Ctx) (q : Fin 4) : Option Binding := lget none c.wg.joins q.val

/-- A quorum register written. -/
def State.bindReg (s : State) (c : Ctx) (q : Fin 4) (b : Binding) : State :=
  s.modWg c.sh.wg (fun w => { w with joins := lset w.joins q.val (some b) })

/-- The active quorum-table entry of a block's generation. -/
def State.activeJoin (s : State) (pl : Place) (gen : BitVec 16) : Option (Nat × Join) :=
  s.joins.find? (fun j => j.2.at_ == pl && j.2.gen == gen && !j.2.final)

/-- The physical place as a number, for the choice of a slice. -/
def Place.number : Place → Nat
  | .hbm pa => pa
  | .gran _ _ o => o
  | .pod _ o => o

/-- The die whose table holds a join. -/
def homeDie (pl : Place) : Nat := Config.homeDie (Place.number pl) % 4

/-- The device of a place: none for this one. -/
def deviceOf : Place → Option Nat
  | .pod dev _ => some dev
  | _ => none

/-- Active entries of a die, of this device or another (R244). -/
def State.entriesOn (s : State) (dev : Option Nat) (die : Nat) : Nat :=
  (s.joins.filter (fun j => j.2.die == die && deviceOf j.2.at_ == dev && !j.2.final)).length

/-- The partition that has been given the memory of a place; else the one that comes to it first (R296, log 31). -/
def State.ownerOf (s : State) (pl : Place) (first : Fin 16) : Fin 16 :=
  match pl with
  | .hbm pa => ((s.parts.find? (fun p => p.2.memory.any (fun r => r.1 ≤ pa && pa < r.2))).map (fun p => Fin.ofNat 16 p.1)).getD first
  | _ => first

/-- The context that owns a join's block: the binder's where it is one of the owning partition, else that partition's own. -/
def State.ownerAsid (s : State) (j : Join) : BitVec 16 :=
  let p := s.part j.part.val
  if p.contexts.any (fun c => c.asid == j.asid) then j.asid
  else if p.memory.isEmpty then j.asid else p.asid

/-- The reach of every address a block names (R258, check 4). -/
def State.blockReach (s : State) (c : Ctx) (at_ : Place) (b : Block) : Except (Reach × Addr) Unit :=
  let need : List (DWord × Nat × Access) :=
    [(b.warr, 4 * b.npart, .rd), (b.bmap, (b.npart + 7) / 8, .wr), (b.abuf, 16 * b.nelem, .wr)] ++
    (if b.fill = 1 then [(b.fbuf, 16 * b.nelem, .rd)] else []) ++ [(b.dest, b.destBytes, .wr)]
  need.foldl (fun r y => let x := (homeAddr at_ y.1, y.2.1, y.2.2); match r with
    | .error e => .error e
    | .ok _ => (s.reachShort c.via false x.1 x.2.1 x.2.2).map (fun _ => ())) (.ok ())

/-- The member that holds an index in an entry. -/
def Join.holder (j : Join) (i : Nat) : Option Member := j.members.find? (fun m => m.index == i)

/-- The rows of R237, with the exceptions of R281: the fault of the first that holds. `settled` is whether the bind makes a
settled binding, `again` whether it takes a recorded index again. -/
def State.bindFault (s : State) (c : Ctx) (q : Fin 4) (b : Block) (entry : Option (Nat × Join)) (i : Nat) (jid : BitVec 16)
    (pad : Bool) (settled again : Bool) : Option Nat :=
  let held := match c.bound q with
    | some x => (match kget s.joins x.join with | some j => !j.final | none => false)
    | none => false
  let taken := match entry.bind (fun e => e.2.holder i) with
    | some _ => !(settled || again)
    | none => false
  let journalUsed := c.wg.joins.any (fun x => match x with
    | some y => (match kget s.joins y.join with
      | some j => !j.final && (match j.holder y.index with | some m => m.wg == c.sh.wg && m.jid == jid && !(again && y.index == i) | none => false)
      | none => false)
    | none => false)
  if held || pad || b.npart ≤ i || taken || journalUsed || b.bad then some 0x02
  else
      match (s.alloc c.site jid).filter (fun a => a.wg == c.sh.wg && !a.journal) with
      | none => some 0x0A
      | some a =>
        if a.rank != 7 then some 0x1E
        else if a.size * Config.granuleBytes < 16 * b.nelem then some 0x0A
        else if b.state = 2 && !settled then some 0x02
        else none

/-- A participant takes its place in an entry (R237): its weight is read; after the release it is condemned at once. -/
def State.enterJoin (s : State) (key : Nat) (j : Join) (m : Member) : State :=
  let b := s.joinBlock j
  let (wb, s1) := s.joinBytes j (b.warr + BitVec.ofNat 64 (4 * m.index)) 4
  let late := b.state = 1
  let m' := { m with weight := leNat wb, condemned := late, flagSent := late, retracted := late }
  let s2 := s1.setJoin key { j with members := j.members.filter (fun x => x.index != m.index) ++ [m']
                                    unbound := j.unbound.filter (· != m.index) }
  if late then s2.putBlock j 0x54 (leBytes 4 (b.ncond + 1)) else s2

/-- A participant not yet in an entry. -/
def Member.fresh (index wg : Nat) (dev : Option (BitVec 13)) (jsite : Nat) (jid : BitVec 16) (away : Option (List A128)) : Member :=
  { index := index, wg := wg, dev := dev, weight := 0, jsite := jsite, jid := jid, arrived := false, condemned := false
    flagSent := false, gone := false, retracted := false, away := away }

/-- The participant bound (R237): its journal zeroed, its place in the entry, its quorum register. -/
def State.bindMember (s : State) (c : Ctx) (q : Fin 4) (b : Block) (key : Nat) (j : Join) (i : Nat) (jid : BitVec 16) : State :=
  let s1 := s.writePlace (.gran c.site jid 0) (List.replicate (16 * b.nelem) 0)
  (s1.enterJoin key j (Member.fresh i c.sh.wg none c.site jid none)).bindReg c q ⟨key, j.block, j.gen, i, b.state = 1, false⟩

/-- A fresh entry of the quorum table (R244). -/
def State.newJoin (s : State) (block : DWord) (pl : Place) (asid : BitVec 16) (part : Fin 16) (b : Block) : Join :=
  { block := block, at_ := pl, asid := asid, part := s.ownerOf pl part, die := homeDie pl, gen := b.gen, released := b.state == 1
    final := false, members := [], unbound := [] }

/-- How a relaunched workgroup binds an index that its gang's record names (R281): settled, condemned, or as new. -/
inductive Rebind where
  | settled (gen : BitVec 16)
  | condemned
  | anew
  deriving DecidableEq, Repr

/-- What the record of a relaunch makes of an index (R281): settled where its generation has finalised since the kill, or where
it has arrived in the current one. -/
def rebindOf (kept : List Kept) (addr : DWord) (b : Block) (entry : Option (Nat × Join)) (i : Nat) : Rebind :=
  let mine := kept.filter (fun k => k.block == addr && k.index == i && !k.final)
  match mine.find? (fun k => k.gen != b.gen) with
  | some k => .settled k.gen
  | none =>
    if mine.isEmpty then .anew
    else match entry.bind (fun e => e.2.holder i) with
      | some m => if m.arrived then .settled b.gen else if mine.any (·.condemned) && m.condemned then .condemned else .anew
      | none => .anew

/-- `jbind` (R258): checks in order, then the entry of the quorum table, waited for while 256 are held (R244). -/
def execJbind (j : Fin 4) (p w : GSrc) (s : State) : Host.Outcome State Fault Refusal :=
  issueStop s (fun c => groupVals s c [⟨2, p, 2⟩, ⟨3, w, 1⟩] none (fun vs s1 =>
    let addr := vs.headD 0
    let word := (lget 0 vs 1).lo
    let i := (word.extractLsb' 0 13).toNat
    let jid := word.extractLsb' 16 16
    atShort s s1 c vs false false addr 256 256 2 .wr (fun ps =>
      let pl := firstPlace ps
      let b := Block.of (s1.sliceBytes ps)
      let entry := s1.activeJoin pl b.gen
      let again := rebindOf ((kget s.gangs c.wg.gang).elim [] (·.kept)) addr b entry i
      let settled := match again with | .settled _ => true | _ => false
      match s1.bindFault c j b entry i jid (word.extractLsb' 13 3 != 0) settled (again == .condemned) with
      | some code => s.raise c { code := code, opnd := 3 }
      | none =>
        match s1.blockReach c pl b with
        | .error x => inTheWay s s1 c vs 2 true ((shortAddr addr).va) x
        | .ok _ =>
          match again, entry with
          | .settled g, _ =>
            let key := if g == b.gen then (entry.map (·.1)).getD s1.nextKey else s1.nextKey
            (s1.bump.bindReg c j ⟨key, addr, g, i, false, true⟩).advance c
          | .condemned, some (key, _) => (s1.bindReg c j ⟨key, addr, b.gen, i, true, false⟩).advance c
          | _, some (key, e) => (s1.bindMember c j b key e i jid).advance c
          | _, none =>
            if 256 ≤ s1.entriesOn (deviceOf pl) (homeDie pl) then s.waitOn c .table
            else
              let e := s1.newJoin addr pl c.wg.asid c.wg.part b
              let key := s1.nextKey
              ((s1.bump.setJoin key e).bindMember c j b key e i jid).advance c)))

/-! ### Taking part (R238, R243, R260, R261) -/

/-- What a binding is when an instruction names it. -/
inductive Part? where
  | unbound                        -- nothing, or a join that a partition reset has freed (R296)
  | settled
  | killed                         -- the condemned flag has arrived (R261)
  | old                            -- of an older generation
  | live (b : Binding) (j : Join) (m : Member)
  deriving DecidableEq, Repr

/-- The binding in a quorum register. -/
def State.partOf (s : State) (c : Ctx) (q : Fin 4) : Part? :=
  match c.bound q with
  | none => .unbound
  | some b =>
    if b.settled then .settled
    else if b.condemned then .killed
    else match kget s.joins b.join with
      | none => .unbound
      | some j =>
        match j.holder b.index with
        | none => .old
        | some m => if j.final then (if m.condemned then .killed else .old) else .live b j m

/-- Values added to elements of `ABUF` and the journal (R238): `l` gives the element and the value. -/
def State.contribute (s : State) (key : Nat) (j : Join) (m : Member) (l : List (Nat × A128)) : State :=
  let b := s.joinBlock j
  let (bs, s1) := s.joinBytes j b.abuf (16 * b.nelem)
  let ab := l.foldl (fun es p => lmod (fun e => A128.addV e p.2 false) es p.1) (elemsOf b.nelem bs)
  let jr := l.foldl (fun es p => lmod (fun e => A128.add e p.2) es p.1) (s1.journal m b.nelem)
  (s1.putJoinBytes j b.abuf (elemBytes ab)).putJournal key m jr

/-- The journal's status bits ORed into `ABUF`, the bitmap bit, the weight and the count (R238). -/
def State.arrive (s : State) (j : Join) (m : Member) : State :=
  let b := s.joinBlock j
  let (bs, s1) := s.joinBytes j b.abuf (16 * b.nelem)
  let jr := s1.journal m b.nelem
  let ab := List.zipWith (fun (x y : A128) => x ||| (y &&& 0xFFFF#128)) (elemsOf b.nelem bs) jr
  let s2 := s1.putJoinBytes j b.abuf (elemBytes ab)
  let at_ := b.bmap + BitVec.ofNat 64 (m.index / 8)
  let (old, s3) := s2.joinBytes j at_ 1
  let s4 := s3.putJoinBytes j at_ [(old.headD 0) ||| (1#8 <<< (m.index % 8))]
  (s4.putBlock j 0x18 (leBytes 8 (b.arrw + m.weight))).putBlock j 0x50 (leBytes 4 (b.narr + 1))

/-- A participant arrives, and with it the join may be released (R238, R239), a decision of the context (R322). -/
def State.arriveAt (s : State) (key : Nat) (j : Join) (m : Member) : State :=
  let s1 := (s.arrive j m).modMember key m.index (fun x => { x with arrived := true })
  if !j.released && (s1.joinBlock j).met then
    let s2 := s1.releaseJoin key
    if j.home then s2.decision j.part j.asid 3 0 j.block (BitVec.ofNat 64 (s1.joinBlock j).arrw) else s2
  else s1

/-! ### Joins of another device (R244, R294) -/

/-- What a participant sends the table of another device: it counts in the stores class until it is acknowledged. -/
def State.sendJoin (s : State) (c : Ctx) (key : Nat) (j : Join) (index : Nat) (l : Option (List (Nat × A128))) : State :=
  let a : Acc := ⟨s.nextKey, s.nextKey, s.nextKey, c.k, c.site, sheafLane, .quorum key index l, c.wg.asid, 0, j.at_, 0, [], .rlx, .pd, .rc,
    .issued, [], some (c.origin s)⟩
  { s with accs := s.accs ++ [a] }.bump.modSheaf c.k (fun sh => { sh with stores := sh.stores + 1 })

/-- Whether an access is a message to a join, of a participant. -/
def Acc.toJoin (a : Acc) (key index : Nat) (l : Bool) : Bool :=
  match a.kind with
  | .quorum k i x => k == key && i == index && (x.isNone || l)
  | _ => false

/-- Whether a participant has arrived, as its core knows: its arrival may be on its way. -/
def State.hasArrivedAt (s : State) (key : Nat) (m : Member) : Bool := m.arrived || s.accs.any (fun a => a.toJoin key m.index false)

/-- Whether every access of a participant's sheaves issued before one has performed where a release needs it (R238). -/
def State.drainedBefore (s : State) (wg id : Nat) : Bool :=
  s.accs.all (fun x => id ≤ x.id || x.kind.isFence || x.pk == .un || (s.sheaf x.k).all (fun sh => sh.wg != wg) || x.performedAt .dv)

/-- A message reaches the table, in the order of its participant's messages; the table discards what a condemned participant sends
and kills it (R260, R261, R294). -/
def State.tableTakes (s : State) (a : Acc) (key index : Nat) (l : Option (List (Nat × A128))) : State :=
  let wg := (s.sheaf a.k).elim 0 (fun sh => sh.wg)
  let earlier : Acc → Bool := fun b => b.id < a.id && ((b.k == a.k && (match b.kind with | .quorum .. => true | _ => false)) ||
    b.toJoin key index true)
  if s.accs.any earlier || (l.isNone && !s.drainedBefore wg a.id) then s
  else
    let s1 := ({ s with accs := s.accs.filter (fun b => b.id != a.id) } : State).modSheaf a.k (fun sh => sh.lower a.kind)
    match (kget s.joins key).bind (fun j => (j.holder index).map (fun m => (j, m))) with
    | none => s1
    | some (j, m) =>
      if m.condemned then s1.quorumKill m.wg
      else match l with
        | some x => s1.contribute key j m x
        | none => if m.arrived then s1 else s1.arriveAt key j m

/-- A store enters its core's write path, or leaves it for the slice (R164); a message to a join of another device reaches its table
(R294). -/
def execStorePerform (acc : Nat) (s : State) : Host.Outcome State Fault Refusal :=
  match s.acc acc with
  | some a => .next (match a.kind with
      | .store => s.moveStores a
      | .quorum key index l => s.tableTakes a key index l
      | _ => s)
  | none => .next s

/-- A participant of another device binds a join of this one (R237, R244), where no row of R237 turns it away. -/
def State.remoteBind (s : State) (dev : BitVec 13) (p : Fin 16) (asid : BitVec 16) (block : DWord) (pl : Place) (word : Word) : State :=
  let b := Block.of (s.readPlace pl 256)
  let i := (word.extractLsb' 0 13).toNat
  let entry := s.activeJoin pl b.gen
  if b.npart ≤ i || b.bad || b.state = 2 || word.extractLsb' 13 3 != 0 || (entry.bind (fun e => e.2.holder i)).isSome then s
  else
    let m := Member.fresh i s.nextKey (some dev) 0 (word.extractLsb' 16 16) (some [])
    match entry with
    | some (key, e) => s.bump.enterJoin key e m
    | none =>
      if 256 ≤ s.entriesOn none (homeDie pl) then s
      else
        let t := s.bump
        t.bump.enterJoin t.nextKey (t.newJoin block pl asid p b) m

/-- A participant of another device is retracted (R240, R281): it stays condemned, or its index is unbound. -/
def State.remoteRetract (s : State) (key : Nat) (j : Join) (m : Member) (stays : Bool) : State :=
  if j.released || m.arrived || m.retracted then s
  else (s.retract j m).setJoin key { j with
    members := if stays then j.members.map (fun x => if x.index == m.index then { x with condemned := true, retracted := true } else x)
               else j.members.filter (fun x => x.index != m.index)
    unbound := if stays then j.unbound else j.unbound ++ [m.index] }

/-- What another device's participant asks of a join here (R244, R294). -/
def State.remoteJoin (s : State) (dev : BitVec 13) (p : Fin 16) (asid : BitVec 16) (va : Addr) (op : ExtOp) : State :=
  if va.toNat % 256 != 0 then s
  else match s.hwRange asid .wr va 256 with
    | (t, .error _) => t
    | (t, .ok ps) =>
      let pl := firstPlace ps
      let holder (i : Nat) : Option (Nat × Join × Member) :=
        (t.activeJoin pl (Block.of (t.readPlace pl 256)).gen).bind (fun e =>
          ((e.2.holder i).filter (fun m => m.dev == some dev)).map (fun m => (e.1, e.2, m)))
      match op with
      | .joinBind word => t.remoteBind dev p asid (va.extractLsb' 0 64) pl word
      | .joinContrib i l => match holder i with
        | some (key, j, m) => if m.arrived || m.condemned || l.any (fun x => (t.joinBlock j).nelem ≤ x.1) then t else t.contribute key j m l
        | none => t
      | .joinArrive i => match holder i with
        | some (key, j, m) => if m.arrived || m.condemned then t else t.arriveAt key j m
        | none => t
      | .joinRetract i stays => match holder i with
        | some (key, j, m) => t.remoteRetract key j m stays
        | none => t
      | _ => t

/-! ### The instructions (R260, R261) -/

/-- What every `qcontrib` does around its own operands (R238, R240, R243, R261). -/
def contribOp (s s1 : State) (c : Ctx) (q : Fin 4) (go : Nat → Join → Member → State) : State :=
  match s.partOf c q with
  | .unbound => s.trap c 0x12 0
  | .settled => s1.advance c
  | .killed => s.quorumKill c.sh.wg
  | .old => s.trap c 0x12 0
  | .live b j m =>
    if s.hasArrivedAt b.join m then s.trap c 0x12 0
    else if c.sh.stores ≥ 63 then s.stall c 7
    else go b.join j m

/-- The contribution reaches the table, which discards it and kills a condemned participant (R239, R261); that of another device
later (R294). -/
def State.deliverContrib (s : State) (c : Ctx) (key : Nat) (j : Join) (m : Member) (l : List (Nat × A128)) : State :=
  if !j.home then (s.sendJoin c key j m.index (some l)).advance c
  else if m.condemned then s.quorumKill c.sh.wg
  else (s.contribute key j m l).advance c

/-- `qcontrib` from lane registers (R260). -/
def execQcontrib (j : Fin 4) (a : LReg) (e : GSrc) (s : State) : Host.Outcome State Fault Refusal :=
  issue s (fun c => checkNamed s c [(2, a.top 4)] (groupStep s c [⟨3, e, 1⟩] none (fun vs s1 =>
    contribOp s s1 c j (fun key jn m =>
      let e0 := (vs.headD 0).lo.toNat
      let lanes := maskLanes c.sp.mask
      if c.sh.strict && lanes.any (fun l => regsDead s.free c.sh l a 4) then s.trap c 0x03 2
      else if lanes.any (fun l => (s.joinBlock jn).nelem ≤ e0 + l) then s.trap c 0x11 3
      else s1.deliverContrib c key jn m (lanes.map (fun l =>
        (e0 + l, A128.ofWords (regsRead s.free c.sh l a 4))))))))

/-- `qcontrib.row` from a tile row (R260). -/
def execQcontribRow (j : Fin 4) (ctl e : GSrc) (s : State) : Host.Outcome State Fault Refusal :=
  issue s (fun c => groupStep s c [⟨2, ctl, 1⟩, ⟨3, e, 1⟩] none (fun vs s1 =>
    contribOp s s1 c j (fun key jn m =>
      let w := (vs.headD 0).lo
      let e0 := (lget 0 vs 1).lo.toNat
      let n := (w.extractLsb' 16 7).toNat
      let c0 := (w.extractLsb' 10 6).toNat
      let row := (w.extractLsb' 7 3).toNat
      let o := (w.extractLsb' 4 3).toNat
      let set : Fin 4 := (w.extractLsb' 2 2).toFin
      let t : Fin 4 := (w.extractLsb' 0 2).toFin
      let b := s.joinBlock jn
      let tile := s.tile c.sh.wg t set o
      if w.extractLsb' 23 9 != 0 then s.trap c 0x02 2
      else if n = 0 || 64 < c0 + n || lget 0 c.wg.kernel.acc t.val ≤ set.val then s.trap c 0x11 2
      else if b.nelem < e0 + n then s.trap c 0x11 3
      else if s.tops.any (fun x => x.wg == c.sh.wg && x.t == t && x.set == set) then s.stall c 2
      else if tile.anchor != b.anchor then s.trap c 0x0F 2
      else s1.deliverContrib c key jn m ((List.range n).map (fun i => (e0 + i, tile.elem row (c0 + i)))))))

/-- `qarrive` (R238, R239, R261): it reaches the table once the earlier accesses of every sheaf of the participant have performed;
that of another device later (R294). -/
def execQarrive (j : Fin 4) (s : State) : Host.Outcome State Fault Refusal :=
  issue s (fun c =>
    match s.partOf c j with
    | .unbound => s.trap c 0x12 0
    | .settled => s.advance c
    | .killed => s.quorumKill c.sh.wg
    | .old => s.trap c 0x12 0
    | .live b jn m =>
      if s.hasArrivedAt b.join m then s.advance c
      else if c.sh.stores ≥ 63 then s.stall c 7
      else if !jn.home then (s.sendJoin c b.join jn m.index none).advance c
      else if !(s.sheavesOf c.sh.wg).all (fun p => s.drainedFor p.1 false) then s.stall c 2
      else if m.condemned then s.quorumKill c.sh.wg
      else (s.arriveAt b.join jn m).advance c)

/-- `qkpt` (R240, R243, R261). -/
def execQkpt (j : Fin 4) (s : State) : Host.Outcome State Fault Refusal :=
  issue s (fun c =>
    match s.partOf c j with
    | .unbound => s.trap c 0x12 0
    | .killed => s.quorumKill c.sh.wg
    | _ => s.advance c)

/-- `qwait` (R242, R243, R261): no kill point; the completing read is an acquire of scope `.dv`. -/
def execQwait (j : Fin 4) (s : State) : Host.Outcome State Fault Refusal :=
  issueStop s (fun c =>
    match c.bound j with
    | none => s.trap c 0x12 0
    | some b =>
      if b.settled then s.advance c
      else match kget s.joins b.join with
        | some jn => if jn.final then (s.dropL1 c.site).advance c else s.waitOn c (.quorum b.join b.gen)
        | none => s.trap c 0x12 0)

/-! ### The finaliser (R242, R244, R310) -/

/-- The exact value of one element before its rounding (R242). -/
def fillValue (b : Block) (e f : A128) : Ext :=
  let anchor := b.anchor.toInt
  let missing := decide (b.arrw < b.totw)
  let e1 := if b.fill = 1 && missing then e ||| (f &&& 0xFFFF#128) else e
  if (e1 &&& 0x5F#128) != 0 then readoutExt e1 anchor
  else
    let v := A128.v e
    let x : Int × Nat := match b.fill with
      | 0 => (v * b.totw, b.arrw)
      | 1 => (v + A128.v f * ((b.totw : Int) - b.arrw), 1)
      | _ => (v, 1)
    if x.2 = 0 then .nan
    else if x.1 = 0 then .zero false
    else scaleFin (decide (x.1 < 0)) x.1.natAbs x.2 anchor

/-- The destination's bytes (R242, R50). -/
def destBytes (b : Block) (es fs : List A128) : List Byte :=
  match readoutFmt b.dfmt with
  | none => []
  | some (f, _) =>
    let codes := List.zipWith (fun e x => narrow f .rne b.dsat (fillValue b e x)) es fs
    leBytes b.destBytes (codes.foldr (fun c n => c + n * 2 ^ b.elemBits) 0)

/-- The join entry of a receipt (R313), the object of a TYPE 4 record (R310). -/
def joinEntry (block : DWord) (b : Block) (gen : BitVec 16) (bitmap : List Byte) : List Byte :=
  let words := (b.npart + 63) / 64
  let bits := (bitmap ++ List.replicate (8 * words) 0).take (8 * words)
  leBytes 8 block.toNat ++ leBytes 4 gen.toNat ++ leBytes 4 b.npart ++ leBytes 8 b.arrw ++ leBytes 4 b.ncond ++ leBytes 4 0 ++ bits

/-- The bitmap's first n bits, the rest 0. -/
def maskBits (bs : List Byte) (n : Nat) : List Byte := leBytes bs.length (leNat bs % 2 ^ n)

/-- Whether the finaliser of a join may begin (R242, R294): it is released, every retraction has been made, and the device of its
block can be reached. -/
def State.finalDue (s : State) (e : Join) : Bool :=
  e.released && !e.final && !e.members.any (fun m => m.condemned && !m.retracted) &&
    (match e.at_ with | .pod dev _ => (s.remote dev).elim false (·.up) | _ => true)

/-- The destination and the buffers of a join as the finaliser leaves them (R242), with the join's entry for a receipt; and for a
join of this device its chain record (R244, R310). -/
def State.finalWrites (s : State) (e : Join) : State :=
  let b := s.joinBlock e
  let (ab, s1) := s.joinBytes e b.abuf (16 * b.nelem)
  let (fb, s2) := if b.fill = 1 then s1.joinBytes e b.fbuf (16 * b.nelem) else (List.replicate (16 * b.nelem) 0, s1)
  let s3 := s2.putJoinBytes e b.dest (destBytes b (elemsOf b.nelem ab) (elemsOf b.nelem fb))
  let (bm, s4) := s3.joinBytes e b.bmap ((b.npart + 7) / 8)
  let gen' := b.gen + 1
  let entry := joinEntry e.block b gen' (maskBits bm b.npart)
  let asid := s4.ownerAsid e
  let s5 := if e.home then (s4.chain e.part asid 4 entry).modCtx e.part asid (fun c => { c with joins := c.joins ++ [entry] }) else s4
  let w0 := (b.w 0).toNat
  (s5.putBlock e 0 (leBytes 4 (w0 % 2 ^ 16 + 2 * 2 ^ 16 + w0 / 2 ^ 19 * 2 ^ 19))).putBlock e 4 (leBytes 4 gen'.toNat)

/-- The finaliser of a released join (R242): what a release has left to retract, then the destination, the chain record, then
`STATE` and `GEN` in one update; the sheaves that wait on it go on. -/
def execJoinFinalise (j : Nat) (s : State) : Host.Outcome State Fault Refusal :=
  let s0 := s.lateRetractions j
  .next (match kget s0.joins j with
    | none => s0
    | some e =>
      if !s0.finalDue e then s0
      else
        let s7 := ((s0.finalWrites e).setJoin j { e with final := true }).freeJournals e
        let waiting : Sheaf → Bool := fun sh => match sh.wait with | some (.quorum k _) => k == j | _ => false
        let s8 := (s7.sheaves.filter (fun p => waiting p.2)).foldl (fun (t : State) p =>
          match t.wg p.2.wg with | some w => t.dropL1 w.site | none => t) s7
        s8.mapSheaves (fun _ sh =>
          if waiting sh then sh.finishWait sh.waiter
          else if sh.wait == some .table then { sh with wait := none }
          else sh))

/-- The condemned flag of a participant set in its workgroup's quorum registers. -/
def Workgroup.flag (w : Workgroup) (join index : Nat) : Workgroup :=
  { w with joins := w.joins.map (fun b => match b with
      | some y => if y.join == join && y.index == index && !y.settled then some { y with condemned := true } else some y
      | none => none) }

/-- A condemned flag reaches the participant's core (R261), or the bindings that a save has kept (R258). -/
def execCondemnedFlag (j index : Nat) (s : State) : Host.Outcome State Fault Refusal :=
  .next (match (kget s.joins j).bind (fun e => e.holder index) with
    | none => s
    | some m =>
      if !m.condemned || m.flagSent then s
      else
        let s1 := (s.modMember j index (fun x => { x with flagSent := true })).modWg m.wg (fun w => w.flag j index)
        { s1 with grids := s1.grids.map (fun g => (g.1, { g.2 with pending := g.2.pending.map (fun p => { p with
            saved := p.saved.map (fun v => if v.key == m.wg then { v with wg := v.wg.flag j index } else v) }) })) })

end Sys2Proof.Machine
end

