-- ==== Sys2Proof/Machine/Ends.lean ====
section
/-! DEFINITION. How sheaves, workgroups, gangs, grids and tasks end, are saved, or start again (06 R100, R112, 15 R226, R232,
R233, R240, R241, R259, 18 R277, R280, R281). -/

namespace Sys2Proof.Machine

/-! ### Allocations freed (R142, R188) -/

/-- Sheaves that wait for an allocation go on: their instruction issues again (R153, R157, R188). -/
def State.wakeLoss (s : State) (site : Nat) (id : BitVec 16) : State :=
  s.mapSheaves (fun _ sh => if sh.wait == some (.loss site id) then { sh with wait := none } else sh)

/-- A `shadow` whose allocation is freed meanwhile issues again, and meets that (R188, R190). -/
def State.wakeShadow (s : State) (site : Nat) (id : BitVec 16) : State :=
  s.mapSheaves (fun _ sh => if sh.wait == some (.shadow site id) then { sh with wait := none } else sh)

/-- An allocation is freed: accesses issued before perform, copies have lost it, a queue's ring in it is gone, waiters go on
(R152, R188, R221). -/
def State.freeAlloc (s : State) (site : Nat) (id : BitVec 16) : State :=
  let s1 := ((s.performAll (inAlloc site id)).markEngines site [id]).modCore site (fun c => { c with allocs := c.allocs.filter (fun a => a.id != id) })
  ((s1.ringFreed site id).wakeLoss site id).wakeShadow site id

/-- The journals that outlive a workgroup: of joins not final where it has neither arrived nor been retracted (R259). -/
def State.keptJournals (s : State) (wg : Nat) : List (BitVec 16) :=
  s.joins.flatMap (fun kj => if kj.2.final then [] else
    (kj.2.members.filter (fun m => m.wg == wg && !m.arrived && !m.retracted)).map (·.jid))

/-- A workgroup's allocations freed, but for journals a join still needs. -/
def State.freeAllocsOf (s : State) (wg site : Nat) (keep : List (BitVec 16)) : State :=
  let mine := ((s.core site).allocs.filter (fun a => a.wg == wg)).map (·.id)
  let s1 := (mine.filter (fun i => !keep.contains i)).foldl (fun (t : State) i => t.freeAlloc site i) s
  s1.modCore site (fun c => { c with allocs := c.allocs.map (fun a => if a.wg == wg then { a with journal := true } else a) })

/-- The handlers of sheaves that are gone: an allocation of another workgroup that one of them was refilling is DARK again, and
the waits for it end (R195, log 35). -/
def State.dropHandlers (s : State) (ks : List Nat) : State :=
  let lost : Alloc → Bool := fun a => a.state == .refilling && a.handSheaf.any ks.contains
  let named := s.cores.flatMap (fun c => (c.2.allocs.filter lost).map (fun a => (c.1, a.id)))
  named.foldl (fun (t : State) p => (t.modAlloc p.1 p.2 (fun a => { a with state := .dark, relit := false, handSheaf := none
                                                                           data := [] })).wakeLoss p.1 p.2) s

/-! ### Records and grids -/

/-- A launch or task record completes (R223); one of a queue that has died since did so then (R224). -/
def State.completeRecord (s : State) (record : Option RecordRef) : State :=
  match record with
  | none => s
  | some r => match kget s.queues r.q with
    | some x => if x.inc = r.inc && x.state != .dead then s.setQueue r.q (x.complete r.i) else s
    | none => s

/-- A record that cannot be served puts its queue in ERROR (R224). -/
def State.failRecord (s : State) (record : Option RecordRef) : State :=
  match record with
  | none => s
  | some r => match kget s.queues r.q with
    | some x => if x.inc = r.inc && x.state != .dead then s.setQueue r.q (x.fail r.i) else s
    | none => s

/-- The `DONEF` future written, FULL or POISONED, or the queue in ERROR (R226). -/
def State.writeDonef (s : State) (p : Fin 16) (asid : BitVec 16) (donef word val : DWord) (record : Option RecordRef) : State :=
  if donef = 0 then s.completeRecord record
  else match s.hwFuture p asid donef word val with
    | (t, true) => t.completeRecord record
    | (t, false) => t.failRecord record

/-- A grid whose gangs have all ended ends (R100, R226). -/
def State.endGrid (s : State) (k : Nat) : State :=
  match kget s.grids k with
  | none => s
  | some g =>
    if g.left != 0 then s
    else
      let s1 := { s with grids := kdel s.grids k }
      s1.writeDonef g.part g.asid g.donef (futFull 0) 0 g.record

/-- A gang whose workgroups have all ended ends: its alias range is free (R100, R146). -/
def State.endGang (s : State) (k : Nat) : State :=
  match kget s.gangs k with
  | none => s
  | some g =>
    if !g.members.all (fun w => match s.wg w with | some x => x.ended && (x.task.isNone || x.killed) | none => true) then s
    else
      let s1 : State := { s with
        gangs := kdel s.gangs k
        wgs := s.wgs.filter (fun w => w.2.gang != k)
        sheaves := s.sheaves.filter (fun p => !g.members.contains p.2.wg) }
      let s2 := match kget s1.grids g.grid with
        | some x => s1.setGrid g.grid { x with left := x.left - 1 }
        | none => s1
      s2.endGrid g.grid

/-- A task's stack area goes back to the pool (R231). -/
def State.returnArea (s : State) (p : Fin 16) (t : Task) : State :=
  let x := s.part p.val
  s.setPart p.val { x with stackPool := t.stack :: x.stackPool }

/-- What a workgroup holds is released (R100, R157, R212, R240, R241, R259). -/
def State.releaseWorkgroup (s : State) (k : Nat) (w : Workgroup) : State :=
  let keep := s.keptJournals k
  let s1 : State := { s with joins := s.joins.map (fun kj => (kj.1, { kj.2 with members := kj.2.members.map (fun m =>
    if m.wg == k && !m.arrived then { m with gone := true } else m) })) }
  let s2 := (s1.freeAllocsOf k w.site keep).dropHandlers ((s.sheavesOf k).map (·.1))
  { s2 with tiles := s2.tiles.filter (fun t => t.wg != k) }

/-- A workgroup whose sheaves have all ended ends (R100); a killed task becomes KILLED (R232, R240). -/
def State.endWorkgroup (s : State) (k : Nat) : State :=
  match s.wg k with
  | none => s
  | some w =>
    if !(s.sheavesOf k).all (fun p => p.2.ended) then s
    else
      let s1 := (s.releaseWorkgroup k w).modWg k (fun x => { x with ended := true, binds := [], leases := List.replicate 4 none })
      match w.task with
      | none => s1.endGang w.gang
      | some t =>
        if w.killed then (((s1.putTaskState [(t.at_, 64)] 5).completeRecord t.record).returnArea w.part t).endGang w.gang
        else s1

/-! ### A sheaf ends, or its save is over (R100, R278, R280) -/

/-- Nothing that a sheaf issued is outstanding (R71, R100). -/
def State.idle (s : State) (k : Nat) (sh : Sheaf) : Bool :=
  sh.loads == 0 && sh.stores == 0 && sh.copies == 0 && sh.tiles == 0 && s.accs.all (fun a => a.k != k) &&
  s.copies.all (fun x => x.k != k) && s.tops.all (fun x => x.k != k)

/-- Whether a recorded wait is one of R110 or a loss wait: what a scheduler watches (R112, R153). -/
def Wait.watched : Wait → Bool
  | .replay .. => false
  | .shadow .. => false
  | _ => true

/-- Where the word of a recorded wait lies now: an address outside the aperture is translated again (R291). -/
def State.placeNow (s : State) (asid : BitVec 16) (ea : Addr) (n : Nat) (pl : Place) : Option Place :=
  match rangeOf ea with
  | .aperture _ => if s.stillThere pl then some pl else none
  | _ => match s.reach (agentVia asid) ea n .rd with
    | .ok p _ => some p
    | _ => none

/-- Whether a recorded wait has not ended yet (R112, R183, R195). -/
def State.waitOpen (s : State) (asid : BitVec 16) (w : Wait) : Bool :=
  match w with
  | .watch _ ea pl _ e _ => (s.placeNow asid ea 4 pl).elim false (fun p => holdsWord e (leDWord (s.readPlace p 4)))
  | .await _ ea pl g _ => (s.placeNow asid ea 8 pl).elim false (fun p => arrGen (leDWord (s.readPlace p 8)) == g)
  | .port ns => !s.portsReady ns && ns.all (fun x => (kget s.queues x.q).elim false (fun q => q.state == .opened))
  | .quorum j _ => (kget s.joins j).elim false (fun x => !x.final)
  | .table => (List.range 4).any (fun d => 256 ≤ s.entriesOn none d)
  | .loss site id => (s.alloc site id).elim false (fun a => a.state == .refilling)
  | _ => true

/-- The recorded waits of sheaves that another gang can end. -/
def recordedWaits (l : List Sheaf) : List Wait := (l.filterMap (fun sh => sh.recorded)).filter Wait.watched

/-- A saved gang one of whose recorded waits has ended stands in its pending list again (R112, R195). -/
def State.requeueSaved (s : State) : State :=
  { s with grids := s.grids.map (fun kg => (kg.1, { kg.2 with pending := kg.2.pending.map (fun p =>
      if p.waits && (recordedWaits (p.saved.flatMap (fun v => v.sheaves.map (·.2)))).any (fun w => !s.waitOpen kg.2.asid w) then
        { p with waits := false } else p) })) }

/-- The hardware part of a context save area (R277): the allocation entries, and what else the core writes there in an encoding
of its own (log 33). -/
def hardwarePart (free : Nat) (l : List Alloc) : List Byte :=
  let es := (l.flatMap Alloc.entry).take 4096
  es ++ (List.range (4096 - es.length)).map (Config.opaqueByte free)

/-- The hardware part written, where the area is mapped (R277). -/
def State.writeHardwarePart (s : State) (asid : BitVec 16) (area : DWord) (l : List Alloc) : State :=
  match s.hwRange asid .wr (localAddr area) 4096 with
  | (t, .ok ps) => t.writePieces ps (hardwarePart s.free l)
  | (t, .error _) => t

/-- Whether every sheaf of a workgroup has ended or has saved itself and has nothing outstanding (R278). -/
def State.wgSaved (s : State) (wg : Nat) : Bool :=
  (s.sheavesOf wg).all (fun p => p.2.ended || (p.2.saving == .saved && s.idle p.1 p.2))

/-- A workgroup whose sheaves have all saved themselves gives up its slots and resources (R278); of a journal that a join may
still take back, the bytes stay known (R239, log 33). -/
def State.leaveCore (s : State) (k : Nat) : State :=
  match s.wg k with
  | none => s
  | some w =>
    if w.away || !s.wgSaved k then s
    else
      let kept := s.keptJournals k
      let entries := (w.savedAllocs.getD (s.entriesOf k w.site)).map (fun e =>
        if kept.contains e.id then { e with data := (s.alloc w.site e.id).elim [] (·.data) } else e)
      let s1 := (s.performAll (fun a => entries.any (fun e => inAlloc w.site e.id a))).writeHardwarePart w.asid w.saveArea entries
      (s1.modCore w.site (fun c => { c with allocs := c.allocs.filter (fun a => a.wg != k || a.journal) })).modWg k
        (fun x => { x with savedAllocs := some entries, away := true })

/-- A gang whose workgroups have all been saved waits in its grid's pending list, ahead of gangs not yet started, with its
coordinates and ages (R280, R112). -/
def State.saveGang (s : State) (k : Nat) : State :=
  match kget s.gangs k with
  | none => s
  | some g =>
    let mine := s.sheaves.filter (fun p => g.members.contains p.2.wg)
    if !g.members.all (fun w => (s.wg w).elim true (fun x => x.away || x.ended)) then s
    else
      let saved : List SavedWg := g.members.filterMap (fun w => (s.wg w).map (fun x =>
        ⟨w, x, mine.filter (fun p => p.2.wg == w), x.savedAllocs.getD [], s.tiles.filter (fun t => t.wg == w)⟩))
      let (stage, no) := match g.members.head?.bind s.wg with | some x => (x.stage, x.gangNo) | none => (0, 0)
      let ws := recordedWaits (mine.map (·.2))
      let asid := (kget s.grids g.grid).elim 0 (·.asid)
      let waits := (g.evict || ws.any (fun w => match w with | .loss .. => true | _ => false)) && !ws.isEmpty && ws.all (s.waitOpen asid)
      let pg : PendingGang := ⟨stage, no, mine.map (fun p => p.2.age), saved, g.kept, g.barGen, waits⟩
      let s1 : State := { s with
        gangs := kdel s.gangs k
        wgs := s.wgs.filter (fun w => w.2.gang != k)
        sheaves := s.sheaves.filter (fun p => !g.members.contains p.2.wg)
        tiles := s.tiles.filter (fun t => !g.members.contains t.wg) }
      match kget s1.grids g.grid with
      | none => s1
      | some x =>
        let old := x.pending.filter (fun p => !p.ages.isEmpty)
        let new := x.pending.filter (fun p => p.ages.isEmpty)
        s1.setGrid g.grid { x with pending := old ++ [pg] ++ new }

/-- Leases a sheaf holds are released as `mfree` does (R212). -/
def State.releaseLeases (s : State) (k wg : Nat) : State :=
  [(0 : Fin 4), 1, 2, 3].foldl (fun (t : State) n =>
    match t.wg wg with
    | some w => if lget none w.leases n.val == some k then (t.clearLatch k n.val).releaseLease wg n else t
    | none => t) s

/-- Whether a sheaf has come to its end (R100): no entries, and its counters zero. -/
def State.endDue (s : State) (k : Nat) (sh : Sheaf) : Bool :=
  !sh.ended && sh.finished && s.idle k sh && !sh.restarting && sh.saving != .saved

/-- A sheaf is released (R100); with it may end its workgroup, gang and grid. -/
def State.endSheaf (s : State) (k : Nat) : State :=
  match s.sheaf k with
  | none => s
  | some sh =>
    let s1 := (s.unbindAll k).releaseLeases k sh.wg
    (s1.modSheaf k (fun x => { x with ended := true, wait := none, sleep := none })).endWorkgroup sh.wg

/-- The workgroups that have not ended. -/
def State.running (s : State) : Nat := (s.wgs.filter (fun w => !w.2.ended)).length

/-- A sheaf at its end is released, and with it every sheaf that has come to its end by then: they end in one cycle. Once all
their resources are released, placement is retried if a workgroup has ended (R100, R109, R133). A sheaf whose save is over
gives up its core with its workgroup, and waits for its gang's. -/
def execSheafEnd (k : Nat) (s : State) : Host.Outcome State Fault Refusal :=
  .next (match s.sheaf k with
    | none => s
    | some sh =>
      if sh.saving == .saved then
        (match s.wg sh.wg with
         | some w => if s.wgSaved sh.wg then ((s.leaveCore sh.wg).saveGang w.gang).retryAll else s
         | none => s)
      else if !s.endDue k sh then s
      else
        let others := (s.sheaves.filter (fun p => p.1 != k && s.endDue p.1 p.2)).map (·.1)
        let t := (k :: others).foldl State.endSheaf s
        if t.running < s.running then t.retryAll else t)

/-! ### Tasks that complete or start again (R232, R233) -/

/-- `depdec` of one entry of a successor array; one that cannot be used is skipped (R232). -/
def State.lowerSuccessor (s : State) (p : Fin 16) (asid : BitVec 16) (at_ : DWord) : State × List Released :=
  match s.hwShort asid .rd false at_ 8 with
  | (t, .error _) => (t, [])
  | (t, .ok ps) =>
    let tcb := leDWord (t.sliceBytes ps)
    match t.hwTcb asid tcb with
    | (u, .error _) => (u, [])
    | (u, .ok cs) => u.lowerDep p asid (shortAddr tcb).va cs

/-- `depdec` of each successor in array order (R232), and the tasks that they make READY. -/
def State.lowerSuccessors (s : State) (p : Fin 16) (asid : BitVec 16) (arr : DWord) : Nat → Nat → State × List Released
  | _, 0 => (s, [])
  | i, n + 1 =>
    let (t, l) := s.lowerSuccessor p asid (arr + BitVec.ofNat 64 (8 * i))
    let (u, m) := State.lowerSuccessors t p asid arr (i + 1) n
    (u, l ++ m)

/-- The successors of one completion are released, and enter their FIFOs as in one cycle (R232, R284). -/
def State.releaseSuccessors (s : State) (p : Fin 16) (asid : BitVec 16) (arr : DWord) (n : Nat) : State :=
  let (t, l) := s.lowerSuccessors p asid arr 0 n
  t.enterAll l

/-- A task completes (R232): DONE, then its successors' counters. -/
def execTaskCompletion (wg : Nat) (s : State) : Host.Outcome State Fault Refusal :=
  .next (match s.wg wg with
    | none => s
    | some w =>
      match w.task with
      | none => s
      | some t =>
        if !w.ended || w.killed then s
        else
          let tcb := Tcb.of (s.readPlace t.at_ 64)
          let s1 := (s.putTaskState [(t.at_, 64)] 4).releaseSuccessors w.part w.asid tcb.succ tcb.nsucc
          ((((s1.completeRecord t.record).returnArea w.part t).modWg wg (fun x => { x with task := none })).endGang w.gang))

/-- A task is aborted and requeued from its start (R233): what it has not performed is discarded, its allocation freed. -/
def execTaskRequeue (wg : Nat) (s : State) : Host.Outcome State Fault Refusal :=
  .next (match s.wg wg with
    | none => s
    | some w =>
      match w.task, (s.sheavesOf wg).head? with
      | some t, some (k, sh) =>
        if !(sh.restarting || t.aborted) || w.ended || s.copies.any (fun x => x.k == k) || s.tops.any (fun x => x.k == k) then s
        else
          let s1 := { s with accs := s.accs.filter (fun a => a.k != k || a.stage == Stage.path) }
          let s2 := ((s1.unbindAll k).releaseWorkgroup wg w).returnArea w.part t
          let tcb := Tcb.of (s2.readPlace t.at_ 64)
          let s3 := (s2.putField [(t.at_, 64)] 0x1C (leBytes 4 (tcb.rstrt + 1).toNat)).putTaskState [(t.at_, 64)] 2
          let grid := (kget s3.gangs w.gang).elim 0 (fun g => g.grid)
          let s4 : State := { s3 with
            gangs := kdel s3.gangs w.gang, grids := kdel s3.grids grid
            wgs := kdel s3.wgs wg, sheaves := kdel s3.sheaves k }
          s4.enterFifo w.part tcb.prio ⟨t.tcb, w.asid, t.depth, w.stage, t.at_, t.record⟩
      | _, _ => s)

/-! ### Uncorrectable errors (R158, R281) -/

/-- What a killed member's bindings become (R281): an unarrived one of an OPEN join is retracted and unbound. -/
def State.settleBindings (s : State) (wg : Nat) : State :=
  s.joins.foldl (fun (t : State) kj =>
    match kget t.joins kj.1 with
    | none => t
    | some j =>
      if j.final || j.released then t
      else
        let mine := j.members.filter (fun m => m.wg == wg && !m.arrived && !m.condemned)
        (t.retractAll j (mine.filter (fun m => !m.retracted))).setJoin kj.1 { j with
          members := j.members.filter (fun m => !(m.wg == wg && !m.arrived && !m.condemned))
          unbound := j.unbound ++ mine.map (·.index) }) s

/-- The bindings of a workgroup, as the distributor keeps them for a relaunch (R281). -/
def State.keepBinds (s : State) (w : Workgroup) : List Kept :=
  w.joins.filterMap (fun b => b.map (fun x =>
    let j := kget s.joins x.join
    ⟨x.block, x.index, x.gen, !x.settled && j.elim true (·.final),
      x.condemned || (j.bind (fun e => e.holder x.index)).elim false (fun m => m.condemned)⟩))

/-- A whole gang killed and put back to start afresh, with its coordinates and ages (R281). -/
def State.relaunchGang (s : State) (k : Nat) : State :=
  match kget s.gangs k with
  | none => s
  | some g =>
    let ws := g.members.filterMap (fun w => (s.wg w).map (fun x => (w, x)))
    let mine := s.sheaves.filter (fun p => g.members.contains p.2.wg)
    let (stage, no) := match ws.head? with | some x => (x.2.stage, x.2.gangNo) | none => (0, 0)
    let pg : PendingGang := ⟨stage, no, mine.map (fun p => p.2.age), [], g.kept ++ ws.flatMap (fun x => s.keepBinds x.2), 0, false⟩
    let s1 := ws.foldl (fun (t : State) x => t.settleBindings x.1) s
    let s2 := mine.foldl (fun (t : State) p => t.performAll (fun a => a.k == p.1 && a.kind.writes)) s1
    let s3 := mine.foldl (fun (t : State) p => t.unbindAll p.1) s2
    let s4 := ws.foldl (fun (t : State) x => t.freeAllocsOf x.1 x.2.site []) s3
    let s5 : State := { s4 with
      gangs := kdel s4.gangs k
      wgs := s4.wgs.filter (fun w => w.2.gang != k)
      sheaves := s4.sheaves.filter (fun p => !g.members.contains p.2.wg)
      tiles := s4.tiles.filter (fun t => !g.members.contains t.wg)
      copies := s4.copies.map (fun x => if g.members.contains x.wg then { x with discard := true, stalled := none } else x)
      tops := s4.tops.filter (fun x => !g.members.contains x.wg)
      accs := s4.accs.filter (fun a => mine.all (fun p => p.1 != a.k)) }
    match kget s5.grids g.grid with
    | none => s5
    | some x =>
      let old := x.pending.filter (fun p => !p.ages.isEmpty)
      let new := x.pending.filter (fun p => p.ages.isEmpty)
      s5.setGrid g.grid { x with pending := old ++ [pg] ++ new }

/-- An uncorrectable error meets a workgroup (R158, R233, R276, R281). -/
def State.uncorrectable (s : State) (wg : Nat) : State :=
  match s.wg wg with
  | none => s
  | some w =>
    if w.ended then s
    else if w.task.isSome then
      s.modWg wg (fun x => { x with task := x.task.map (fun t => { t with aborted := true }) }) |>.mapSheaves (fun _ sh =>
        if sh.wg == wg then { sh with restarting := true, pend := none, hand := none, wait := none, sleep := none
                                      ctl := { sh.ctl with splits := stopOthers none sh.ctl.splits } } else sh)
    else if w.kernel.idemp then s.relaunchGang w.gang
    else s.kill wg

/-- An uncorrectable error in a granule of an allocation kills its owner (R158); one in no allocation kills nothing. -/
def execGranuleUncorrectable (site : Nat) (id : BitVec 16) (s : State) : Host.Outcome State Fault Refusal :=
  .next (match s.alloc site id with
    | some a => s.uncorrectable a.wg
    | none => s)

end Sys2Proof.Machine
end

