-- ==== Sys2Proof/Machine/Distributor.lean ====
section
/-! DEFINITION. The distributor: dispatch queues and launches (15 R226, 23 R329, 08 R131), feeds (15 R227), eviction of
waiting gangs (06 R111, R112), pre-emption (18 R276, R280). -/

namespace Sys2Proof.Machine

/-! ### Kernel descriptors (R329) -/

/-- A 64-bit field of a list of words, by the number of its low word. -/
def dwordAt (ws : List Word) (i : Nat) : DWord := DWord.ofPair (lget 0 ws i) (lget 0 ws (i + 1))

/-- Whether entry i of a descriptor is as R329 asks: within its ranges below `NGRAN`, all zeros at or above it. The bytes
0x44 to 0x47 of an entry are no field of the table. -/
def entryOk (ws : List Word) (ngran i : Nat) : Bool :=
  let e := (ws.drop (16 + 8 * i)).take 8
  if ngran ≤ i then e.all (· == 0)
  else
    let g := lget 0 e 0
    let size := (g.extractLsb' 0 24).toNat
    g.extractLsb' 27 5 == 0 && 1 ≤ size && size ≤ 6291456 && (dwordAt e 2).toNat % 4 == 0 && lget 0 e 6 == 0 && lget 0 e 7 == 0

/-- The kernel a descriptor's words describe, when every check of R329 passes. -/
def Kernel.ofWords (ws : List Word) (ss : Nat) : Option Kernel :=
  let w1 := lget 0 ws 1
  let w8 := lget 0 ws 8
  let named := (w1.extractLsb' 2 6).toNat
  let stages := (w1.extractLsb' 10 4).toNat
  let ngran := (w1.extractLsb' 14 5).toNat
  let acc := (List.range 4).map (fun t => (w8.extractLsb' (3 * t) 3).toNat)
  let stack := (lget 0 ws 6).toNat
  let ok := lget 0 ws 0 == 1 && w1.extractLsb' 19 13 == 0 && w8.extractLsb' 12 20 == 0 && ((ws.drop 9).take 7).all (· == 0)
  let fit := named ≤ 32 && ngran ≤ 16 && stages == ss && acc.all (· ≤ 4) && 64 ≤ stack && stack ≤ 16777216 && stack % 64 == 0 &&
    (dwordAt ws 2).toNat % 4 == 0 && (dwordAt ws 4).toNat % 4 == 0
  if ok && fit && (List.range 16).all (entryOk ws ngran) then
    some { width := 8 * 2 ^ (w1.extractLsb' 0 2).toNat, named := named, strict := w1.getLsbD 8, idemp := w1.getLsbD 9
           stages := stages + 1, entry := dwordAt ws 2, trape := dwordAt ws 4, stack := stack, acc := acc
           allocs := (List.range ngran).map (fun i =>
             let e := (ws.drop (16 + 8 * i)).take 8
             { size := ((lget 0 e 0).extractLsb' 0 24).toNat, rank := ((lget 0 e 0).extractLsb' 24 3).toNat
               handler := dwordAt e 2, backing := dwordAt e 4 }) }
  else none

/-- Whether a workgroup of a kernel would fit on an empty core at level 24 (R131, R143). Its slots, registers and tile sets
always do, by their ranges. -/
def Kernel.placeable (k : Kernel) : Bool :=
  let total := k.allocs.foldl (fun n a => n + granules a.size) 0
  let pinned := k.allocs.foldl (fun n a => if a.rank == 7 then n + granules a.size else n) 0
  total ≤ Config.granulesPerSilo * Config.silos && pinned ≤ Config.granulesPerSilo

/-! ### Dispatch queues (R226) -/

/-- The record at the head of a dispatch queue that can be popped: queue, index and words. -/
def State.dispatchHead (s : State) (k : Nat) : Option (Queue × Word × List Word) :=
  match kget s.queues k with
  | none => none
  | some q => if q.dispatch && q.state == .opened && q.whole then some (q, q.head, s.headRecord q) else none

/-- `KIND` of a record. -/
def recordKind (ws : List Word) : Nat := ((lget 0 ws 0).extractLsb' 0 8).toNat

/-- Whether a distributor takes the header for a reserved one (R222, R226): a `KIND` that is neither task nor launch, or a
nonzero [15:8]. -/
def badHeader (ws : List Word) : Bool :=
  !(recordKind ws == 1 || recordKind ws == 2) || (lget 0 ws 0).extractLsb' 8 8 != 0

/-- A distributor pops a task record (R226): `spawn` of its TCB, depth 0 and stage 0. -/
def execTaskRecordPop (queue : Nat) (s : State) : Host.Outcome State Fault Refusal :=
  .next (match s.dispatchHead queue with
    | none => s
    | some (q, i, ws) =>
      let s1 := s.setQueue queue q.take
      if badHeader ws then s1.failRecord (some ⟨queue, i, q.inc⟩)
      else if recordKind ws != 1 then s
      else if (ws.drop 4).any (· != 0) then s1.failRecord (some ⟨queue, i, q.inc⟩)
      else match s1.hwSpawn q.part (s.part q.part.val).asid (dwordAt ws 2) (some ⟨queue, i, q.inc⟩) with
        | .ok t => t
        | .error _ => s1.failRecord (some ⟨queue, i, q.inc⟩))

/-- Whether the words of a launch record are within their ranges, with `KDESC` a multiple of 64 (R226, R329). -/
def launchOk (ws : List Word) : Bool :=
  (lget 0 ws 4).extractLsb' 0 16 != 0 && (lget 0 ws 4).extractLsb' 28 4 == 0 && (lget 0 ws 5).toNat ≤ 16777215 &&
  (ws.drop 10).all (· == 0) && (dwordAt ws 2).toNat % 64 == 0

/-- The pending list of a fresh grid in coordinate order (R109). -/
def freshPending (stages gangs : Nat) : List PendingGang :=
  (List.range stages).flatMap (fun st => (List.range gangs).map (fun g => ⟨st, g, [], [], [], 0, false⟩))

/-- A launch that places nothing (R226): `DONEF` is POISONED with the fault's code, and the record completes. -/
def State.failLaunch (s : State) (p : Fin 16) (asid : BitVec 16) (donef : DWord) (code : Nat) (record : RecordRef) : State :=
  s.writeDonef p asid donef (futPoison code) (futPoison code) (some record)

/-- A grid begins (R226, R310): the chain record, then its pending list; its stack areas are taken from its partition's
(log 27). -/
def State.startGrid (s : State) (p : Fin 16) (asid : BitVec 16) (kr : Kernel) (ws : List Word) (args : List Byte)
    (record : RecordRef) : State :=
  let w4 := lget 0 ws 4
  let gangs := (w4.extractLsb' 0 16).toNat
  let m := (w4.extractLsb' 16 4).toNat + 1
  let k := (w4.extractLsb' 20 4).toNat + 1
  let s1 := s.chain p asid 2 args
  let x := s1.part p.val
  let g : Grid := { part := p, asid := asid, kernel := kr, gangs := gangs, m := m, k := k, stages := kr.stages
                    alen := (lget 0 ws 5).toNat, args := dwordAt ws 6, donef := dwordAt ws 8, stackBase := x.stackNext
                    pending := freshPending kr.stages gangs, left := kr.stages * gangs, record := some record }
  let s2 := s1.setPart p.val { x with
    stackNext := x.stackNext + BitVec.ofNat 64 (kr.stages * gangs * m * k * (kr.stack + 576)) }
  ({ s2 with grids := s2.grids ++ [(s2.nextKey, g)] }).bump

/-- A distributor pops a launch record (R226): the descriptor and the argument block are read before anything is placed. -/
def execLaunchRecordPop (queue : Nat) (s : State) : Host.Outcome State Fault Refusal :=
  .next (match s.dispatchHead queue with
    | none => s
    | some (q, i, ws) =>
      let asid := (s.part q.part.val).asid
      let s1 := s.setQueue queue q.take
      if badHeader ws then s1.failRecord (some ⟨queue, i, q.inc⟩)
      else if recordKind ws != 2 then s
      else if !launchOk ws then s1.failRecord (some ⟨queue, i, q.inc⟩)
      else match s1.hwBytes asid (dwordAt ws 2) 576 with
        | (t, .error code) => t.failLaunch q.part asid (dwordAt ws 8) code ⟨queue, i, q.inc⟩
        | (t, .ok bytes) =>
          match Kernel.ofWords (leWords bytes) ((lget 0 ws 4).extractLsb' 24 4).toNat with
          | none => t.failRecord (some ⟨queue, i, q.inc⟩)
          | some kr =>
            if !kr.placeable then t.failLaunch q.part asid (dwordAt ws 8) 0x15 ⟨queue, i, q.inc⟩
            else match t.hwBytes asid (dwordAt ws 6) (lget 0 ws 5).toNat with
              | (u, .error code) => u.failLaunch q.part asid (dwordAt ws 8) code ⟨queue, i, q.inc⟩
              | (u, .ok args) => u.startGrid q.part asid kr ws args ⟨queue, i, q.inc⟩)

/-! ### Queue identifiers and feeds (R297, R227) -/

/-- A right in a queue-map entry. -/
def mapRight (e : Word) (push : Bool) : Bool :=
  e.getLsbD 12 && (if push then e.getLsbD 14 else e.getLsbD 13) && e.extractLsb' 15 17 == 0

/-- An entry of a queue map; one that is not listed is 0. -/
def mapEntry (l : List (BitVec 12 × Word)) (i : BitVec 12) : Word := ((l.find? (fun p => p.1 == i)).map (·.2)).getD 0

/-- The entry of a guest hypervisor's own table (R297): 0 where the table cannot be read. -/
def State.guestEntry (s : State) (asid : BitVec 16) (table : DWord) (i : BitVec 12) : State × Word :=
  match s.hwBytes asid (table + BitVec.ofNat 64 (4 * i.toNat)) 4 with
  | (t, .ok bs) => (t, leWord bs)
  | (t, .error _) => (t, 0)

/-- A partition's identifier through stage 2 to a device queue (R297). -/
def Partition.hostQueue (p : Partition) (i : BitVec 12) (push : Bool) : Option Nat :=
  let e := mapEntry p.stage2 i
  let q := (e.extractLsb' 0 12).toNat
  if mapRight e push && p.qBase ≤ q && q < p.qBase + p.qCount then some q else none

/-- A partition's identifier translated to a device queue (R297): through stage 1 where there is one, then stage 2. -/
def State.mapQueue (s : State) (part : Fin 16) (i : BitVec 12) (push : Bool) : State × Option Nat :=
  let p := s.part part.val
  match p.stage1 with
  | none => (s, p.hostQueue i push)
  | some table =>
    let (t, e) := s.guestEntry p.asid table i
    (t, if mapRight e push then p.hostQueue (e.extractLsb' 0 12) push else none)

/-- Records appended at the tail in one step, if the queue takes them (R221, R227, R308): 0 appended, 1 full, 2 gone. -/
def State.appendRecords (s : State) (k : Nat) (rs : List (List Word)) : Nat × State :=
  match kget s.queues k with
  | none => (2, s)
  | some q =>
    if q.state != .opened then (2, s)
    else if q.room < rs.length then (1, s)
    else (0, rs.foldl (fun (t : State) r => t.pushRecord k r) s)

/-- A feed (R227); it waits during a hand-over (R314). -/
def execFeed (part : Fin 16) (id : BitVec 12) (records : List (List Word)) (s : State) : Host.Outcome State Fault Refusal :=
  .next (if s.firmware.hold then s else match s.mapQueue part id true with
    | (t, none) => t.setPart part.val { t.part part.val with feed := 2 }
    | (u, some q) =>
      let (st, t) := u.appendRecords q records
      t.setPart part.val { t.part part.val with feed := st })

/-! ### Pre-emption and eviction (R112, R276, R277, R280) -/

/-- Bytes between the context save areas of a partition (R277, log 27): enough for a workgroup's slots, allocations and tiles. -/
def saveStride : Nat := 0x1000000

/-- Workgroups get their context save areas (R277). -/
def State.giveAreas (s : State) : List Nat → State
  | [] => s
  | w :: ws =>
    match s.wg w with
    | some x =>
      if x.saveArea != 0 then s.giveAreas ws
      else
        let p := s.part x.part.val
        ((s.setWg w { x with saveArea := p.saveNext }).setPart x.part.val { p with
          saveNext := p.saveNext + BitVec.ofNat 64 saveStride }).giveAreas ws
    | none => s.giveAreas ws

/-- A whole gang is to be saved (R277, R278): the request is pending at each of its sheaves, which issue nothing more of
their own program; at one that is being restored it stays pending until its `tret` (R270, R276). -/
def State.preemptGang (s : State) (k : Nat) (evict : Bool) : State :=
  match kget s.gangs k with
  | none => s
  | some g =>
    let s1 := (s.setGang k { g with evict := evict }).giveAreas g.members
    s1.mapSheaves (fun _ sh =>
      if !g.members.contains sh.wg || sh.finished || sh.ended || sh.saving == .saving || sh.saving == .saved then sh
      else { sh with preempt := true })

/-- A wait that the scheduler sees (R110, R153). -/
def Wait.seen : Wait → Bool
  | .replay .. => false
  | .shadow .. => false
  | _ => true

/-- Whether a gang may be evicted: each of its sheaves is descheduled by R110 or has ended (R112), and none is halted (R324). -/
def State.evictable (s : State) (g : Gang) : Bool :=
  s.sheaves.all (fun p => !g.members.contains p.2.wg || p.2.ended || p.2.finished ||
    ((match p.2.wait with | some w => w.seen | none => false) && !p.2.halted && !p.2.haltReq && p.2.pend.isNone &&
      p.2.hand.isNone && p.2.saving == .none && !p.2.restarting && !p.2.preempt))

/-- The state with a gang away, to see what then fits. -/
def State.away (s : State) (g : Gang) : State :=
  { s with
    wgs := s.wgs.filter (fun w => !g.members.contains w.1)
    sheaves := s.sheaves.filter (fun p => !g.members.contains p.2.wg)
    cores := s.cores.map (fun c => (c.1, { c.2 with allocs := c.2.allocs.filter (fun a => !g.members.contains a.wg) })) }

/-- Whether the first gang of a pending list can be placed. -/
def State.headFits (s : State) (k : Nat) (g : Grid) (pg : PendingGang) : Bool :=
  (s.placeGang k g pg ((pg.saved.head?).bind (fun v => v.wg.task)) 0 []).isSome

/-- The gang of a grid that is to make room (R111, R112): every resident workgroup of the grid waits, and the most recently
placed gang whose removal lets the head fit is taken. -/
def State.victim (s : State) (k : Nat) (g : Grid) : Option Nat :=
  match g.pending.find? (fun p => !p.waits) with
  | none => none
  | some pg =>
    let mine := s.gangs.filter (fun x => x.2.grid == k)
    if mine.any (fun x => x.2.evict) || !mine.all (fun x => s.evictable x.2) || s.headFits k g pg then none
    else ((mine.filter (fun x => (s.away x.2).headFits k g pg)).getLast?).map (·.1)

/-- A gang whose sheaves all wait is saved to make room for a pending gang of its grid (R112). -/
def execWaitEviction (part : Fin 16) (s : State) : Host.Outcome State Fault Refusal :=
  .next (match (s.grids.filter (fun g => g.2.part == part)).findSome? (fun g => s.victim g.1 g.2) with
    | some k => s.preemptGang k true
    | none => s)

/-- Placement stops on cores, and every gang with a member on them is to be saved (R280). -/
def State.vacate (s : State) (sites : List Nat) : State :=
  let s1 := sites.foldl (fun (t : State) c => t.modCore c (fun x => { x with noPlace := true })) s
  (s1.gangs.filter (fun g => g.2.members.any (fun w => match s1.wg w with
    | some x => sites.contains x.site && !x.ended
    | none => false))).foldl (fun (t : State) g => t.preemptGang g.1 false) s1

/-- The n highest-numbered cores of a partition that hold resident work are vacated (R280). -/
def execSpatialPreemption (part : Fin 16) (n : Nat) (s : State) : Host.Outcome State Fault Refusal :=
  let busy := (s.part part.val).cores.filter (fun c => !(s.workgroupsOn c).isEmpty)
  .next (s.vacate (busy.drop (busy.length - n)))

/-- The gang of a sheaf. -/
def State.gangOf (s : State) (sh : Sheaf) : Option Nat := (s.wg sh.wg).map (fun w => w.gang)

/-- A pre-emption request reaches a sheaf (R276, rank 5): its gang is to be saved. -/
def execPreemptionRequest (k : Nat) (s : State) : Host.Outcome State Fault Refusal :=
  .next (match (s.sheaf k).bind s.gangOf with
    | some g => s.preemptGang g false
    | none => s)

/-- A time slice expires (R276, rank 6): with a fault, a halt or a request there it is deferred, else it is a pre-emption. -/
def execTimeSliceExpiry (k : Nat) (s : State) : Host.Outcome State Fault Refusal :=
  .next (match s.sheaf k with
    | none => s
    | some sh =>
      if sh.pend.isSome || sh.hand.isSome || sh.haltReq || sh.halted || sh.restarting || sh.preempt then s.setSheaf k { sh with slice := true }
      else match s.gangOf sh with
        | some g => s.preemptGang g false
        | none => s)

/-- A deferred time slice is evaluated again once nothing of a higher rank is left (R276). -/
def State.sliceAgain (s : State) (k : Nat) : State :=
  match s.sheaf k with
  | none => s
  | some sh =>
    if !sh.slice || sh.pend.isSome || sh.hand.isSome || sh.halted || sh.haltReq then s
    else match s.gangOf sh with
      | some g => (s.setSheaf k { sh with slice := false }).preemptGang g false
      | none => s

end Sys2Proof.Machine
end

