-- ==== Sys2Proof/Machine/Queues.lean ====
section
/-! DEFINITION. Queue-port instructions (16 R248, R249), the life of a queue (15 R221, R224, 20 R297), push windows (20
R298). -/

namespace Sys2Proof
namespace Machine

/-! ### Binding (R248) -/

/-- `qbind` (R248, R297). -/
def execQbind (push : Bool) (port : Fin 8) (id : GSrc) (s : State) : Host.Outcome State Fault Refusal :=
  issue s (fun c => groupStep s c [⟨2, id, 1⟩] none (fun vs s1 =>
    let a := (vs.headD 0).lo
    if a.extractLsb' 12 20 != 0 then s.trap c 0x02 2
    else match s1.mapQueue c.wg.part (a.extractLsb' 0 12) push with
      | (_, none) => s.trap c 0x16 2
      | (s2, some q) =>
        match kget s.queues q with
        | none => s.trap c 0x17 2
        | some x =>
          if x.state != .opened then s.trap c 0x17 2
          else if (s.portOf c.sh port.val).isSome then s.trap c 0x02 1
          else (s2.modSheaf c.k (fun sh => { sh with ports := lset sh.ports port.val (some ⟨q, x.inc, push, 0, 0⟩) })).advance c))

/-- `qunbind` (R248). -/
def execQunbind (port : Fin 8) (s : State) : Host.Outcome State Fault Refusal :=
  issue s (fun c => (s.unbindPort c.k port.val).advance c)

/-! ### Whole records (R249) -/

/-- The fault of the registers of a record operation: a number beyond the declared count, an odd one at width 8. -/
def recordRegs (c : Ctx) (r : LReg) : Option Nat :=
  match r with
  | .n k =>
    if c.sh.named ≤ k.val then some 0x04
    else if c.sh.width = 8 && k.val % 2 = 1 then some 0x02
    else if c.sh.width = 8 && c.sh.named ≤ k.val + 1 then some 0x04
    else none
  | _ => some 0x02

/-- The lane and the register of each word of a record that an active lane takes. -/
def recordPlaces (c : Ctx) (r : LReg) : List (Nat × Nat × LReg) :=
  ((List.range 16).map (fun i => (i, i % c.sh.width, r.nth (i / c.sh.width)))).filter (fun x => c.sp.mask.getLsbD x.2.1)

end Machine

/-- A register as a destination. -/
def LReg.asDst : LReg → LDst
  | .n k => .n k
  | .h k => .h k
  | _ => .push

namespace Machine

/-- `qpop.rec` (R249, R223, R225): the words are on their way to the registers until they arrive. -/
def execQpopRec (d : LReg) (port : Fin 8) (s : State) : Host.Outcome State Fault Refusal :=
  issue s (fun c =>
    match recordRegs c d with
    | some code => s.trap c code 1
    | none =>
      match s.portFault c.sh [⟨2, port.val, false, 16⟩] ⟨2, port.val, false, 16⟩, s.portOf c.sh port.val with
      | some (code, fld), _ => s.trap c code fld
      | none, none => s.trap c 0x06 2
      | none, some (p, q) =>
        if p.popsPart q then s.trap c 0x02 2
        else if 63 ≤ c.sh.loads then s.stall c 7
        else if !q.whole then s.stallPort c [⟨p.q, false, 16⟩]
        else
          let ws := s.headRecord q
          let s1 := s.setQueue p.q (q.take.complete q.head)
          let op := s1.nextKey
          let lanes := (maskLanes c.sp.mask).filter (fun l => l < 16)
          let words : Nat → List Word := fun l => (List.range (if c.sh.width = 8 then 2 else 1)).map (fun i => lget 0 ws (l + 8 * i))
          let s2 := s1.bump.modSheaf c.k (fun sh => { sh with loads := sh.loads + 1 })
          let s3 := lanes.foldl (fun (t : State) l =>
            let a : Acc := ⟨t.nextKey, op, op, c.k, c.site, l, .word, 0, 0, .hbm 0, 0, wordBytes (words l), .rlx, .sh, .un, .issued, [], none⟩
            ({ t with accs := t.accs ++ [a] }.bump).modLanes c.k [l] (fun _ _ x =>
              x.writeEntries d.asDst (reserved op (words l).length))) s2
          let s4 := if lanes.isEmpty then s1 else s3
          (s4.popDecision c.k p.q q.head.toNat).advance c)

/-- Whether a queue is a command queue (R309): identifier 0 of some partition's map names it. -/
def State.isCommand (s : State) (q : Nat) : Bool := s.parts.any (fun p => (s.mapQueue (Fin.ofNat 16 p.1) 0 true).2 == some q)

/-- `qpush.rec` (R249, R222); a push to a command queue is a release of scope `.dv` (R309). -/
def execQpushRec (a : LReg) (port : Fin 8) (s : State) : Host.Outcome State Fault Refusal :=
  issue s (fun c =>
    match recordRegs c a with
    | some code => s.trap c code 2
    | none =>
      match s.portFault c.sh [] ⟨3, port.val, true, 16⟩, s.portOf c.sh port.val with
      | some (code, fld), _ => s.trap c code fld
      | none, none => s.trap c 0x06 3
      | none, some (p, q) =>
        let places := recordPlaces c a
        if p.words != 0 then s.trap c 0x02 3
        else if c.sh.strict && places.any (fun x => (regRead s.free c.sh x.2.1 x.2.2).2) then s.trap c 0x03 2
        else if 63 ≤ c.sh.stores then s.stall c 7
        else if q.room = 0 then s.stallPort c [⟨p.q, true, 1⟩]
        else if s.isCommand p.q && !s.drainedFor c.k false then s.stall c 2
        else
          let ws := (List.range 16).map (fun i => match places.find? (fun x => x.1 == i) with
            | some x => (regRead s.free c.sh x.2.1 x.2.2).1
            | none => 0)
          (s.pushRecord p.q ws).advance c)

/-! ### The life of a queue (R221, R224, R297) -/

/-- Whether a ring may lie at a place (R221): aligned, in the granary only in a pinned allocation of the owning partition. -/
def State.ringOk (s : State) (ring : Place) (part : Fin 16) (bytes : Nat) : Bool :=
  match ring with
  | .hbm pa => pa % 64 == 0
  | .gran site id off => match s.alloc site id with
    | some a => a.rank == 7 && off % 64 == 0 && off + bytes ≤ a.size * Config.granuleBytes &&
        ((s.wg a.wg).map (·.part)) == some part
    | none => false
  | .pod .. => false

/-- Entries of a partition's host table written (R297). -/
def Partition.putMap (p : Partition) (map : List (BitVec 12 × Word)) : Partition :=
  { p with stage2 := map.foldl (fun l e => e :: l.filter (fun x => x.1 != e.1)) p.stage2 }

/-- The resident kernel creates a queue, and writes the stage-2 entries that it gives its partition with it (R221, R295, R297). -/
def execQueueCreate (queue : Nat) (ring : Place) (log2 : Nat) (part : Fin 16) (owner : Fin 8) (dispatch : QueueUse) (s : State) : Host.Outcome State Fault Refusal :=
  let p := s.part part.val
  let free := match kget s.queues queue with | some q => q.state == .dead | none => true
  .next (if free && 4 ≤ log2 && log2 ≤ 16 && p.qBase ≤ queue && queue < p.qBase + p.qCount && queue < 4096 &&
      s.ringOk ring part (64 * 2 ^ log2) then
    let q : Queue := { ring := ring, inc := s.nextKey, log2 := log2, part := part, owner := owner, dispatch := dispatch.dispatch, head := 0
                       tail := 0, floor := 0, state := .opened, done := [], taken := [], popped := 0, bad := [] }
    (s.bump.setPart part.val (p.putMap dispatch.map)).setQueue queue q
  else s)

/-- A queue drains (R224): OPEN or ERROR to DRAINING. -/
def Queue.drain (q : Queue) : Queue :=
  if q.state == .opened || q.state == .error then { q.settleBad with state := .draining } else q

/-- A queue changed where it stands. -/
def State.modQueue (s : State) (k : Nat) (f : Queue → Queue) : State :=
  match kget s.queues k with
  | some q => s.setQueue k (f q)
  | none => s

/-- A destroy request (R224, R225). -/
def execQueueDestroy (queue : Nat) (s : State) : Host.Outcome State Fault Refusal := .next (s.modQueue queue Queue.drain)

/-- A draining queue whose started records have all completed is DEAD (R224). -/
def execQueueDead (queue : Nat) (s : State) : Host.Outcome State Fault Refusal :=
  .next (s.modQueue queue (fun q =>
    if q.state == .draining && q.floor == q.head && q.popped == 0 then { q with state := .dead } else q))

/-- The resident kernel resets a queue in ERROR (R224): head stands past the bad record. -/
def execQueueReset (queue : Nat) (s : State) : Host.Outcome State Fault Refusal :=
  .next (s.modQueue queue (fun q => if q.state == .error then { q.settleBad with state := .opened } else q))

/-- Whether some partition's host table names a queue (R297). -/
def State.mapped (s : State) (q : Nat) : Bool :=
  s.parts.any (fun p => p.2.stage2.any (fun e => e.2.getLsbD 12 && (e.2.extractLsb' 0 12).toNat == q))

/-- The resident kernel removes a stage-2 entry; the queue it was the last to name drains (R297). -/
def execQueueUnmap (part : Fin 16) (id : BitVec 12) (s : State) : Host.Outcome State Fault Refusal :=
  let p := s.part part.val
  let e := mapEntry p.stage2 id
  let q := (e.extractLsb' 0 12).toNat
  let s1 := s.setPart part.val { p with stage2 := p.stage2.filter (fun x => x.1 != id) }
  .next (if !e.getLsbD 12 then s else if s1.mapped q then s1 else s1.modQueue q Queue.drain)

/-! ### Push windows (R298) -/

/-- The staged record of a window is pushed, all or nothing, and `RES` says how it went (R298). -/
def State.ringBell (s : State) (w : Window) : State :=
  let (st, t) := s.appendRecords w.q [leWords w.stage]
  { t with windows := t.windows.map (fun x => if x.app == w.app && x.q == w.q then { x with res := BitVec.ofNat 2 st } else x) }

/-- A store to `BELL` performs (R298). -/
def execPushWindowBell (app : Fin 16) (queue : Nat) (s : State) : Host.Outcome State Fault Refusal :=
  .next (match s.windows.find? (fun w => w.app == app && w.q == queue) with
    | none => s
    | some w => s.ringBell w)

end Machine
end Sys2Proof
end

