-- ==== Sys2Proof/Machine/GranaryInstr.lean ====
section
/-! DEFINITION. Segment descriptors and the granary: instructions (11 R184 to R193) and levels (09 R141, R149 to R158, 12 R194,
R195, 20 R303). -/

namespace Sys2Proof.Machine

/-! ### Segment descriptors (R184) -/

/-- A segment of the issuing sheaf replaced. -/
def State.setSegment (s : State) (c : Ctx) (seg : Fin 8) (f : Segment → Segment) : State :=
  s.modSheaf c.k (fun sh => { sh with segs := lmod f sh.segs seg.val })

/-- `setseg` with a value: segments 0 to 4 are illegal operands. -/
def setsegOp (s : State) (seg : Fin 8) (x : GSrc) (f : DWord → Segment → Segment) : Host.Outcome State Fault Refusal :=
  issue s (fun c =>
    if seg.val < 5 then s.trap c 0x02 0
    else groupStep s c [⟨2, x, 2⟩] none (fun vs s1 => (s1.setSegment c seg (f (vs.headD 0))).advance c))

/-- `setseg.base` (R184). -/
def execSetsegBase (seg : Fin 8) (x : GSrc) (s : State) : Host.Outcome State Fault Refusal :=
  setsegOp s seg x (fun v g => { g with base := g.base.extractLsb' 64 16 ++ v, v := true })

/-- `setseg.last` (R184). -/
def execSetsegLast (seg : Fin 8) (x : GSrc) (s : State) : Host.Outcome State Fault Refusal :=
  setsegOp s seg x (fun v g => { g with last := v, v := true })

/-- `setseg.hi` (R184). -/
def execSetsegHi (seg : Fin 8) (x : GSrc) (s : State) : Host.Outcome State Fault Refusal :=
  setsegOp s seg x (fun v g => { g with base := v.extractLsb' 0 16 ++ g.base.extractLsb' 0 64, v := true })

/-- `setseg.clr` (R184). -/
def execSetsegClr (seg : Fin 8) (s : State) : Host.Outcome State Fault Refusal :=
  issue s (fun c =>
    if seg.val < 5 then s.trap c 0x02 0
    else (s.setSegment c seg (fun g => { g with v := false })).advance c)

/-- A part of a segment descriptor (R184). -/
def Segment.part (g : Segment) (part : Fin 4) : DWord :=
  match part with
  | 0 => g.base.extractLsb' 0 64
  | 1 => g.last
  | 2 => (g.base.extractLsb' 64 16).setWidth 64
  | _ => (BitVec.ofBool g.v).setWidth 64

/-- `getseg` (R184). -/
def execGetseg (part : Fin 4) (seg : Fin 8) (d : GDst) (s : State) : Host.Outcome State Fault Refusal :=
  groupAlu s [] d 2 (fun _ =>
    match s.ctx with
    | some c => (lget ⟨0, 0, false⟩ c.sh.segs seg.val).part part
    | none => 0)

/-! ### Allocation operands (R185) -/

/-- The allocation of the issuing workgroup that an allocation operand names. -/
def State.allocOf (s : State) (c : Ctx) (v : Word) : Option Alloc :=
  let mine : Option Alloc → Option Alloc := fun a => a.filter (fun x => x.wg == c.sh.wg && !x.journal)
  if v.extractLsb' 16 16 == 0 then (if v == 0 then none else mine (s.alloc c.site (v.extractLsb' 0 16)))
  else if v.extractLsb' 4 28 == 0xFFFF000#28 then
    match c.wg.decls[(v.extractLsb' 0 4).toNat]? with
    | some i => (mine (s.alloc c.site i)).filter (fun a => a.decl)
    | none => none
  else none

/-- An instruction on the allocation that its operand A names: protection when it names none (R185). -/
def allocOp (s : State) (us : List GUse) (go : Ctx → Alloc → List DWord → State → State) : Host.Outcome State Fault Refusal :=
  issue s (fun c => groupStep s c us none (fun vs s1 =>
    match s.allocOf c (vs.headD 0).lo with
    | none => s.trap c 0x0A 2
    | some a => go c a vs s1))

/-! ### `grant` (R186, R187) -/

/-- The register two on, for the second pair of the attributes. -/
def pairAfter (x : GSrc) : GSrc :=
  match x with
  | .g k => .g (Fin.ofNat 32 (k.val + 2))
  | .b k => .b (Fin.ofNat 16 (k.val + 2))
  | y => y

/-- A relight (R187): by the sheaf that runs the allocation's handler, while its core has the granules. A `B` other than 0 is an
illegal operand (log 32). -/
def relight (s s1 : State) (c : Ctx) (d : GDst) (ctl : Word) (attr : GSrc) : State :=
  if ctl.extractLsb' 16 15 != 0 then s.trap c 0x02 2
  else if attr != .g 0 then s.trap c 0x02 3
  else
    let id := ctl.extractLsb' 0 16
    let named := match c.sh.hand with
      | some h => if h.glean && h.id == id then (s.alloc h.site id).map (fun a => (h.site, a)) else none
      | none => none
    match named with
    | none => (s1.gWrite c d [0]).advance c
    | some (site, a) =>
      if a.state == .refilling && !a.relit && a.handSheaf == some c.k && s.granulesFit site a.size 0 then
        ((s1.modAlloc site id (fun x => { x with relit := true, data := [] })).gWrite c d [id.setWidth 32]).advance c
      else (s1.gWrite c d [0]).advance c

/-- A new allocation (R186). -/
def grantNew (s s1 : State) (c : Ctx) (d : GDst) (ctl : Word) (handler backing : DWord) : State :=
  let size := (ctl.extractLsb' 0 24).toNat
  if ctl.extractLsb' 27 5 != 0 || size = 0 || 6291456 < size then s.trap c 0x02 2
  else if handler.extractLsb' 0 2 != 0 then s.trap c 0x02 3
  else match s1.makeAlloc c.site c.sh.wg ⟨size, (ctl.extractLsb' 24 3).toNat, handler, backing⟩ false with
    | some (id, t) => (t.gWrite c d [id.setWidth 32]).advance c
    | none => (s1.gWrite c d [0]).advance c

/-- The operands of `grant`. -/
def grantUses (ctl attr : GSrc) : List GUse := [⟨2, ctl, 1⟩, ⟨3, attr, 2⟩, ⟨3, pairAfter attr, 2⟩]

/-- `grant` (R186, R187): bit 31 of the control word tells a relight from a new allocation (log 24). -/
def execGrant (d : GDst) (ctl attr : GSrc) (s : State) : Host.Outcome State Fault Refusal :=
  issue s (fun c => groupStep s c (grantUses ctl attr) (some d) (fun vs s1 =>
    let w := (vs.headD 0).lo
    if w.getLsbD 31 then relight s s1 c d w attr else grantNew s s1 c d w (lget 0 vs 1) (lget 0 vs 2)))

/-- A relighting `grant` (R187; log 24): the same word as `grant`, whose control word has bit 31 set. -/
def execGrantRelight (d : GDst) (ctl attr : GSrc) (s : State) : Host.Outcome State Fault Refusal :=
  issue s (fun c => groupStep s c (grantUses ctl attr) (some d) (fun vs s1 =>
    let w := (vs.headD 0).lo
    if w.getLsbD 31 then relight s s1 c d w attr else grantNew s s1 c d w (lget 0 vs 1) (lget 0 vs 2)))

/-! ### `gfree`, `grank`, `gstat` (R188, R189, R191) -/

/-- `gfree` (R188). -/
def execGfree (a : GSrc) (s : State) : Host.Outcome State Fault Refusal :=
  allocOp s [⟨2, a, 1⟩] (fun c x _ s1 => (s1.freeAlloc c.site x.id).advance c)

/-- `grank` (R189). -/
def execGrank (a r : GSrc) (s : State) : Host.Outcome State Fault Refusal :=
  allocOp s [⟨2, a, 1⟩, ⟨3, r, 1⟩] (fun c x vs s1 =>
    let v := (lget 0 vs 1).lo
    let others := (s.core c.site).allocs.filter (fun y => y.id != x.id)
    if v.extractLsb' 3 29 != 0 then s.trap c 0x02 3
    else if v.toNat < 7 then (s1.modAlloc c.site x.id (fun y => { y with rank := v.toNat })).advance c
    else if x.state == .lit && pinnedGranules others + x.size ≤ Config.granulesPerSilo then
      (s1.modAlloc c.site x.id (fun y => { y with rank := 7 })).advance c
    else s1.advance c)

/-- `gstat.level` (R191). -/
def execGstatLevel (d : GDst) (s : State) : Host.Outcome State Fault Refusal :=
  groupAlu s [] d 2 (fun _ =>
    match s.ctx with
    | none => 0
    | some c =>
      let x := s.die (dieOf c.site)
      let p := match x.pending with | some (p, _) => p | none => x.level
      let left := match x.pending with | some (_, t) => t - s.cycle | none => 0
      DWord.ofPair (BitVec.ofNat 32 (x.level + p * 2 ^ 8 + (s.core c.site).usable * 2 ^ 16)) (BitVec.ofNat 32 left))

/-- `gstat.alloc` (R191, R185). -/
def execGstatAlloc (d : GDst) (a : GSrc) (s : State) : Host.Outcome State Fault Refusal :=
  groupAlu s [⟨2, a, 1⟩] d 2 (fun vs =>
    match s.ctx with
    | none => 0
    | some c => match s.allocOf c (vs.headD 0).lo with
      | some x => DWord.ofPair x.word0 (BitVec.ofNat 32 x.woff)
      | none => 0)

/-! ### `shadow` (R190) -/

/-- Where a write-back goes: the backing copy in `seg0`. -/
def State.backing (s : State) (c : Ctx) (a : Alloc) : Except (Reach × Addr) (List (Place × Nat)) :=
  s.reachRange { c.via with seg := 0 } (localAddr a.backing) (a.size * Config.granuleBytes) .wr

/-- `shadow` (R190): the write-back begins once the whole backing copy can be reached, and the sheaf waits for it. -/
def execShadow (a : GSrc) (s : State) : Host.Outcome State Fault Refusal :=
  issue s (fun c => groupVals s c [⟨2, a, 1⟩] none (fun vs s1 =>
    match s.allocOf c (vs.headD 0).lo with
    | none => s.trap c 0x0A 2
    | some x =>
      if x.backing = 0 then s.trap c 0x02 2
      else match x.state with
        | .lit =>
          if c.stops then s.stall c 21
          else if x.writeback.isSome then s.stall c 23
          else (match s1.backing c x with
            | .error e => inTheWay s s1 c vs 2 true (localAddr x.backing) e
            | .ok _ => (s1.modAlloc c.site x.id (fun y => { y with writeback := some c.k })).waitOn c (.shadow c.site x.id))
        | .refilling => ((s1.performAll (inAlloc c.site x.id)).modAlloc c.site x.id (fun y => { y with
            state := .shadowed, relit := false, handSheaf := none, data := [] })).advance c
        | _ => s1.advance c))

/-- The sheaf k as it waits in an instruction. -/
def State.waiterCtx (s : State) (k : Nat) : Option Ctx :=
  match s.sheaf k with
  | none => none
  | some sh =>
    match sh.ctl.splits[sh.waiter]?, s.wg sh.wg with
    | some sp, some wg => some ⟨k, sh.waiter, sh, sp, wg⟩
    | _, _ => none

/-- A sheaf's `shadow` is over; with a fault pending it stops before its next instruction (R190, R266). -/
def Sheaf.shadowDone (sh : Sheaf) : Sheaf :=
  let x := sh.finishWait sh.waiter
  if x.pend.isSome && x.hand.isNone then { x with ctl := { x.ctl with splits := stopOthers none x.ctl.splits } } else x

/-- A write-back of an allocation is over (R190): its bytes stand at the backing copy, and it holds no granules. Where the
backing copy can no longer be reached, its bytes are undefined and `shadow` issues again, to meet the fault. -/
def execShadowWritebackComplete (site : Nat) (id : BitVec 16) (s : State) : Host.Outcome State Fault Refusal :=
  .next (match s.alloc site id with
    | none => s
    | some a =>
      match a.writeback with
      | none => s
      | some k =>
        match s.waiterCtx k with
        | none => s.modAlloc site id (fun y => { y with writeback := none })
        | some c =>
          let n := a.size * Config.granuleBytes
          match (s.performAll (inAlloc site id)).hwPages { c.via with seg := 0 } .wr (n / 65536 + 2) (localAddr a.backing) n with
          | (t, .ok ps) =>
            let bytes := match t.alloc site id with | some b => Memory.read b.data 0 n | none => []
            ((((t.writePieces ps bytes).dropL1 site).modAlloc site id (fun y => { y with
                state := .shadowed, writeback := none, data := [] })).modSheaf k Sheaf.shadowDone)
          | (t, .error _) =>
            let held : List (Place × Nat) := match t.reach { c.via with seg := 0 } (localAddr a.backing) 1 .wr with
              | .ok pl _ => [(pl, 64)]
              | _ => []
            (((t.writePieces held ((List.range 64).map (Config.brokenByte t.free))).modAlloc site id (fun y => { y with
                writeback := none })).modSheaf k (fun sh => { sh with wait := none })))

/-! ### `lret` (R154, R192, R194) -/

/-- What a handler leaves of its allocation (R154). -/
def Alloc.settled (a : Alloc) : Alloc :=
  if a.state == .refilling then { a with state := if a.relit then .lit else .dark, relit := false, handSheaf := none } else a

/-- The cores of the sheaves that wait for an allocation drop their copies (R194). -/
def State.waitersSee (s : State) (site : Nat) (id : BitVec 16) : State :=
  (s.sheaves.filter (fun p => p.2.wait == some (.loss site id))).foldl (fun (t : State) p =>
    match t.wg p.2.wg with
    | some w => t.dropL1 w.site
    | none => t) s

/-- `lret` (R192, R194, R272): it takes effect once the handler's stores and atomics, and what its loads have returned, have
performed at `.gg`; what replays because of it sees them, on the handler's core too. -/
def execLret (s : State) : Host.Outcome State Fault Refusal :=
  issue s (fun c =>
    match c.sh.hand with
    | none => s.trap c 0x01 0
    | some h =>
      if !h.glean then s.trap c 0x01 0
      else if s.accs.any (fun a => a.k == c.k && (a.kind.writes || a.kind.reads) && !a.performedAt .gg) then s.stall c 4
      else
        let s1 := ((s.modAlloc h.site h.id Alloc.settled).waitersSee h.site h.id).dropL1 c.site
        ((s1.wakeLoss h.site h.id).leaveHandler c.k h none).sliceAgain c.k)

/-! ### Replacement requests (R305) -/

/-- A pool has reached its level: `REPL` and `CAUSE` (R302, R305). -/
def State.requestRepl (s : State) (cause : Nat) : State := { s with repl := true, cause := cause }

/-! ### Levels (R141, R149, R151, R158) -/

/-- An allocation put in its place among victims: lowest rank first, the youngest of a rank first (R151). -/
def insertVictim (a : Alloc) : List Alloc → List Alloc
  | [] => [a]
  | b :: l => if a.rank < b.rank || (a.rank == b.rank && b.seq ≤ a.seq) then a :: b :: l else b :: insertVictim a l

/-- The candidates of a loss point on a core, in the order of R151. -/
def lossOrder (l : List Alloc) : List Alloc := (l.filter (fun a => a.holds && a.rank < 7)).foldr insertVictim []

/-- The identifiers chosen while the granules held exceed a capacity (R151). -/
def choose (cap : Nat) : Nat → List Alloc → List (BitVec 16)
  | _, [] => []
  | used, a :: l => if used ≤ cap then [] else a.id :: choose cap (used - a.size) l

/-- An allocation chosen at a loss point (R151). -/
def Alloc.lose (a : Alloc) : Alloc :=
  if a.state == .lit then { a with state := .dark, data := [] } else { a with relit := false, data := [] }

/-- A loss point on one core with a capacity in granules (R151, R152): accesses issued before it perform first, sheaves that
watch a word of a victim wake (R183), and copies and matrix operations that were still to use one have lost it (R152, R220). -/
def State.loseCore (s : State) (site cap : Nat) : State :=
  let l := (s.core site).allocs
  let gone := choose cap (heldGranules l) (lossOrder l)
  let hit : Place → Bool := fun pl => match pl with | .gran t i _ => t == site && gone.contains i | _ => false
  let s1 := (s.performAll (fun a => gone.any (fun i => inAlloc site i a))).mapSheaves (fun _ sh => match sh.wait with
    | some (.watch _ _ pl _ _ _) => if hit pl then { sh with wait := none } else sh
    | some (.await _ _ pl _ _) => if hit pl then { sh with wait := none } else sh
    | _ => sh)
  (s1.markEngines site gone).modCore site (fun c => { c with
    allocs := c.allocs.map (fun a => if gone.contains a.id then a.lose else a)
    relocating := c.relocating || c.allocs.any (fun a => a.holds && !gone.contains a.id) })

/-- The cores of a die that the state lists. -/
def State.coresOn (s : State) (die : Nat) : List Nat := (s.cores.map (·.1)).filter (fun c => dieOf c == die)

/-- Whether a write-back is in progress on a core (R190). -/
def State.writingBack (s : State) (site : Nat) : Bool := (s.core site).allocs.any (fun a => a.writeback.isSome)

/-- A pending level is posted, replaced or ended (R149). -/
def State.notice (s : State) (die level : Nat) : State :=
  let d := s.die die
  if level = 0 || 24 < level then s
  else if d.level < level then (s.setDie die { d with level := level, pending := none }).retryAll
  else if level = d.level then s.setDie die { d with pending := none }
  else match d.pending with
    | none => s.setDie die { d with pending := some (level, s.cycle + Config.noticeCycles) }
    | some (p, t) =>
      s.setDie die { d with pending := some (level, if level < p then s.cycle + Config.noticeCycles else t) }

/-- The arithmetic clock is restored when no die has a fall pending any more: to 1.75 GHz, or to what the floor needs (R8, R303,
log 26). -/
def State.restoreClock (s : State) : State :=
  if [0, 1, 2, 3].all (fun d => (s.die d).pending.isNone) then { s with clock := s.floorClock } else s

/-- A die's own limit (R303) with the level that goes with it: none below the floor, where every silo but one is dark. -/
def State.limitDie (s : State) (die level : Nat) : State :=
  if s.floorClock < 1750 || level = 0 || 24 < level then s
  else ((s.setDie die { s.die die with limit := level }).notice die level).restoreClock

/-- A notice (R149). -/
def execLevelNotice (die : Fin 4) (level : Nat) (s : State) : Host.Outcome State Fault Refusal := .next (s.limitDie die.val level)

/-- A rise takes effect at once (R149), and placement is retried (R132). -/
def execLevelRise (die : Fin 4) (level : Nat) (s : State) : Host.Outcome State Fault Refusal :=
  .next (if (s.die die.val).level < level then s.limitDie die.val level else s)

/-- A die's loss point (R149, R151, R158, R303): not before its cycle, nor before every write-back in progress. The
arithmetic clock is restored when no die has a fall pending. -/
def execLossPoint (die : Fin 4) (s : State) : Host.Outcome State Fault Refusal :=
  let d := s.die die.val
  .next (match d.pending with
    | none => s
    | some (p, t) =>
      let sites := s.coresOn die.val
      if s.cycle < t || sites.any s.writingBack then s
      else
        let s1 := sites.foldl (fun (u : State) c => u.loseCore c (Config.granulesPerSilo * min p (u.core c).usable)) s
        (s1.setDie die.val { d with level := p, pending := none }).restoreClock)

/-- A silo is retired (R158, R305): a loss point at once, on that core only. -/
def execSiloRetirement (site : Nat) (s : State) : Host.Outcome State Fault Refusal :=
  let c := s.core site
  .next (if 416 ≤ site || c.usable ≤ 1 || s.writingBack site then s
    else
      let s1 := s.modCore site (fun x => { x with usable := x.usable - 1 })
      let s2 := s1.loseCore site (Config.granulesPerSilo * min (s1.die (dieOf site)).level (c.usable - 1))
      let lost := s2.cores.foldl (fun n x => n + (Config.silos - x.2.usable)) 0
      if c.usable - 1 ≤ 20 || 48 ≤ lost then s2.requestRepl 2 else s2)

/-- The survivors of a loss point have been relocated (R151). -/
def execRelocationComplete (site : Nat) (s : State) : Host.Outcome State Fault Refusal :=
  .next (if (s.core site).relocating then s.modCore site (fun c => { c with relocating := false }) else s)

end Sys2Proof.Machine
end

