-- ==== Sys2Proof/Machine/TrapInstr.lean ====
section
/-! DEFINITION. Traps and handlers: instructions that raise, `tret`, regions, the frozen queue and the opaque block (18 R264 to
R279, R332, R333), words that are no instruction (02 R36), the debugger (21 R324). -/

namespace Sys2Proof.Machine

/-! ### Instructions that raise (R275, R36) -/

/-- `trap` (R275). -/
def execTrap (c : BitVec 12) (s : State) : Host.Outcome State Fault Refusal :=
  issue s (fun x => s.raise x { code := 0x18, opnd := 0, imm := c })

/-- `syscall` (R275). -/
def execSyscall (c : BitVec 12) (s : State) : Host.Outcome State Fault Refusal :=
  issue s (fun x => s.raise x { code := 0x19, opnd := 0, imm := c })

/-- `brk` (R275, R324). -/
def execBrk (c : BitVec 12) (s : State) : Host.Outcome State Fault Refusal :=
  issueEdge s (fun x => s.raise x { code := 0x1A, opnd := 0, imm := c })

/-- A word that is no instruction (R36): the fault of the first check that fails. -/
def execWordNotInstruction (w : Word) (s : State) : Host.Outcome State Fault Refusal :=
  issue { s with word := w } (fun c =>
    let s1 : State := { s with word := w }
    match decode w with
    | .ok _ => s
    | .error .illegal => s1.trap c 0x01 0
    | .error (.operand f) => s1.trap c 0x02 f)

/-! ### Entry (R266, R270, R276, R277, R278) -/

/-- Whether a workgroup's copies and tile operations have drained (R220, R280). -/
def State.drained (s : State) (wg : Nat) : Bool :=
  (s.sheavesOf wg).all (fun p => p.2.copies == 0 && p.2.tiles == 0) && s.copies.all (fun x => x.wg != wg) &&
    s.tops.all (fun x => x.wg != wg)

/-- For a save, the hardware gives sheaf 0 every lease of its workgroup (R278). -/
def State.leasesToFirst (s : State) (k : Nat) (sh : Sheaf) : State :=
  if sh.sidx = 0 then
    s.modWg sh.wg (fun w => { w with held := some w.leases, leases := List.replicate 4 (some k) })
  else s

/-- A save entry (R277, R278, R280): the wait it meets is recorded, and the pre-emption becomes the sheaf's fault. -/
def State.saveEntry (s : State) (k : Nat) (sh : Sheaf) (area : DWord) : State :=
  let pc := (sh.ctl.splits.headD (Split.fresh 0 0)).pc
  let f := { (({ code := 0x1C, opnd := 0 } : Exc).record 0 pc 0 sh.trapEntry) with save := saveSlot area sh.sidx }
  ((s.setSheaf k { sh with preempt := false, recorded := sh.wait, nap := sh.sleep, wait := none, sleep := none, saving := .saving
                           pend := some f
                           ctl := { sh.ctl with splits := stopOthers none sh.ctl.splits } }).leasesToFirst k sh).enterHandler k

/-- What a sheaf does once no replay holds a load open and its loads counter is 0 (R266). -/
def State.onceDrained (s : State) (k : Nat) (go : State → Sheaf → State) : State :=
  let t := s.closeReplays k
  match t.sheaf k with
  | some x => if x.loads == 0 then go t x else t
  | none => t

/-- A sheaf enters its handler (R270): its pending fault once its splits have stopped and its loads drained; a halt request
takes it first (R276); a pre-emption once nothing is pending and its workgroup has drained. -/
def execTrapEntry (k : Nat) (s : State) : Host.Outcome State Fault Refusal :=
  .next (match s.sheaf k with
    | none => s
    | some sh =>
      if sh.ended || sh.hand.isSome || sh.restarting || sh.halted || sh.writing then s
      else if sh.pend.isSome then
        (if sh.haltReq then s.setSheaf k sh.halt
         else if sh.wait.isSome || !sh.ctl.splits.all (fun sp => sp.parked || sp.stall == 21) then s
         else s.onceDrained k (fun t _ => t.enterHandler k))
      else if sh.preempt && !sh.finished && sh.saving == .none && s.drained sh.wg then
        (if s.haltNow k sh then s.setSheaf k sh.halt
         else match s.wg sh.wg with
         | some w => s.onceDrained k (fun t x => t.saveEntry k x w.saveArea)
         | none => s)
      else s)

/-! ### Return (R272) -/

/-- The `RPC` that a handler leaves at offset 0x30 of `seg3`. -/
def State.rpcOf (s : State) (c : Ctx) : Except (Reach × Addr) (BitVec 78) :=
  let sg := lget ⟨0, 0, false⟩ c.sh.segs 3
  match formAddr sg 0x30 0 8 with
  | none => .error (.fault 0x08 0, sg.base)
  | some ea => (s.reachRange (viaOf c.k c.sh c.wg 3) ea 8 .rd).map (fun ps => pcOf (leDWord (s.readPieces c.site ps)))

/-- The handler of a save entry returns (R272, R278): the sheaf is over, its control state kept for its restore. With sheaf
0's, the states of its workgroup's allocations are those of the save (R156). -/
def State.endSave (s : State) (c : Ctx) (h : Handler) : State :=
  let s1 := s.setSheaf c.k { c.sh with ctl := h.saved.resume c.sh.ctl.live none 4, hand := none, saving := .saved }
  if c.sh.sidx = 0 then s1.modWg c.sh.wg (fun w => { w with savedAllocs := some (s.entriesOf c.sh.wg w.site) }) else s1

/-- `tret` (R272, R333). -/
def execTret (s : State) : Host.Outcome State Fault Refusal :=
  issue s (fun c =>
    match c.sh.hand with
    | none => s.kill c.sh.wg
    | some h =>
      if h.glean then s.kill c.sh.wg
      else if c.sh.stores != 0 then s.stall c 4
      else match s.rpcOf c with
        | .error (.replay va, ea) => s.replaySheaf c ea va false []
        | .error (.stall n, _) => s.stall c n
        | .error (.lossWait site id, _) => s.waitOn c (.loss site id)
        | .error _ => s.kill c.sh.wg
        | .ok rpc =>
          if h.fault.code = 0x1C && !h.fault.restore then s.endSave c h
          else
            (s.leaveHandler c.k h (some rpc)).sliceAgain c.k)

/-! ### Regions (R267) -/

/-- `rgn.begin` (R267). -/
def execRgnBegin (s : State) : Host.Outcome State Fault Refusal :=
  issueEdge s (fun c =>
    if c.stops then s.stall c 21
    else if c.wg.task.isSome || c.sh.ctl.origin.isSome then s.trap c 0x01 0
    else if c.alone then
      (s.modSheaf c.k (fun sh => { sh with ctl := { sh.ctl with origin := some (c.sp.pc + 1, sh.ctl.live), restarts := 0 } })).advance c
    else s.rendezvous c true)

/-- `rgn.end` (R267). -/
def execRgnEnd (s : State) : Host.Outcome State Fault Refusal :=
  issueEdge s (fun c =>
    if c.stops then s.stall c 21
    else if c.wg.task.isSome || c.sh.ctl.origin.isNone then s.trap c 0x01 0
    else if c.sh.copies != 0 then s.stall c 5
    else if c.sh.tiles != 0 then s.stall c 6
    else (s.modSheaf c.k (fun sh => { sh with ctl := { sh.ctl with origin := none } })).advance c)

/-! ### The frozen queue and the opaque block (R273, R274) -/

/-- `qfrd` (R273): value and liveness of a frozen entry. -/
def execQfrd (d : LDst) (k : Fin 16) (s : State) : Host.Outcome State Fault Refusal :=
  issue s (fun c => checkNamed s c [(1, d.top 1)]
    (if c.sh.hand.isNone then s.trap c 0x01 0
     else (s.modLanes c.k (maskLanes c.sp.mask) (fun _ _ l =>
       let e := lget Entry.dead l.frozen k.val
       l.writeEntries d [if e.live then Entry.val! e.val else Entry.dead])).advance c))

/-- Bytes of an opaque block (R274). -/
def blockBytes : Nat := 512

/-- The address of an opaque block: its offset is a multiple of 64 (R274). -/
def atBlock (s s1 : State) (c : Ctx) (vs : List DWord) (seg : Fin 8) (a : Access) (go : Addr → List (Place × Nat) → State) : State :=
  let off := vs.headD 0
  if off.toNat % 64 != 0 then
    s.raise c { code := 0x07, opnd := 2, addr := (lget ⟨0, 0, false⟩ c.sh.segs seg.val).base + off.setWidth 80 }
  else atSegment s s1 c vs seg off blockBytes 1 2 a go

/-- A store of the whole sheaf, piece by piece, counted once (R71). -/
def State.storeSheaf (s : State) (c : Ctx) (op : Nat) (seg : Fin 8) (ea : Addr) : List (Place × Nat) → List Byte → State
  | [], _ => s
  | (pl, n) :: l, bs =>
    let pk := s.kindAt c seg.val ea
    let a : Acc := ⟨s.nextKey, op, op, c.k, c.site, sheafLane, .store, c.wg.asid, ea, pl, n, bs.take n,
      if pk == .so then .ar else .rlx, Scope.sh.onPage pk, pk, .issued, [], some (c.origin s)⟩
    State.storeSheaf ({ s with accs := s.accs ++ [a] }.bump) c op seg (ea + BitVec.ofNat 80 n) l (bs.drop n)

/-- `saveopq` (R274): the interrupted control state under bytes of the implementation's own (log 18). -/
def execSaveopq (p : GSrc) (seg : Fin 8) (s : State) : Host.Outcome State Fault Refusal :=
  issue s (fun c =>
    match c.sh.hand with
    | none => s.trap c 0x01 0
    | some h =>
      if 63 ≤ c.sh.stores then s.stall c 7
      else groupVals s c [⟨2, p, 2⟩] none (fun vs s1 => atBlock s s1 c vs seg .wr (fun ea ps =>
        let bytes := (List.range blockBytes).map (Config.opaqueByte s.free)
        let s2 : State := { s1 with opq := (bytes, h.saved) :: s1.opq.filter (fun x => x.1 != bytes) }
        let s3 := (s2.bump.modSheaf c.k (fun sh => { sh with stores := sh.stores + 1 })).storeSheaf c s2.nextKey seg ea ps bytes
        s3.advance c)))

/-- The control state a block stands for, none when its check value fails or it names lanes beyond the width (R274). -/
def State.opaqueCtl (s : State) (width : Nat) (bytes : List Byte) : Option Ctl :=
  match s.opq.find? (fun x => x.1 == bytes) with
  | some (_, t) => if maskDiff t.live (maskAll width) = 0 then some t else none
  | none => none

/-- `loadopq` (R274). -/
def execLoadopq (p : GSrc) (seg : Fin 8) (s : State) : Host.Outcome State Fault Refusal :=
  issue s (fun c =>
    match c.sh.hand with
    | none => s.trap c 0x01 0
    | some h =>
      groupVals s c [⟨2, p, 2⟩] none (fun vs s1 => atBlock s s1 c vs seg .rd (fun _ ps =>
        if !ps.all (fun x => s.readDue c.k c.site x.1 x.2 .rc) || s.accs.any (fun a => a.k == c.k && a.stage == .issued &&
            ps.any (fun x => a.place.meets a.size x.1 x.2)) then s.stall c 2
        else match s.opaqueCtl c.sh.width (s1.readPieces c.site ps) with
          | none => s.trap c 0x02 2
          | some t => (s1.modSheaf c.k (fun sh => { sh with hand := some { h with saved := t } })).advance c)))

/-! ### Engine faults and restarts (R202, R269, R333) -/

/-- An engine reports a fault of an operation (R202, R220, R269): the operation stops. -/
def execEngineFault (op : EngineOp) (code : Word) (s : State) : Host.Outcome State Fault Refusal :=
  .next (match op with
    | .copy id => match s.copies.find? (fun x => x.id == id) with
      | some x => if x.discard then s.stopCopy id else s.copyFault x code
      | none => s
    | .tile id => match s.tops.find? (fun x => x.id == id) with
      | some x => (match x.fn with
        | .mma .. => (s.cancelTile id).engineFaultOn x.k x.pc x.word x.region code x.byHand
        | _ => s)
      | none => s)

/-- A named register whose load has been discarded holds an undefined value (R22, R269). -/
def Entry.abandon (free lane idx : Nat) (e : Entry) : Entry :=
  if e.rsv.isSome then { e with val := Config.undef free lane idx, rsv := none } else e

/-- A sheaf at the origin of its region (R269, steps 2, 4 and 5). -/
def Sheaf.restart (sh : Sheaf) (free : Nat) (origin : BitVec 78) (mask : Mask) : Sheaf :=
  { sh with
    lanes := mapIdxFrom (fun i (l : Lane) =>
      { l with q := List.replicate 16 Entry.dead, n := mapIdxFrom (fun j (e : Entry) => e.abandon free i (16 + j)) 0 l.n }) 0 sh.lanes
    ctl := { sh.ctl with splits := [Split.fresh origin mask], stack := [], groups := [], restarts := sh.ctl.restarts + 1 }
    pend := sh.pend.map (fun f => if f.code == 0x1B then { f with pc := origin, rpc := (byteAddr origin).extractLsb' 0 64 } else f)
    loads := 0, stores := 0, wait := none, sleep := none, restarting := false }

/-- A region restarts once its sheaf's copies and tile operations are over (R269). A task is requeued instead (R233). -/
def execRegionRestart (k : Nat) (s : State) : Host.Outcome State Fault Refusal :=
  .next (match s.sheaf k with
    | none => s
    | some sh =>
      match sh.ctl.origin, s.wg sh.wg with
      | some (origin, mask), some w =>
        if !sh.restarting || sh.hand.isSome || sh.writing || w.task.isSome || sh.copies != 0 || sh.tiles != 0 then s
        else
          let s1 : State := { s with accs := purge (s.accs.filter (fun a => a.k != k || a.stage == Stage.path)) }
          let x := sh.restart s.free origin mask
          s1.setSheaf k (if x.pend.isSome then { x with ctl := { x.ctl with splits := stopOthers none x.ctl.splits } } else x)
      | _, _ => s)

/-! ### The debugger (R324, R276) -/

/-- A debugger asks for a sheaf: it is taken at its next region edge, or at once with a recorded fault. -/
def execDebuggerHalt (k : Nat) (s : State) : Host.Outcome State Fault Refusal :=
  .next (s.modSheaf k (fun sh =>
    if sh.ended || sh.finished || sh.halted then sh
    else if sh.pend.isSome then sh.halt
    else { sh with haltReq := true }))

/-- A halted sheaf goes on from where it stopped; deferred events are then taken (R324, R276). -/
def execDebuggerResume (k : Nat) (s : State) : Host.Outcome State Fault Refusal :=
  .next (match s.sheaf k with
    | none => s
    | some sh => if sh.halted then (s.setSheaf k { sh with halted := false }).sliceAgain k else s)

end Sys2Proof.Machine
end

