-- ==== Sys2Proof/Machine/Firmware.lean ====
section
/-! DEFINITION. Firmware cores: the Xirbcp instructions and their exceptions (21 R306 to R308), hand-over (21 R314), failures
(20 R305). -/

namespace Sys2Proof.Machine

/-! ### Issue and exceptions (R307; log 19) -/

/-- An instruction of the firmware core that issues. -/
def issueFw (s : State) (f : Nat → FwCore → State) : Host.Outcome State Fault Refusal :=
  match s.cur with
  | .fw p => .next (f p (s.fw p))
  | _ => .fault .noFirmwareCore

/-- A register; x0 reads 0. -/
def FwCore.reg (c : FwCore) (r : Fin 32) : Word := if r.val = 0 then 0 else lget 0 c.x r.val

/-- A register written and control gone on to the next word; x0 discards. -/
def FwCore.result (c : FwCore) (rd : Fin 32) (v : Word) : FwCore :=
  { c with x := if rd.val = 0 then c.x else lset c.x rd.val v, pc := c.pc + 4 }

/-- An exception (R307; log 19): cause, value, and machine mode with interrupts off at the trap vector. -/
def FwCore.trap (c : FwCore) (cause tval : Word) : FwCore :=
  let mie := c.mstatus &&& 0x8#32
  { c with mepc := c.pc, mcause := cause, mtval := tval
           mstatus := (c.mstatus &&& ~~~(0x1888#32)) ||| 0x1800#32 ||| (mie <<< 4)
           pc := c.mtvec &&& ~~~(3#32) }

/-- An Xirbcp fault (R307): mcause 24 and its code. -/
def FwCore.fault (c : FwCore) (code : Nat) : FwCore := c.trap 24 (BitVec.ofNat 32 code)

/-- Whether n bytes can be read. -/
def FwCore.readableAt (c : FwCore) (a n : Nat) : Bool := c.readable.any (fun r => r.1 ≤ a && a + n ≤ r.2)

/-- A word of a firmware core's memory, none where it cannot be read. -/
def FwCore.load (c : FwCore) (a : Word) : Option Word :=
  if c.readableAt a.toNat 4 then some (leWord (Memory.read c.mem a.toNat 4)) else none

/-- An Xirbcp word whose encoding R307 refuses raises the standard illegal-instruction exception. -/
def State.fwIllegal (s : State) (p : Nat) (w : Word) : State := s.setFw p ((s.fw p).trap 2 w)

/-! ### The four instructions (R308) -/

/-- `ringf` (R308). -/
def execRingf (rd rs1 rs2 : Fin 32) (s : State) : Host.Outcome State Fault Refusal :=
  issueFw s (fun p c =>
    let d := c.reg rs1
    let b := c.reg rs2
    s.setFw p (
      if d.toNat % 16 != 0 || b.toNat % 4 != 0 then c.fault 0x02
      else match c.load d, c.load (d + 4), c.load (d + 8), c.load (d + 12) with
        | some base, some w1, some head, some tail =>
          let n := (w1.extractLsb' 0 5).toNat
          if n < 4 || 16 < n || 64 * (tail - head).toNat ≤ b.toNat then c.fault 0x01
          else match c.load (base + BitVec.ofNat 32 ((64 * head.toNat + b.toNat) % (64 * 2 ^ n))) with
            | some v => c.result rd v
            | none => c.fault 0x06
        | _, _, _, _ => c.fault 0x06))

/-- `bfe` (R308). -/
def execBfe (rd rs1 rs2 : Fin 32) (s : State) : Host.Outcome State Fault Refusal :=
  issueFw s (fun p c =>
    let a := c.reg rs1
    let w := c.reg rs2
    let pos := (w.extractLsb' 0 5).toNat
    let len := (w.extractLsb' 5 5).toNat + 1
    s.setFw p (
      if w.extractLsb' 11 21 != 0 || 32 < pos + len then c.fault 0x03
      else
        let v := a.toNat / 2 ^ pos % 2 ^ len
        c.result rd (BitVec.ofNat 32 (if w.getLsbD 10 && 2 ^ (len - 1) ≤ v then v + 2 ^ 32 - 2 ^ len else v))))

/-- `sigw` (R308): while its signal word is zero it waits, and executes again. -/
def execSigw (rd rs1 : Fin 32) (s : State) : Host.Outcome State Fault Refusal :=
  issueFw s (fun p c =>
    let i := (c.reg rs1).toNat
    if 64 ≤ i then s.setFw p (c.fault 0x04)
    else
      let v := lget 0 c.signals i
      if v = 0 then s else s.setFw p ({ c with signals := lset c.signals i 0 }.result rd v))

/-- Records read from a firmware core's memory. -/
def FwCore.records (c : FwCore) (a : Nat) (n : Nat) : List (List Word) :=
  (List.range n).map (fun i => leWords (Memory.read c.mem (a + 64 * i) 64))

/-- `disp` (R308); a feed waits during a hand-over (R314). -/
def execDisp (rd rs1 rs2 : Fin 32) (s : State) : Host.Outcome State Fault Refusal :=
  issueFw s (fun p c =>
    let w := c.reg rs1
    let a := (c.reg rs2).toNat
    let k := (w.extractLsb' 0 12).toNat
    let n := (w.extractLsb' 12 16).toNat + 1
    let owned := match kget s.queues k with | some q => q.owner.val == p | none => false
    if w.extractLsb' 28 4 != 0 || !owned then s.setFw p (c.fault 0x05)
    else if a % 64 != 0 then s.setFw p (c.fault 0x02)
    else if !c.readableAt a (64 * n) then s.setFw p (c.fault 0x06)
    else if s.firmware.hold then s
    else
      let (st, t) := s.appendRecords k (c.records a n)
      t.setFw p (c.result rd (BitVec.ofNat 32 st)))

/-! ### The readiness map (R302) -/

/-- A function's bit set. -/
def Ready.add (r : Ready) (f : Function) : Ready :=
  let put : List Nat → Nat → List Nat := fun l n => if l.contains n then l else n :: l
  match f with
  | .core n => { r with core := put r.core n }
  | .hbm n => { r with hbm := put r.hbm n.val }
  | .eth n => { r with eth := put r.eth n.val }
  | .stor => { r with stor := true }
  | .app n => { r with app := put r.app n.val }
  | .fwp n => { r with fwp := put r.fwp n.val }
  | .link n => { r with link := put r.link n.val }

/-- A function's bit cleared. -/
def Ready.remove (r : Ready) (f : Function) : Ready :=
  match f with
  | .core n => { r with core := r.core.filter (· != n) }
  | .hbm n => { r with hbm := r.hbm.filter (· != n.val) }
  | .eth n => { r with eth := r.eth.filter (· != n.val) }
  | .stor => { r with stor := false }
  | .app n => { r with app := r.app.filter (· != n.val) }
  | .fwp n => { r with fwp := r.fwp.filter (· != n.val) }
  | .link n => { r with link := r.link.filter (· != n.val) }

/-- Whether a function's bit is set. -/
def Ready.has (r : Ready) (f : Function) : Bool :=
  match f with
  | .core n => r.core.contains n
  | .hbm n => r.hbm.contains n.val
  | .eth n => r.eth.contains n.val
  | .stor => r.stor
  | .app n => r.app.contains n.val
  | .fwp n => r.fwp.contains n.val
  | .link n => r.link.contains n.val

/-- A function is retired: its ready bit cleared and its retired bit set in one update (R302). -/
def State.retire (s : State) (f : Function) : State := { s with ready := s.ready.remove f, retired := s.retired.add f }

/-! ### Failure and hand-over (R305, R314) -/

/-- A firmware processor fails (R305): peers of its kind take over its work. -/
def execFirmwareProcessorFailure (p : Fin 13) (s : State) : Host.Outcome State Fault Refusal :=
  .next (if (s.fw p.val).failed then s
    else
      let s1 := ((s.setFw p.val { s.fw p.val with failed := true }).retire (.fwp p)).requestRepl 7
      if p.val < 8 then
        match [(0 : Fin 8), 1, 2, 3, 4, 5, 6, 7].find? (fun (x : Fin 8) => !(s1.fw x.val).failed) with
        | some peer => { s1 with
            queues := s1.queues.map (fun q => (q.1, if q.2.owner.val == p.val then { q.2 with owner := peer } else q.2))
            parts := s1.parts.map (fun x => (x.1, if x.2.keeper.val == p.val then { x.2 with keeper := peer } else x.2)) }
        | none => s1
      else s1)

/-- A new image stands in standby memory, measured (R314, step 1). -/
def execFirmwareLoad (image : List Byte) (s : State) : Host.Outcome State Fault Refusal :=
  .next (if s.firmware.hold then s else { s with firmware := { s.firmware with standby := some image, smeas := shake256 image } })

/-- The hold point (R314, step 2): no command is being served, and none is popped from here. -/
def execHoldPoint (s : State) : Host.Outcome State Fault Refusal :=
  .next (if s.firmware.standby.isSome && s.parts.all (fun p => p.2.request.isNone) then
    { s with firmware := { s.firmware with hold := true } } else s)

/-- Every live context takes a hand-over record (R310, R314). -/
def State.chainAll (s : State) (obj : List Byte) : State :=
  { s with parts := s.parts.map (fun p => (p.1, { p.2 with contexts := p.2.contexts.map (fun c =>
      { c with chain := chainNext c.chain 5 obj, hov := true }) })) }

/-- The new firmware runs on the command processors and the security core, from its start, with the memory that the old has left it
but for its own bytes (R314, log 20). -/
def State.startImage (s : State) (image : List Byte) : State :=
  [0, 1, 2, 3, 4, 5, 6, 7, 12].foldl (fun (t : State) p =>
    let c := t.fw p
    t.setFw p { c with pc := 0, mem := Memory.write c.mem 0 image }) s

/-- The commit point (R314, steps 4 and 5). -/
def execCommitPoint (s : State) : Host.Outcome State Fault Refusal :=
  .next (match s.firmware.hold, s.firmware.standby with
    | true, some image =>
      let old := s.firmware.fwm
      let new := s.firmware.smeas
      ({ s with firmware := { s.firmware with
          image := image, fwm := new, standby := none, smeas := [], hold := false, hrec := true, htime := s.tai
          hfwm := old } }.startImage image).chainAll (old ++ new)
    | _, _ => s)

/-- The transfer fails before the commit point (R314, step 6): what is answered after it carries no hand-over record (R315). -/
def execHandoverAbort (s : State) : Host.Outcome State Fault Refusal :=
  .next (if s.firmware.hold then { s with firmware := { s.firmware with
    hold := false, standby := none, smeas := [], hrec := false, htime := 0, hfwm := List.replicate 64 0 } } else s)

/-- The memory processors' own hand-over begins, or ends (R314); it does not begin during a shoot-down (R290). -/
def execMemoryProcessorHandover (s : State) : Host.Outcome State Fault Refusal :=
  .next (if s.firmware.memHold then { s with firmware := { s.firmware with memHold := false } }
    else if s.shoots.isEmpty then { s with firmware := { s.firmware with memHold := true } }
    else s)

end Sys2Proof.Machine
end

