-- ==== Sys2Proof/Machine/Fabric.lean ====
section
/-! DEFINITION. Dies, fabric, partitions and the life of the part (20 R285 to R305): routes, shoot-downs, pod links, partition
reset, ports and application cores, bring-up, power, spares. -/

namespace Sys2Proof.Machine

/-! ### Routes on a die (R288, R289) -/

/-- A die's tree recomputed without a router (R288, R289). -/
def State.loseRouter (s : State) (site : Nat) : State :=
  let d := s.die (dieOf site)
  let k := site % Config.sitesPerDie
  let dead := if d.dead.contains k then d.dead else k :: d.dead
  s.setDie (dieOf site) { d with dead := dead, depths := treeDepths dead }

/-- Firmware recomputes the tree of a die whose router is harvested or retired (R289); the pause does not begin during a
shoot-down (R290). -/
def execRouteRecompute (die : Fin 4) (site : Nat) (s : State) : Host.Outcome State Fault Refusal :=
  .next (if s.shoots.isEmpty && dieOf site == die.val then s.loseRouter site else s)

/-! ### Shoot-downs (R290, R291) -/

/-- The holders of translations on the device: the cores, the agents and engines outside them, the application cores, the
Ethernet and storage ports, the dies' last-level TLBs (R290). -/
def holders : List Nat := List.range 440

/-- A shoot-down begins (R290). -/
def State.beginShoot (s : State) (asid : BitVec 16) (lo hi : Addr) : State :=
  let x : ShootDown := ⟨s.nextKey, asid, lo, hi, holders⟩
  let t : State := { s with shoots := s.shoots ++ [x] }
  t.bump

/-- A memory processor starts a shoot-down of a range (R290). -/
def execShootDown (asid : BitVec 16) (lo hi : Addr) (s : State) : Host.Outcome State Fault Refusal :=
  .next (s.beginShoot asid lo hi)

/-- Whether a cached translation lies in a range. -/
def TlbEntry.within (e : TlbEntry) (lo hi : Addr) : Bool :=
  let size := 2 ^ e.reach
  lo.toNat < (e.page + 1) * size && e.page * size ≤ hi.toNat

/-- Whether an access of a core may have used a translation that meets a range, of its own page or of one that reaches further,
and has not performed at `.dv` (R290). -/
def State.usesRange (s : State) (a : Acc) (asid : BitVec 16) (lo hi : Addr) : Bool :=
  a.asid == asid && !a.kind.isFence && !a.performedAt .dv &&
    ((lo.toNat / 65536 ≤ a.va.toNat / 65536 && a.va.toNat ≤ hi.toNat) ||
      s.tlb.any (fun e => e.holder == a.site && e.asid == asid && e.within lo hi && e.covers a.va.toNat))

/-- A holder acknowledges (R290): it holds no entry of the range, and what used one has performed. -/
def execShootDownAck (id : Nat) (holder : Nat) (s : State) : Host.Outcome State Fault Refusal :=
  .next (match s.shoots.find? (fun x => x.id == id) with
    | none => s
    | some x =>
      if !x.left.contains holder || s.accs.any (fun a => a.site == holder && s.usesRange a x.asid x.lo x.hi) then s
      else
        let left := x.left.filter (fun h => h != holder)
        { s with
          tlb := s.tlb.filter (fun e => !(e.holder == holder && e.asid == x.asid && e.within x.lo x.hi))
          shoots := (s.shoots.map (fun y => if y.id == id then { y with left := left } else y)).filter (fun y => !y.left.isEmpty) })

/-! ### Linosh Link (R292 to R294) -/

/-- Whether a device has a live route (R292). -/
def State.liveRoute (s : State) (dev : BitVec 13) : Bool :=
  ((kget s.routes dev.toNat).getD []).any (fun p => !s.linksDown.contains p.val)

/-- A lost access (R293): a load's or an atomic's data are undefined values, which reach its registers in the loads' order; a
store is gone. -/
def State.loseAcc (s : State) (a : Acc) : State :=
  match s.acc a.id with
  | none => s
  | some b =>
    if b.kind.loads then
      ((s.putAcc { b with data := (List.range 16).map (fun i => (Config.undef s.free b.lane i).extractLsb' 0 8), stage := .seen }).arrived
        b).settleFences
    else
      let s1 := s.retireStore b.id
      (if b.stage == .issued then s1.storeCounted b else s1).settleFences

/-- The instructions that a list of accesses comes from, one of each. -/
def onePerIssue : List Acc → List Acc
  | [] => []
  | a :: l => if l.any (fun b => b.k == a.k && b.iss == a.iss) then onePerIssue l else a :: onePerIssue l

/-- Reachability follows the routes; what was on its way to a device now unreachable is lost, and each instruction that has lost
some of its accesses is an engine fault of its sheaf (R292, R293). -/
def State.reroute (s : State) : State :=
  let gone := s.remotes.filter (fun r => r.up && !s.liveRoute r.dev)
  let s1 : State := { s with remotes := s.remotes.map (fun r => { r with up := s.liveRoute r.dev }) }
  let lost := s1.accs.filter (fun a => match a.place with
    | .pod dev _ => gone.any (fun r => r.dev.toNat == dev) && (a.stage == .issued || (a.stage == .path && a.kind.writes))
    | _ => false)
  (onePerIssue lost).foldl (fun (t : State) a => match a.org with
    | some o => t.engineFaultOn a.k o.pc o.word o.region (Config.engineCode t.free) o.byHand
    | none => t) (lost.foldl State.loseAcc s1)

/-- A port fails (R292, R305): its traffic moves to the other ports of each entry. -/
def execLinkPortFailure (port : Fin 64) (s : State) : Host.Outcome State Fault Refusal :=
  .next (if s.linksDown.contains port.val then s
    else
      let s1 := (({ s with linksDown := port.val :: s.linksDown }).retire (.link port)).reroute
      if 8 ≤ s1.linksDown.length then s1.requestRepl 4 else s1)

/-- Firmware writes an entry of the route table (R292). -/
def execRouteTableWrite (dev : BitVec 13) (ports : List (Fin 64)) (s : State) : Host.Outcome State Fault Refusal :=
  .next ({ s with routes := kset s.routes dev.toNat ports }.reroute)

/-! ### Partition reset (R296) -/

/-- The workgroups of a partition. -/
def State.workgroupsIn (s : State) (part : Fin 16) : List (Nat × Workgroup) := s.wgs.filter (fun w => w.2.part == part)

/-- Steps 1 to 3: nothing waits to be placed, no sheaf runs, no engine works; stores issued are on their way. -/
def State.stopPartition (s : State) (part : Fin 16) : State :=
  let ws := s.workgroupsIn part
  let mine : Nat → Bool := fun k => ws.any (fun w => w.1 == k)
  let sheafMine : Nat → Bool := fun k => (s.sheaf k).elim false (fun sh => mine sh.wg)
  let s1 := ws.foldl (fun (t : State) w => match w.2.task with | some x => t.returnArea part x | none => t) s
  let p := s1.part part.val
  let ids := (List.range p.gCount).map (fun i => p.gBase + i)
  let s2 : State := { s1 with
    grids := s1.grids.filter (fun g => g.2.part != part)
    gangs := s1.gangs.filter (fun g => !g.2.members.any mine)
    wgs := s1.wgs.filter (fun w => w.2.part != part)
    sheaves := s1.sheaves.filter (fun p => !mine p.2.wg)
    copies := s1.copies.filter (fun x => !mine x.wg)
    tops := s1.tops.filter (fun x => !mine x.wg)
    tiles := s1.tiles.filter (fun x => !mine x.wg)
    accs := purge ((s1.accs.filter (fun a => !sheafMine a.k || (a.kind.writes && (match a.place with | .gran .. => false | _ => true)))))
    groupIds := ids.foldl (fun l g => kset l g (false, ((kget l g).getD (false, 0)).2 + 1)) s1.groupIds }
  s2.setPart part.val { p with fifos := List.replicate 4 [], waiting := [], request := none }

/-- Step 4: a queue that only this partition maps is DEAD, its started records complete. -/
def State.resetQueues (s : State) (part : Fin 16) : State :=
  let names : Partition → Nat → Bool := fun p q => p.stage2.any (fun e => e.2.getLsbD 12 && (e.2.extractLsb' 0 12).toNat == q)
  let only : Nat → Bool := fun q => s.parts.any (fun p => p.1 == part.val && names p.2 q) &&
    !s.parts.any (fun p => p.1 != part.val && names p.2 q)
  { s with queues := s.queues.map (fun q => (q.1, if only q.1 then
      { q.2 with state := .dead, floor := q.2.head, done := [], bad := [], taken := [], popped := 0 } else q.2)) }

/-- Steps 5 and 6: the joins whose blocks lie in its memory are freed, and bindings to them are no more; its participants elsewhere,
saved ones too, have ended without arriving. -/
def State.resetJoins (s : State) (part : Fin 16) (ws : List Nat) : State :=
  let mine := s.joins.filter (fun j => j.2.part == part && j.2.home)
  let s1 := mine.foldl (fun (t : State) j => t.freeJournals j.2) s
  let freed : Nat → Bool := fun k => mine.any (fun j => j.1 == k)
  let s2 : State := { s1 with
    joins := (s1.joins.filter (fun j => !freed j.1)).map (fun kj => (kj.1, { kj.2 with members := kj.2.members.map (fun m =>
      if ws.contains m.wg && !m.arrived then { m with gone := true } else m) }))
    wgs := s1.wgs.map (fun w => (w.1, { w.2 with joins := w.2.joins.map (fun b => match b with
      | some x => if freed x.join then none else b
      | none => none) })) }
  s2.mapSheaves (fun _ sh => match sh.wait with
    | some (.quorum j _) => if freed j then { sh with wait := none } else sh
    | _ => sh)

/-- The journals of participants that are ended while they are saved stay known to their joins (R259). -/
def State.keepAway (s : State) (saved : List Nat) : State :=
  { s with joins := s.joins.map (fun kj =>
      let n := (s.joinBlock kj.2).nelem
      (kj.1, { kj.2 with members := kj.2.members.map (fun m =>
        if saved.contains m.wg && m.away.isNone then { m with away := some (s.journal m n) } else m) })) }

/-- Step 7: its translations are shot down; its cores hold nothing but journals that a join elsewhere still needs, and
report ready. -/
def State.resetCores (s : State) (part : Fin 16) : State :=
  let p := s.part part.val
  let needed : Nat → BitVec 16 → Bool := fun site i => s.joins.any (fun j => !j.2.final &&
    j.2.members.any (fun m => m.jsite == site && m.jid == i && !m.arrived && !m.retracted))
  let gone := p.cores.flatMap (fun site => ((s.core site).allocs.filter (fun a => !needed site a.id)).map (fun a => (site, a.id)))
  let s0 := gone.foldl (fun (t : State) x => t.ringFreed x.1 x.2) s
  let s1 := p.cores.foldl (fun (t : State) site => t.modCore site (fun c => { c with
    allocs := (c.allocs.filter (fun a => needed site a.id)).map (fun a => { a with journal := true })
    l1 := [], relocating := false, noPlace := false
    greedy := Core.reset.greedy, rotate := Core.reset.rotate })) s0
  let asids := (p.contexts.map (·.asid)).filter (fun a => a != p.asid)
  let s2 := (p.asid :: asids).foldl (fun (t : State) a => t.beginShoot a 0 (BitVec.allOnes 80)) s1
  { s2 with ready := p.cores.foldl (fun r c => if s.retired.core.contains c then r else r.add (.core c)) s2.ready }

/-- A partition reset (R296), its steps in order. -/
def execPartitionReset (part : Fin 16) (s : State) : Host.Outcome State Fault Refusal :=
  let saved := (s.grids.filter (fun g => g.2.part == part)).flatMap (fun g => g.2.pending.flatMap (fun p => p.saved.map (·.key)))
  let ws := (s.workgroupsIn part).map (·.1) ++ saved
  .next (((((s.keepAway saved).stopPartition part).resetQueues part).resetJoins part ws).resetCores part)

/-! ### Observers outside the compute cores (R134, R163, R170, R293, R298, R299, R301) -/

/-- An atomic by an outside observer, on an aligned word (R163). -/
def State.extAtomic (s : State) (asid : BitVec 16) (va : Addr) (fn : AtomFn) (w64 : Bool) (v : DWord) : State :=
  let n := if w64 then 8 else 4
  if va.toNat % n != 0 then s
  else match s.hwRange asid .wr va n with
    | (t, .error _) => t
    | (t, .ok ps) => match atomNew fn w64 (leDWord (t.sliceBytes ps)) v with
      | some new => t.writePieces ps (leBytes n new.toNat)
      | none => t

/-- A store by an outside observer; an 8-byte one to `BELL` pushes what the window stages (R298). -/
def State.extStore (s : State) (asid : BitVec 16) (va : Addr) (bytes : List Byte) : State :=
  match s.hwRange asid .wr va bytes.length with
  | (t, .error _) => t
  | (t, .ok ps) =>
    let u := t.writePieces ps bytes
    match firstPlace ps with
    | .hbm pa => match u.windowAt pa with
      | some w => if pa = w.page + 0x40 && bytes.length = 8 then u.ringBell w else u
      | none => u
    | _ => u

/-- What an outside observer does to memory; a fault stops it at the observer, with nothing done. -/
def State.extAccess (s : State) (asid : BitVec 16) (va : Addr) (op : ExtOp) : State :=
  match op with
  | .load n => (s.hwRange asid .rd va n).1
  | .store bytes => s.extStore asid va bytes
  | .amo f w64 v => s.extAtomic asid va (.op f) w64 v
  | .cas w64 cmp new => s.extAtomic asid va (.cas new) w64 cmp
  | _ => s

/-- An application core's LR and SC (R170): the SC writes while the LR's hold stands, which any write to its bytes ends. -/
def State.extReserved (s : State) (core : Nat) (asid : BitVec 16) (va : Addr) (op : ExtOp) : State :=
  match op with
  | .lr w64 =>
    let n := if w64 then 8 else 4
    if va.toNat % n != 0 then s
    else match s.hwRange asid .rd va n with
      | (t, .error _) => t
      | (t, .ok ps) => { t with appHeld := kset t.appHeld core (firstPlace ps, n) }
  | .sc w64 v =>
    let n := if w64 then 8 else 4
    if va.toNat % n != 0 then s
    else match s.hwRange asid .wr va n with
      | (t, .error _) => { t with appHeld := kdel t.appHeld core }
      | (t, .ok ps) =>
        let u := if kget t.appHeld core == some (firstPlace ps, n) then t.writePieces ps (leBytes n v.toNat) else t
        { u with appHeld := kdel u.appHeld core }
  | op => s.extAccess asid va op

/-- An application core's access (R170): one observer, whose accesses perform in the order they are brought, at the slice and one
at a time; so a `FENCE`, aq and rl have nothing to hold back. -/
def execApplicationCoreAccess (core : Fin 16) (asid : BitVec 16) (va : Addr) (op : ExtOp) (s : State) :
    Host.Outcome State Fault Refusal :=
  .next (if s.appDown.contains core.val then s else s.extReserved core.val asid va op)

/-- What a port does (R170): the data writes of a completion go before the write of its entry. -/
def State.portAccess (s : State) (port : Nat) (asid : BitVec 16) (va : Addr) (op : ExtOp) : State :=
  let key : Nat → Nat := fun c => 16 * c + port
  match op with
  | .announce c n => { s with completions := kset s.completions (key c) n }
  | .data c bytes => match kget s.completions (key c) with
    | some (n + 1) =>
      let t := s.extStore asid va bytes
      { t with completions := kset t.completions (key c) n }
    | _ => s
  | .entry c bytes => match kget s.completions (key c) with
    | some 0 =>
      let t := s.extStore asid va bytes
      { t with completions := kdel t.completions (key c) }
    | _ => s
  | op => s.extAccess asid va op

/-- An RDMA operation at an Ethernet port (R299): atomics are compare-and-swap and fetch-and-add on 8-byte words. -/
def execRdmaOperation (port : Fin 2) (asid : BitVec 16) (va : Addr) (op : ExtOp) (s : State) : Host.Outcome State Fault Refusal :=
  let served := match op with
    | .amo f w64 _ => f == .add && w64
    | .cas w64 _ _ => w64
    | .fence => false
    | .lr _ => false
    | .sc .. => false
    | _ => true
  .next (if s.ethDown.contains (lget port.val s.ethFor port.val) || !served then s else s.portAccess port.val asid va op)

/-- A storage controller's DMA (R301). -/
def execNvmeDma (slot : Fin 8) (asid : BitVec 16) (va : Addr) (op : ExtOp) (s : State) : Host.Outcome State Fault Refusal :=
  let served := match op with
    | .load _ => true
    | .store _ => true
    | .announce .. => true
    | .data .. => true
    | .entry .. => true
    | _ => false
  .next (if s.nvme.contains slot.val && served then s.portAccess (2 + slot.val) asid va op else s)

/-- A request of another device arrives (R134, R293): its pod process identifier names the local address space, and its
offset is a local address. -/
def execPodRequestArrival (dev : BitVec 13) (pid : BitVec 16) (va : Addr) (op : ExtOp) (s : State) :
    Host.Outcome State Fault Refusal :=
  .next (match s.parts.find? (fun p => p.2.pid == pid), s.remote dev.toNat with
    | some (n, p), some r =>
      let at_ : Addr := (va.extractLsb' 0 66).setWidth 80
      if !r.up then s
      else match op with
        | .joinBind .. => s.remoteJoin dev (Fin.ofNat 16 n) p.asid at_ op
        | .joinContrib .. => s.remoteJoin dev (Fin.ofNat 16 n) p.asid at_ op
        | .joinArrive .. => s.remoteJoin dev (Fin.ofNat 16 n) p.asid at_ op
        | .joinRetract .. => s.remoteJoin dev (Fin.ofNat 16 n) p.asid at_ op
        | op => s.extAccess p.asid at_ op
    | _, _ => s)

/-! ### Ports, clock, storage (R299 to R301, R305) -/

/-- An Ethernet port fails and the other takes over its addresses (R299, R305). -/
def execEthernetFailover (port : Fin 2) (s : State) : Host.Outcome State Fault Refusal :=
  .next (if s.ethDown.contains port.val then s
    else
      let other := 1 - port.val
      (({ s with
        ethDown := port.val :: s.ethDown
        ethFor := s.ethFor.map (fun p => if p == port.val && !s.ethDown.contains other then other else p) }).retire
          (.eth port)).requestRepl 5)

/-- A correction of the clock, to be slewed in or out (R300). -/
def execPtpCorrection (ns : Int) (s : State) : Host.Outcome State Fault Refusal :=
  .next { s with disciplined := true, slew := s.slew + ns }

/-- A controller is attached at the storage port (R301, R302); a device of another class is left with its link down. -/
def execNvmeAttach (slot : Fin 8) (cls : BitVec 24) (s : State) : Host.Outcome State Fault Refusal :=
  .next (if cls = 0x010802 then
    { s with nvme := if s.nvme.contains slot.val then s.nvme else slot.val :: s.nvme, ready := s.ready.add .stor } else s)

/-! ### Bring-up and power (R302, R303) -/

/-- The cores of a die whose ready bit is set (R7). -/
def State.readyOn (s : State) (die : Nat) : Nat := (s.ready.core.filter (fun n => dieOf n == die)).length

/-- Whether a function may set its bit (R302): a retired or harvested one never does, a die enables 96 of its cores (R7), and the
storage port needs an accepted device. -/
def State.mayBeReady (s : State) (f : Function) : Bool :=
  !s.retired.has f && (match f with
    | .core n => n < 416 && !(s.die (dieOf n)).dead.contains (n % Config.sitesPerDie) &&
        (s.ready.core.contains n || s.readyOn (dieOf n) < Config.coresPerDie)
    | .stor => !s.nvme.isEmpty
    | _ => true)

/-- A function has tested itself and sets its bit (R302). -/
def execFunctionReady (f : Function) (s : State) : Host.Outcome State Fault Refusal :=
  .next (if !s.mayBeReady f then s
    else
      let s1 := { s with ready := s.ready.add f }
      match f with
      | .core n => s1.modCore n (fun c => { c with noPlace := false })
      | _ => s1)

/-- The arithmetic clocks that R303 allows: 1.75 GHz, and steps of 125 MHz down to 875 MHz. How far the clock is lowered for the
interval before a loss point is not stated: here by the same steps (log 26). -/
def clockOk (mhz : Nat) : Bool := 875 ≤ mhz && mhz ≤ 1750 && (1750 - mhz) % 125 == 0

/-- Whether levels go with a budget (R303): up at a higher one, down at a lower one, and the dies together, but for a die whose
own limit holds it lower. -/
def State.levelsOk (s : State) (watts : Nat) (levels : List Nat) : Bool :=
  let top := levels.foldl max 0
  levels.length == 4 && 1 ≤ top && top ≤ 24 && [0, 1, 2, 3].all (fun d =>
    let x := s.die d
    let l := lget 0 levels d
    l == min top x.limit && (s.budget ≤ watts || l ≤ x.level) && (watts ≤ s.budget || min x.level x.limit ≤ l))

/-- A new package budget with what the power model gives for it (R303, log 26): the level of each die, the clock now, and the clock
that stays once no fall is pending, which is lower only where one lit silo for each core is too much. -/
def execBudgetChange (watts : Nat) (levels : List Nat) (clock : Clocks) (s : State) : Host.Outcome State Fault Refusal :=
  let s1 := (List.range 4).foldl (fun (t : State) d => t.notice d (lget 0 levels d)) s
  let falls := [0, 1, 2, 3].any (fun d => (s1.die d).pending.isSome)
  .next (if watts < 1100 || 3400 < watts || !s.levelsOk watts levels || !clockOk clock.now || !clockOk clock.floor ||
      (clock.floor != 1750 && !levels.all (· == 1)) || (clock.now != clock.floor && !falls) then s
    else { s1 with budget := watts, clock := clock.now, floorClock := clock.floor })

/-! ### Spares and failures (R304, R305) -/

/-- A site of a die that could be lit as a spare: not in use, neither harvested nor retired, in no partition (R304, log 27). -/
def State.spareSites (s : State) (die : Nat) : List Nat :=
  ((List.range Config.sitesPerDie).map (fun k => die * Config.sitesPerDie + k)).filter (fun n =>
    !s.ready.core.contains n && !s.retired.core.contains n && !(s.die die).dead.contains (n % Config.sitesPerDie) &&
    !s.parts.any (fun p => p.2.cores.contains n))

/-- Steps 3 to 5 of a retirement (R304): a spare takes the logical index, or the index is lost. -/
def State.replaceCore (s : State) (site : Nat) : State :=
  let die := dieOf site
  let spare := ((s.spareSites die).filter (fun n => n != site)).head?
  let order : List Nat → List Nat := fun l => match spare with
    | some n => l.map (fun c => if c == site then n else c)
    | none => l.filter (fun c => c != site)
  let s1 : State := { s with
    parts := s.parts.map (fun (p : Nat × Partition) => (p.1, { p.2 with cores := order p.2.cores }))
    ready := match spare with | some n => s.ready.add (.core n) | none => s.ready }
  let s2 : State := ((s1.modCore site (fun c => { c with retired := true })).retire (.core site)).loseRouter site
  if (s2.spareSites die).length ≤ 1 then s2.requestRepl 1 else s2

/-- A core is retired live (R304): placement stops and its gangs are saved; once nothing is resident there, a spare takes its
place. -/
def execCoreRetirement (site : Nat) (s : State) : Host.Outcome State Fault Refusal :=
  let c := s.core site
  .next (if 416 ≤ site || c.retired then s
    else if !c.noPlace || !(s.workgroupsOn site).isEmpty then s.vacate [site]
    else if s.shoots.isEmpty then s.replaceCore site
    else s)

/-- Spare frames of a stack: 64 MiB of 64 KiB frames (R305). -/
def spareFrameCount : Nat := 1024

/-- A memory processor moves a frame to a spare one, unseen by programs (R305). -/
def execFrameRetirement (stack : Fin 12) (frame spare : BitVec 36) (s : State) : Host.Outcome State Fault Refusal :=
  let used := (kget s.spareFrames stack.val).getD 0
  .next (if spareFrameCount ≤ used || (kget s.framesMoved frame.toNat).isSome || s.framesMoved.any (fun p => p.2 == spare.toNat) then s
    else
      let s1 : State := { s with spareFrames := kset s.spareFrames stack.val (used + 1)
                                 framesMoved := kset s.framesMoved frame.toNat spare.toNat }
      if 3 * spareFrameCount ≤ 4 * (used + 1) then s1.requestRepl 3 else s1)

/-- An uncorrectable HBM error kills the workgroup that read it, and the kill is reported with the frame (R276, rank 2, R281,
R305). -/
def execHbmUncorrectable (k : Nat) (frame : BitVec 36) (s : State) : Host.Outcome State Fault Refusal :=
  .next (match s.sheaf k with
    | some sh =>
      let t := s.uncorrectable sh.wg
      { t with reports := t.reports ++ [frame.toNat] }
    | none => s)

/-- An application core fails (R305). -/
def execApplicationCoreFailure (core : Fin 16) (s : State) : Host.Outcome State Fault Refusal :=
  .next (if s.appDown.contains core.val then s
    else
      let s1 := ({ s with appDown := core.val :: s.appDown }).retire (.app core)
      if 2 ≤ s1.appDown.length then s1.requestRepl 6 else s1)

end Sys2Proof.Machine
end

