-- ==== Sys2Proof/Machine/LaneInt.lean ====
section
/-! DEFINITION. Lane instructions for integers, selection and constants (04 R59 to R68). -/

namespace Sys2Proof.Machine

/-- Two sources of a width. -/
def src2 (w64 : Bool) (a b : LSrc) : List SrcUse := [⟨2, a, wide w64⟩, ⟨3, b, wide w64⟩]

/-- A function of one source value. -/
def un (f : DWord → DWord) : List DWord → DWord
  | a :: _ => f a
  | _ => 0

/-- A function of two source values. -/
def bin (f : DWord → DWord → DWord) : List DWord → DWord
  | a :: b :: _ => f a b
  | _ => 0

/-- A function of three source values. -/
def tri (f : DWord → DWord → DWord → DWord) : List DWord → DWord
  | a :: b :: c :: _ => f a b c
  | _ => 0

/-- `.i32`. -/
abbrev i32 : IntTy := ⟨false, false⟩
/-- `.i64`. -/
abbrev i64 : IntTy := ⟨true, false⟩

/-- The high half of the exact product (R59). -/
def mulhiVal (ty : IntTy) (a b : DWord) : DWord :=
  wrapInt ty (Int.fdiv (intVal ty a * intVal ty b) (2 ^ (if ty.w64 then 64 else 32) : Nat))

/-- The register that `movt` keeps the low half of (R67). -/
def movtSrc (d : LDst) : List SrcUse :=
  match d with
  | .n k => [⟨1, ⟨.n k, false⟩, 1⟩]
  | _ => []

/-- `add` of registers (R59). -/
def execAddR (ty : IntTy) (sat : Bool) (d : LDst) (a b : LSrc) (s : State) : Host.Outcome State Fault Refusal :=
  laneAlu s (src2 ty.w64 a b) d (wide ty.w64) (bin (fun x y => intResult ty sat (intVal ty x + intVal ty y)))

/-- `sub` (R59). -/
def execSubR (ty : IntTy) (sat : Bool) (d : LDst) (a b : LSrc) (s : State) : Host.Outcome State Fault Refusal :=
  laneAlu s (src2 ty.w64 a b) d (wide ty.w64) (bin (fun x y => intResult ty sat (intVal ty x - intVal ty y)))

/-- `mul` (R59). -/
def execMulR (ty : IntTy) (sat : Bool) (d : LDst) (a b : LSrc) (s : State) : Host.Outcome State Fault Refusal :=
  laneAlu s (src2 ty.w64 a b) d (wide ty.w64) (bin (fun x y => intResult ty sat (intVal ty x * intVal ty y)))

/-- `add.i32` of an immediate (R59). -/
def execAddI32 (d : LDst) (a : LSrc) (imm : BitVec 11) (s : State) : Host.Outcome State Fault Refusal :=
  laneAlu s [⟨2, a, 1⟩] d 1 (un (fun x => wrapInt i32 (intVal i32 x + imm.toInt)))

/-- `add.i64` of an immediate (R59). -/
def execAddI64 (d : LDst) (a : LSrc) (imm : BitVec 11) (s : State) : Host.Outcome State Fault Refusal :=
  laneAlu s [⟨2, a, 2⟩] d 2 (un (fun x => wrapInt i64 (intVal i64 x + imm.toInt)))

/-- `mulhi` (R59): floor of the product over 2^w. -/
def execMulhi (ty : IntTy) (d : LDst) (a b : LSrc) (s : State) : Host.Outcome State Fault Refusal :=
  laneAlu s (src2 ty.w64 a b) d (wide ty.w64) (bin (mulhiVal ty))

/-- `mad` (R59), pushed. -/
def execMad (ty : IntTy) (sat : Bool) (a b c : LSrc) (s : State) : Host.Outcome State Fault Refusal :=
  laneAlu s [⟨2, a, wide ty.w64⟩, ⟨3, b, wide ty.w64⟩, ⟨4, c, wide ty.w64⟩] .push (wide ty.w64)
    (tri (fun x y z => intResult ty sat (intVal ty x * intVal ty y + intVal ty z)))

/-- `div` (R60). -/
def execDivInt (ty : IntTy) (sat : Bool) (d : LDst) (a b : LSrc) (s : State) : Host.Outcome State Fault Refusal :=
  laneAlu s (src2 ty.w64 a b) d (wide ty.w64) (bin (divVal ty sat))

/-- `rem` (R60). -/
def execRem (ty : IntTy) (d : LDst) (a b : LSrc) (s : State) : Host.Outcome State Fault Refusal :=
  laneAlu s (src2 ty.w64 a b) d (wide ty.w64) (bin (remVal ty))

/-- `min` (R59). -/
def execMinInt (ty : IntTy) (d : LDst) (a b : LSrc) (s : State) : Host.Outcome State Fault Refusal :=
  laneAlu s (src2 ty.w64 a b) d (wide ty.w64) (bin (redStep .min ty))

/-- `max` (R59). -/
def execMaxInt (ty : IntTy) (d : LDst) (a b : LSrc) (s : State) : Host.Outcome State Fault Refusal :=
  laneAlu s (src2 ty.w64 a b) d (wide ty.w64) (bin (redStep .max ty))

/-- `cmp` of signed types (R65). -/
def execCmpSigned (rel : Rel) (w64 : Bool) (d : LDst) (a b : LSrc) (s : State) : Host.Outcome State Fault Refusal :=
  laneAlu s (src2 w64 a b) d 1 (bin (fun x y => bitVal (relHolds rel (intVal ⟨w64, false⟩ x) (intVal ⟨w64, false⟩ y))))

/-- `cmp` of unsigned types (R65). -/
def execCmpUnsigned (rel : Rel) (w64 : Bool) (d : LDst) (a b : LSrc) (s : State) : Host.Outcome State Fault Refusal :=
  laneAlu s (src2 w64 a b) d 1 (bin (fun x y => bitVal (relHolds rel (intVal ⟨w64, true⟩ x) (intVal ⟨w64, true⟩ y))))

/-- `and` of registers (R61). -/
def execAndR (w64 : Bool) (d : LDst) (a b : LSrc) (s : State) : Host.Outcome State Fault Refusal :=
  laneAlu s (src2 w64 a b) d (wide w64) (bin (fun x y => x &&& y))

/-- `or` of registers (R61). -/
def execOrR (w64 : Bool) (d : LDst) (a b : LSrc) (s : State) : Host.Outcome State Fault Refusal :=
  laneAlu s (src2 w64 a b) d (wide w64) (bin (fun x y => x ||| y))

/-- `xor` of registers (R61). -/
def execXorR (w64 : Bool) (d : LDst) (a b : LSrc) (s : State) : Host.Outcome State Fault Refusal :=
  laneAlu s (src2 w64 a b) d (wide w64) (bin (fun x y => x ^^^ y))

/-- `and.i32` of an immediate, sign-extended (R61). -/
def execAndI (d : LDst) (a : LSrc) (imm : BitVec 11) (s : State) : Host.Outcome State Fault Refusal :=
  laneAlu s [⟨2, a, 1⟩] d 1 (un (fun x => x &&& (imm.signExtend 32).setWidth 64))

/-- `or.i32` of an immediate, sign-extended (R61). -/
def execOrI (d : LDst) (a : LSrc) (imm : BitVec 11) (s : State) : Host.Outcome State Fault Refusal :=
  laneAlu s [⟨2, a, 1⟩] d 1 (un (fun x => x ||| (imm.signExtend 32).setWidth 64))

/-- `xor.i32` of an immediate, sign-extended (R61). -/
def execXorI (d : LDst) (a : LSrc) (imm : BitVec 11) (s : State) : Host.Outcome State Fault Refusal :=
  laneAlu s [⟨2, a, 1⟩] d 1 (un (fun x => x ^^^ (imm.signExtend 32).setWidth 64))

/-- `shl` by a register (R62). -/
def execShlR (w64 : Bool) (d : LDst) (a b : LSrc) (s : State) : Host.Outcome State Fault Refusal :=
  laneAlu s [⟨2, a, wide w64⟩, ⟨3, b, 1⟩] d (wide w64) (bin (fun x y => shlVal w64 x y.toNat))

/-- `shr` by a register (R62). -/
def execShrR (w64 : Bool) (d : LDst) (a b : LSrc) (s : State) : Host.Outcome State Fault Refusal :=
  laneAlu s [⟨2, a, wide w64⟩, ⟨3, b, 1⟩] d (wide w64) (bin (fun x y => shrVal w64 x y.toNat))

/-- `sar` by a register (R62). -/
def execSarR (w64 : Bool) (d : LDst) (a b : LSrc) (s : State) : Host.Outcome State Fault Refusal :=
  laneAlu s [⟨2, a, wide w64⟩, ⟨3, b, 1⟩] d (wide w64) (bin (fun x y => sarVal w64 x y.toNat))

/-- `shl` by a constant (R62). -/
def execShlI (w64 : Bool) (d : LDst) (a : LSrc) (c : BitVec 6) (s : State) : Host.Outcome State Fault Refusal :=
  laneAlu s [⟨2, a, wide w64⟩] d (wide w64) (un (fun x => shlVal w64 x c.toNat))

/-- `shr` by a constant (R62). -/
def execShrI (w64 : Bool) (d : LDst) (a : LSrc) (c : BitVec 6) (s : State) : Host.Outcome State Fault Refusal :=
  laneAlu s [⟨2, a, wide w64⟩] d (wide w64) (un (fun x => shrVal w64 x c.toNat))

/-- `sar` by a constant (R62). -/
def execSarI (w64 : Bool) (d : LDst) (a : LSrc) (c : BitVec 6) (s : State) : Host.Outcome State Fault Refusal :=
  laneAlu s [⟨2, a, wide w64⟩] d (wide w64) (un (fun x => sarVal w64 x c.toNat))

/-- `bfx` (R63), pushed. -/
def execBfx (sx : Bool) (a pos len : LSrc) (s : State) : Host.Outcome State Fault Refusal :=
  laneAlu s [⟨2, a, 1⟩, ⟨3, pos, 1⟩, ⟨4, len, 1⟩] .push 1 (tri (fun x p n => (bfxVal sx x.lo p.toNat n.toNat).setWidth 64))

/-- `bfi` (R63), pushed. -/
def execBfi (base ins ctl : LSrc) (s : State) : Host.Outcome State Fault Refusal :=
  laneAlu s [⟨2, base, 1⟩, ⟨3, ins, 1⟩, ⟨4, ctl, 1⟩] .push 1 (tri (fun x y z => (bfiVal x.lo y.lo z.lo).setWidth 64))

/-- `bit` (R64): counts fill one register. -/
def execBit (op : BitOp) (w64 : Bool) (d : LDst) (a : LSrc) (s : State) : Host.Outcome State Fault Refusal :=
  laneAlu s [⟨2, a, wide w64⟩] d (wide (w64 && op.wide)) (un (bitOpVal op w64))

/-- `sel` (R66), pushed; all sources are read. -/
def execSel (c a b : LSrc) (s : State) : Host.Outcome State Fault Refusal :=
  laneAlu s [⟨2, c, 1⟩, ⟨3, a, 1⟩, ⟨4, b, 1⟩] .push 1 (tri (fun x y z => if x != 0 then y else z))

/-- `movl` (R67). -/
def execMovl (d : LDst) (imm : BitVec 16) (s : State) : Host.Outcome State Fault Refusal :=
  laneAlu s [] d 1 (fun _ => imm.setWidth 64)

/-- `movs` (R67). -/
def execMovs (d : LDst) (imm : BitVec 16) (s : State) : Host.Outcome State Fault Refusal :=
  laneAlu s [] d 1 (fun _ => (imm.signExtend 32).setWidth 64)

/-- `movt` (R67): reads its destination under R16. -/
def execMovt (d : LDst) (imm : BitVec 16) (s : State) : Host.Outcome State Fault Refusal :=
  laneAlu s (movtSrc d) d 1 (un (fun x => (imm ++ x.extractLsb' 0 16).setWidth 64))

/-- `nget` (R68): a register reached by index is read under R16 and not killed. -/
def execNget (d : LDst) (i : LSrc) (s : State) : Host.Outcome State Fault Refusal :=
  laneOp s [⟨2, i, 1⟩] d 1
    (fun sh l vs =>
      let n := (wordsVal (vs.headD [])).toNat
      if sh.named ≤ n then some { code := 0x04, opnd := 2 }
      else if sh.strict && regsDead s.free sh l (.n (Fin.ofNat 32 n)) 1 then some { code := 0x03, opnd := 2 } else none)
    (fun sh l vs =>
      [Entry.val! (regRead s.free sh l (.n (Fin.ofNat 32 (wordsVal (vs.headD [])).toNat))).1])

/-- A lane-set instruction of two sources without a destination field, each lane writing a named register by index (R68). -/
def indexedWrite (s : State) (i v : LSrc) : Host.Outcome State Fault Refusal :=
  issue s (fun c =>
    let us : List SrcUse := [⟨2, i, 1⟩, ⟨3, v, 1⟩]
    checkNamed s c (us.map (fun u => (u.field, u.src.reg.top 1)))
      (let live := (maskLanes c.active).filter (fun l => (deadField s.free c.sh l us).isNone)
       let peeks := s.peekFields c.sh live.length us
       let (ok, bad) := siftLanes (fun l rank => laneFault s c.sh us l
         (if c.sh.named ≤ (wordsVal ((laneValues s.free c.sh l rank us peeks).headD [])).toNat
          then some { code := 0x04, opnd := 2 } else none)) 0 (maskLanes c.active)
       let ps := lanePorts us .push live.length
       match ps.findSome? (s.portFault c.sh ps) with
       | some (code, fld) => s.trap c code fld
       | none =>
         let ns := s.portNeeds c.sh ps
         if !s.portsReady ns then s.stallPort c ns
         else
           let (pops, s1) := s.popFields c.k ok.length us
           let s2 := s1.modLanes c.k ok (fun rank l ln =>
             let vs := laneValues s.free c.sh l rank us pops
             (ln.killUses us).writeEntries (.n (Fin.ofNat 32 (wordsVal (vs.headD [])).toNat))
               [Entry.val! (wordsVal (lget [] vs 1)).lo])
           (s2.advance c).raiseSome c bad))

/-- `nset` (R68). -/
def execNset (i v : LSrc) (s : State) : Host.Outcome State Fault Refusal :=
  indexedWrite s i v

end Sys2Proof.Machine
end

