-- ==== Sys2Proof/Machine/GroupAlu.lean ====
section
/-! DEFINITION. Group-set arithmetic and moves from lanes to the sheaf (07 R113 to R116). -/

namespace Sys2Proof.Machine

/-- Two group sources of a width. -/
def gsrc2 (w64 : Bool) (a b : GSrc) : List GUse := [⟨2, a, wide w64⟩, ⟨3, b, wide w64⟩]

/-- The register that `movt` keeps the low half of (R114). -/
def gMovtSrc (d : GDst) : List GUse :=
  match d with
  | .g k => [⟨1, .g k, 1⟩]
  | .b k => [⟨1, .b k, 1⟩]
  | .h _ => []

/-- `add` (R114). -/
def execGAddR (ty : IntTy) (sat : Bool) (d : GDst) (a b : GSrc) (s : State) : Host.Outcome State Fault Refusal :=
  groupAlu s (gsrc2 ty.w64 a b) d (wide ty.w64) (bin (fun x y => intResult ty sat (intVal ty x + intVal ty y)))

/-- `sub` (R114). -/
def execGSub (ty : IntTy) (sat : Bool) (d : GDst) (a b : GSrc) (s : State) : Host.Outcome State Fault Refusal :=
  groupAlu s (gsrc2 ty.w64 a b) d (wide ty.w64) (bin (fun x y => intResult ty sat (intVal ty x - intVal ty y)))

/-- `mul` (R114). -/
def execGMul (ty : IntTy) (sat : Bool) (d : GDst) (a b : GSrc) (s : State) : Host.Outcome State Fault Refusal :=
  groupAlu s (gsrc2 ty.w64 a b) d (wide ty.w64) (bin (fun x y => intResult ty sat (intVal ty x * intVal ty y)))

/-- `add.i32` of an immediate (R114). -/
def execGAddI (d : GDst) (a : GSrc) (imm : BitVec 12) (s : State) : Host.Outcome State Fault Refusal :=
  groupAlu s [⟨2, a, 1⟩] d 1 (un (fun x => wrapInt i32 (intVal i32 x + imm.toInt)))

/-- `mulhi` (R114). -/
def execGMulhi (ty : IntTy) (d : GDst) (a b : GSrc) (s : State) : Host.Outcome State Fault Refusal :=
  groupAlu s (gsrc2 ty.w64 a b) d (wide ty.w64) (bin (mulhiVal ty))

/-- `min` (R114). -/
def execGMin (ty : IntTy) (d : GDst) (a b : GSrc) (s : State) : Host.Outcome State Fault Refusal :=
  groupAlu s (gsrc2 ty.w64 a b) d (wide ty.w64) (bin (redStep .min ty))

/-- `max` (R114). -/
def execGMax (ty : IntTy) (d : GDst) (a b : GSrc) (s : State) : Host.Outcome State Fault Refusal :=
  groupAlu s (gsrc2 ty.w64 a b) d (wide ty.w64) (bin (redStep .max ty))

/-- `cmp` (R114). -/
def execGCmp (rel : Rel) (uns w64 : Bool) (d : GDst) (a b : GSrc) (s : State) : Host.Outcome State Fault Refusal :=
  groupAlu s (gsrc2 w64 a b) d 1 (bin (fun x y => bitVal (relHolds rel (intVal ⟨w64, uns⟩ x) (intVal ⟨w64, uns⟩ y))))

/-- `and` (R114). -/
def execGAndR (w64 : Bool) (d : GDst) (a b : GSrc) (s : State) : Host.Outcome State Fault Refusal :=
  groupAlu s (gsrc2 w64 a b) d (wide w64) (bin (fun x y => x &&& y))

/-- `or` (R114). -/
def execGOrR (w64 : Bool) (d : GDst) (a b : GSrc) (s : State) : Host.Outcome State Fault Refusal :=
  groupAlu s (gsrc2 w64 a b) d (wide w64) (bin (fun x y => x ||| y))

/-- `xor` (R114). -/
def execGXorR (w64 : Bool) (d : GDst) (a b : GSrc) (s : State) : Host.Outcome State Fault Refusal :=
  groupAlu s (gsrc2 w64 a b) d (wide w64) (bin (fun x y => x ^^^ y))

/-- `and.i32` of an immediate (R114). -/
def execGAndI (d : GDst) (a : GSrc) (imm : BitVec 12) (s : State) : Host.Outcome State Fault Refusal :=
  groupAlu s [⟨2, a, 1⟩] d 1 (un (fun x => x &&& (imm.signExtend 32).setWidth 64))

/-- `or.i32` of an immediate (R114). -/
def execGOrI (d : GDst) (a : GSrc) (imm : BitVec 12) (s : State) : Host.Outcome State Fault Refusal :=
  groupAlu s [⟨2, a, 1⟩] d 1 (un (fun x => x ||| (imm.signExtend 32).setWidth 64))

/-- `xor.i32` of an immediate (R114). -/
def execGXorI (d : GDst) (a : GSrc) (imm : BitVec 12) (s : State) : Host.Outcome State Fault Refusal :=
  groupAlu s [⟨2, a, 1⟩] d 1 (un (fun x => x ^^^ (imm.signExtend 32).setWidth 64))

/-- `shl` by a register (R114). -/
def execGShlR (w64 : Bool) (d : GDst) (a b : GSrc) (s : State) : Host.Outcome State Fault Refusal :=
  groupAlu s [⟨2, a, wide w64⟩, ⟨3, b, 1⟩] d (wide w64) (bin (fun x y => shlVal w64 x y.toNat))

/-- `shr` by a register (R114). -/
def execGShrR (w64 : Bool) (d : GDst) (a b : GSrc) (s : State) : Host.Outcome State Fault Refusal :=
  groupAlu s [⟨2, a, wide w64⟩, ⟨3, b, 1⟩] d (wide w64) (bin (fun x y => shrVal w64 x y.toNat))

/-- `sar` by a register (R114). -/
def execGSarR (w64 : Bool) (d : GDst) (a b : GSrc) (s : State) : Host.Outcome State Fault Refusal :=
  groupAlu s [⟨2, a, wide w64⟩, ⟨3, b, 1⟩] d (wide w64) (bin (fun x y => sarVal w64 x y.toNat))

/-- `shl` by a constant (R114). -/
def execGShlI (w64 : Bool) (d : GDst) (a : GSrc) (c : BitVec 6) (s : State) : Host.Outcome State Fault Refusal :=
  groupAlu s [⟨2, a, wide w64⟩] d (wide w64) (un (fun x => shlVal w64 x c.toNat))

/-- `shr` by a constant (R114). -/
def execGShrI (w64 : Bool) (d : GDst) (a : GSrc) (c : BitVec 6) (s : State) : Host.Outcome State Fault Refusal :=
  groupAlu s [⟨2, a, wide w64⟩] d (wide w64) (un (fun x => shrVal w64 x c.toNat))

/-- `sar` by a constant (R114). -/
def execGSarI (w64 : Bool) (d : GDst) (a : GSrc) (c : BitVec 6) (s : State) : Host.Outcome State Fault Refusal :=
  groupAlu s [⟨2, a, wide w64⟩] d (wide w64) (un (fun x => sarVal w64 x c.toNat))

/-- `bit` (R114). -/
def execGBit (op : BitOp) (w64 : Bool) (d : GDst) (a : GSrc) (s : State) : Host.Outcome State Fault Refusal :=
  groupAlu s [⟨2, a, wide w64⟩] d (wide (w64 && op.wide)) (un (bitOpVal op w64))

/-- `bfx` (R114): position and length in one word. -/
def execGBfx (sx : Bool) (d : GDst) (a ctl : GSrc) (s : State) : Host.Outcome State Fault Refusal :=
  groupAlu s [⟨2, a, 1⟩, ⟨3, ctl, 1⟩] d 1
    (bin (fun x y => (bfxVal sx x.lo (y.extractLsb' 0 8).toNat (y.extractLsb' 8 8).toNat).setWidth 64))

/-- `mov` (R114). -/
def execGMov (d : GDst) (a : GSrc) (s : State) : Host.Outcome State Fault Refusal :=
  groupAlu s [⟨2, a, 1⟩] d 1 (un (fun x => x))

/-- `movl` (R114). -/
def execGMovl (d : GDst) (imm : BitVec 16) (s : State) : Host.Outcome State Fault Refusal :=
  groupAlu s [] d 1 (fun _ => imm.setWidth 64)

/-- `movs` (R114). -/
def execGMovs (d : GDst) (imm : BitVec 16) (s : State) : Host.Outcome State Fault Refusal :=
  groupAlu s [] d 1 (fun _ => (imm.signExtend 32).setWidth 64)

/-- `movt` (R114): reads its destination. -/
def execGMovt (d : GDst) (imm : BitVec 16) (s : State) : Host.Outcome State Fault Refusal :=
  groupAlu s (gMovtSrc d) d 1 (un (fun x => (imm ++ x.extractLsb' 0 16).setWidth 64))

/-- `rdlane` (R116): lane i of the sheaf, active or not; 0 beyond the width. -/
def execRdlane (d : GDst) (a : LReg) (i : GSrc) (s : State) : Host.Outcome State Fault Refusal :=
  issue s (fun c =>
    checkNamed s c [(2, a.top 1)]
      (groupStep s c [⟨3, i, 1⟩] (some d) (fun vs s1 =>
        let n := (vs.headD 0).toNat
        if c.sh.width ≤ n then (s1.gWrite c d [0]).advance c
        else if c.sh.strict && regsDead s.free c.sh n a 1 then s.trap c 0x03 2
        else (s1.gWrite c d [(regRead s.free c.sh n a).1]).advance c)))

/-- `rdfirst` (R116): the lowest active lane of the issuing split. -/
def execRdfirst (d : GDst) (a : LReg) (s : State) : Host.Outcome State Fault Refusal :=
  issue s (fun c =>
    checkNamed s c [(2, a.top 1)]
      (groupStep s c [] (some d) (fun _ s1 =>
        let n := (maskLanes c.sp.mask).headD 0
        if c.sh.strict && regsDead s.free c.sh n a 1 then s.trap c 0x03 2
        else (s1.gWrite c d [(regRead s.free c.sh n a).1]).advance c)))

/-- `amask` (R116). -/
def execAmask (d : GDst) (s : State) : Host.Outcome State Fault Refusal :=
  issue s (fun c => groupStep s c [] (some d) (fun _ s1 => (s1.gWrite c d (valWords 2 c.sp.mask)).advance c))

end Sys2Proof.Machine
end

