-- ==== Sys2Proof/Machine/LaneFloat.lean ====
section
/-! DEFINITION. Floating-point, conversion and packed narrow instructions (05 R77 to R90). -/

namespace Sys2Proof.Machine

/-- `add` of floats (R79). -/
def execFadd (ty : FTy) (rnd : Rnd) (d : LDst) (a b : LSrc) (s : State) : Host.Outcome State Fault Refusal :=
  laneAlu s (src2 false a b) d 1 (bin (fun p q =>
    let x := fval (ftyFmt ty) p
    let y := fval (ftyFmt ty) q
    fres (ftyFmt ty) rnd (addExt rnd x y)))

/-- `sub` of floats (R79). -/
def execFsub (ty : FTy) (rnd : Rnd) (d : LDst) (a b : LSrc) (s : State) : Host.Outcome State Fault Refusal :=
  laneAlu s (src2 false a b) d 1 (bin (fun p q =>
    let x := fval (ftyFmt ty) p
    let y := fval (ftyFmt ty) q
    fres (ftyFmt ty) rnd (addExt rnd x y.minus)))

/-- `mul` of floats (R79). -/
def execFmul (ty : FTy) (rnd : Rnd) (d : LDst) (a b : LSrc) (s : State) : Host.Outcome State Fault Refusal :=
  laneAlu s (src2 false a b) d 1 (bin (fun p q =>
    let x := fval (ftyFmt ty) p
    let y := fval (ftyFmt ty) q
    fres (ftyFmt ty) rnd (mulExt x y)))

/-- `div` of floats (R79). -/
def execFdiv (ty : FTy) (rnd : Rnd) (d : LDst) (a b : LSrc) (s : State) : Host.Outcome State Fault Refusal :=
  laneAlu s (src2 false a b) d 1 (bin (fun p q =>
    let x := fval (ftyFmt ty) p
    let y := fval (ftyFmt ty) q
    fres (ftyFmt ty) rnd (divExt x y)))

/-- `fma` (R80), pushed. -/
def execFma (f16 : Bool) (rnd : Rnd) (a b c : LSrc) (s : State) : Host.Outcome State Fault Refusal :=
  laneAlu s [⟨2, a, 1⟩, ⟨3, b, 1⟩, ⟨4, c, 1⟩] .push 1 (tri (fun p q r =>
    fres (f16Fmt f16) rnd (fmaExt rnd (fval (f16Fmt f16) p) (fval (f16Fmt f16) q) (fval (f16Fmt f16) r))))

/-- `min` of floats (R81). -/
def execFmin (ty : FTy) (d : LDst) (a b : LSrc) (s : State) : Host.Outcome State Fault Refusal :=
  laneAlu s (src2 false a b) d 1 (bin (fminmax (ftyFmt ty) false))

/-- `max` of floats (R81). -/
def execFmax (ty : FTy) (d : LDst) (a b : LSrc) (s : State) : Host.Outcome State Fault Refusal :=
  laneAlu s (src2 false a b) d 1 (bin (fminmax (ftyFmt ty) true))

/-- `cmp` of floats (R82). -/
def execFcmp (rel : FRel) (f16 : Bool) (d : LDst) (a b : LSrc) (s : State) : Host.Outcome State Fault Refusal :=
  laneAlu s (src2 false a b) d 1 (bin (fun p q => bitVal (frelHolds rel (fval (f16Fmt f16) p) (fval (f16Fmt f16) q))))

/-- `abs` (R83); source B is not an operand (R78). -/
def execAbs (ty : FTy) (d : LDst) (a : LSrc) (_spare : BitVec 7) (s : State) : Host.Outcome State Fault Refusal :=
  laneAlu s [⟨2, a, 1⟩] d 1 (un (signVal (ftyFmt ty) (fun _ => false)))

/-- `neg` (R83). -/
def execNeg (ty : FTy) (d : LDst) (a : LSrc) (_spare : BitVec 7) (s : State) : Host.Outcome State Fault Refusal :=
  laneAlu s [⟨2, a, 1⟩] d 1 (un (signVal (ftyFmt ty) (fun n => !n)))

/-- `csgn` (R83): the sign bit of b. -/
def execCsgn (ty : FTy) (d : LDst) (a b : LSrc) (s : State) : Host.Outcome State Fault Refusal :=
  laneAlu s (src2 false a b) d 1 (bin (fun p q => signVal (ftyFmt ty) (fun _ => q.getLsbD ((ftyFmt ty).e + (ftyFmt ty).p)) p))

/-- `rcp` (R85). -/
def execRcp (rnd : Rnd) (d : LDst) (a : LSrc) (_spare : BitVec 7) (s : State) : Host.Outcome State Fault Refusal :=
  laneAlu s [⟨2, a, 1⟩] d 1 (un (fun p => fres fmt32 rnd (mathExt .rcp (fval fmt32 p))))

/-- `rsqrt` (R85). -/
def execRsqrt (rnd : Rnd) (d : LDst) (a : LSrc) (_spare : BitVec 7) (s : State) : Host.Outcome State Fault Refusal :=
  laneAlu s [⟨2, a, 1⟩] d 1 (un (fun p => fres fmt32 rnd (mathExt .rsqrt (fval fmt32 p))))

/-- `sqrt` (R85). -/
def execSqrt (rnd : Rnd) (d : LDst) (a : LSrc) (_spare : BitVec 7) (s : State) : Host.Outcome State Fault Refusal :=
  laneAlu s [⟨2, a, 1⟩] d 1 (un (fun p => fres fmt32 rnd (mathExt .sqrt (fval fmt32 p))))

/-- `exp2` (R85). -/
def execExp2 (rnd : Rnd) (d : LDst) (a : LSrc) (_spare : BitVec 7) (s : State) : Host.Outcome State Fault Refusal :=
  laneAlu s [⟨2, a, 1⟩] d 1 (un (fun p => fres fmt32 rnd (mathExt .exp2 (fval fmt32 p))))

/-- `log2` (R85). -/
def execLog2 (rnd : Rnd) (d : LDst) (a : LSrc) (_spare : BitVec 7) (s : State) : Host.Outcome State Fault Refusal :=
  laneAlu s [⟨2, a, 1⟩] d 1 (un (fun p => fres fmt32 rnd (mathExt .log2 (fval fmt32 p))))

/-- `class` (R84). -/
def execClass (ty : FTy) (d : LDst) (a : LSrc) (s : State) : Host.Outcome State Fault Refusal :=
  laneAlu s [⟨2, a, 1⟩] d 1 (un (classVal (ftyFmt ty)))

/-- `cvt` (R86). -/
def execCvt (dt st : CvtTy) (rnd : Rnd) (sat : Bool) (d : LDst) (a : LSrc) (s : State) : Host.Outcome State Fault Refusal :=
  laneAlu s [⟨2, a, 1⟩] d 1 (un (cvtVal dt st rnd sat))

/-- `pack` (R87). -/
def execPack (w : PackW) (d : LDst) (a b : LSrc) (s : State) : Host.Outcome State Fault Refusal :=
  laneAlu s (src2 false a b) d 1 (bin (fun x y => (packVal w x.lo y.lo).setWidth 64))

/-- `unpk` (R88). -/
def execUnpk (w : PackW) (sx : Bool) (d : LDst) (a b : LSrc) (s : State) : Host.Outcome State Fault Refusal :=
  laneAlu s (src2 false a b) d 1 (bin (fun x y => (unpkVal w sx x.lo y.lo).setWidth 64))

/-- `dot` (R89), pushed. -/
def execDot (ty : ElemTy) (a b c : LSrc) (s : State) : Host.Outcome State Fault Refusal :=
  laneAlu s [⟨2, a, 1⟩, ⟨3, b, 1⟩, ⟨4, c, 1⟩] .push 1 (tri (fun x y z => dotVal ty x.lo y.lo z.lo))

/-- `scale` (R90). -/
def execScale (rnd : Rnd) (d : LDst) (a b : LSrc) (s : State) : Host.Outcome State Fault Refusal :=
  laneAlu s (src2 false a b) d 1 (bin (fun x y => scaleVal rnd x.lo y.lo))

end Sys2Proof.Machine
end

