-- ==== Sys2Proof/Machine/LaneMask.lean ====
section
/-! DEFINITION. Lane-mask instructions (07 R118 to R123): every participant reads before any writes, and a fault of one is
the fault of the split. -/

namespace Sys2Proof.Machine

/-- A lane-mask instruction (R118): `f` gives each participant its value from the values of all, as lane and value. -/
def maskOp (s : State) (us : List SrcUse) (d : LDst) (words : Nat) (f : Nat → List (Nat × List DWord) → Nat → DWord) :
    Host.Outcome State Fault Refusal :=
  issue s (fun c =>
    checkNamed s c ((1, d.top words) :: us.map (fun u => (u.field, u.src.reg.top u.words)))
      (let ls := maskLanes c.active
       match ls.findSome? (fun l => deadField s.free c.sh l us) with
       | some fld => s.trap c 0x03 fld
       | none =>
         let ps := lanePorts us d ls.length
         match ps.findSome? (s.portFault c.sh ps) with
         | some (code, fld) => s.trap c code fld
         | none =>
           let ns := s.portNeeds c.sh ps
           if !s.portsReady ns then s.stallPort c ns
           else
             let (pops, s1) := s.popFields c.k ls.length us
             let vals := mapIdxFrom (fun rank l => (l, (laneValues s.free c.sh l rank us pops).map wordsVal)) 0 ls
             let out : Nat → List Word := fun l => valWords words (f c.sh.width vals l)
             let s2 := s1.modLanes c.k ls (fun _ l ln => (ln.killUses us).writeEntries d ((out l).map Entry.val!))
             let s3 := match d.port with
               | some h => s2.pushWords c.k h (ls.map (fun l => (out l).headD 0))
               | none => s2
             s3.advance c))

/-- Participant n's values. -/
def valsOf (vals : List (Nat × List DWord)) (l : Nat) : List DWord := (kget vals l).getD []

/-- Participant l's first value. -/
def firstOf (vals : List (Nat × List DWord)) (l : Nat) : DWord := (valsOf vals l).headD 0

/-- The participants that satisfy a condition for lane l (R120). -/
def satisfying (cond : LCond) (vals : List (Nat × List DWord)) (l : Nat) : List Nat :=
  (vals.filter (fun p =>
    let x := p.2.headD 0
    match cond with
    | .nz => x != 0
    | .z => x == 0
    | .eq => x == firstOf vals l
    | .ne => x != firstOf vals l)).map (·.1)

/-- `laneid` (R119). -/
def execLaneid (d : LDst) (s : State) : Host.Outcome State Fault Refusal :=
  maskOp s [] d 1 (fun _ _ l => BitVec.ofNat 64 l)

/-- `lmask` (R120). -/
def execLmask (cond : LCond) (w64 : Bool) (d : LDst) (a : LSrc) (s : State) : Host.Outcome State Fault Refusal :=
  maskOp s [⟨2, a, wide w64⟩] d 2 (fun _ vals l => maskOf (satisfying cond vals l))

/-- `lcount` (R121). -/
def execLcount (cond : LCond) (w64 : Bool) (d : LDst) (a : LSrc) (s : State) : Host.Outcome State Fault Refusal :=
  maskOp s [⟨2, a, wide w64⟩] d 1 (fun _ vals l => BitVec.ofNat 64 (satisfying cond vals l).length)

/-- `lrank` (R121). -/
def execLrank (cond : LCond) (w64 : Bool) (d : LDst) (a : LSrc) (s : State) : Host.Outcome State Fault Refusal :=
  maskOp s [⟨2, a, wide w64⟩] d 1 (fun _ vals l =>
    BitVec.ofNat 64 ((satisfying cond vals l).filter (fun j => j < l)).length)

/-- The source lane of `lpull` (R122). -/
def pullFrom (mode : PullMode) (width l : Nat) (vu : Nat) (vs : Int) : Int :=
  match mode with
  | .at => vu
  | .step => l + vs
  | .rot => ((l + vu) % width : Nat)
  | .mir => (l ^^^ vu : Nat)

/-- The value a lane pulls: its own where the source lane is no participant (R122). -/
def pulled (width : Nat) (vals : List (Nat × List DWord)) (l : Nat) (from_ : Int) : DWord :=
  if 0 ≤ from_ ∧ from_ < width then
    match kget vals from_.toNat with
    | some v => v.headD 0
    | none => firstOf vals l
  else firstOf vals l

/-- `lpull` by a register (R122). -/
def execLpullR (mode : PullMode) (d : LDst) (a b : LSrc) (s : State) : Host.Outcome State Fault Refusal :=
  maskOp s (src2 false a b) d 1 (fun width vals l =>
    let v := lget 0 (valsOf vals l) 1
    pulled width vals l (pullFrom mode width l v.toNat (v.setWidth 32).toInt))

/-- `lpull` by a constant (R122). -/
def execLpullI (mode : PullMode) (d : LDst) (a : LSrc) (v : BitVec 7) (s : State) : Host.Outcome State Fault Refusal :=
  maskOp s [⟨2, a, 1⟩] d 1 (fun width vals l => pulled width vals l (pullFrom mode width l v.toNat v.toInt))

/-- `lred` (R123). -/
def execLred (op : RedOp) (uns : Bool) (d : LDst) (a : LSrc) (_spare : BitVec 7) (s : State) :
    Host.Outcome State Fault Refusal :=
  maskOp s [⟨2, a, 1⟩] d 1 (fun _ vals _ =>
    match vals.map (fun p => p.2.headD 0) with
    | [] => 0
    | x :: xs => xs.foldl (redStep op ⟨false, uns⟩) x)

end Sys2Proof.Machine
end

