-- ==== Sys2Proof/Machine/Observe.lean ====
section
/-! DEFINITION. Observing a run: profiling samples, event counters and the clock (21 R316 to R323). -/

namespace Sys2Proof.Machine

/-! ### Stall reasons (R318) -/

/-- The sheaf issued in the cycle just over. -/
def State.issuedNow (s : State) (sh : Sheaf) : Bool := sh.lastLane == s.cycle || sh.lastGroup == s.cycle

/-- The reasons of R318 that hold of a sheaf that has not issued. -/
def State.reasons (s : State) (sh : Sheaf) : List Nat :=
  let site := (s.wg sh.wg).elim 0 (fun w => w.site)
  (match sh.wait with | some w => [w.code] | none => []) ++
  (match sh.ctl.splits.find? (fun x => !x.parked) with | some x => if x.tried then [x.stall] else [] | none => []) ++
  (if sh.sleep.isSome then [17] else []) ++
  (if sh.pend.isSome && sh.hand.isNone then [21] else []) ++
  (if sh.halted then [22] else []) ++
  (if (s.core site).relocating then [23] else [])

/-- `STALL` (R318): 0 for a sheaf that has issued, else the first reason that holds, 1 where none does. -/
def State.stallCode (s : State) (sh : Sheaf) : Nat :=
  if s.issuedNow sh then 0
  else match s.reasons sh with
    | [] => 1
    | x :: l => l.foldl min x

/-! ### Samples (R316, R317) -/

/-- A sheaf's place in the rotation of its scheduler: slot, then position. -/
def Sheaf.place (sh : Sheaf) : Nat := sh.slot * 64 + sh.pos

/-- The resident sheaves of a scheduler. -/
def State.schedResidents (s : State) (site : Nat) (sched : Nat) : List (Nat × Sheaf) :=
  s.sheaves.filter (fun p => !p.2.ended && p.2.slot % 4 == sched && ((s.wg p.2.wg).map (·.site)) == some site)

/-- The sheaf with the smallest place at or after one. -/
def firstFrom (start : Nat) (l : List (Nat × Sheaf)) : Option (Nat × Sheaf) :=
  l.foldl (fun best p =>
    if p.2.place < start then best
    else match best with
      | none => some p
      | some b => if p.2.place < b.2.place then some p else best) none

/-- The next resident sheaf in rotation (R316). -/
def State.nextSample (s : State) (site sched : Nat) : Option (Nat × Sheaf) :=
  let l := s.schedResidents site sched
  match firstFrom (lget 0 (s.core site).rotate sched) l with
  | some p => some p
  | none => firstFrom 0 l

/-- Entry `i` of the region stack as a sample gives it (R317). -/
def sampleMark (sh : Sheaf) (i : Int) : BitVec 16 :=
  if i < 0 then 0 else if 8 ≤ i then 0xFFFF else lget 0 sh.rmarks i.toNat

/-- A sample record (R317). -/
def State.sampleBytes (s : State) (sched : Nat) (sh : Sheaf) (wg : Workgroup) : List Byte :=
  let pc := match sh.ctl.splits with | x :: _ => x.pc.toNat * 4 | [] => 0
  leBytes 8 pc ++
  leBytes 2 (s.stallCode sh + (b2n (s.issuedNow sh)) * 32 + sched * 64) ++
  leBytes 2 (sampleMark sh ((sh.rdepth : Int) - 1)).toNat ++ leBytes 2 (sampleMark sh ((sh.rdepth : Int) - 2)).toNat ++
  leBytes 2 wg.gangNo ++
  leBytes 4 (wg.stage % 16 + wg.idx % 16 * 16 + sh.sidx % 16 * 256 + wg.site * 4096) ++
  leBytes 2 sh.rdepth ++ [0, 0] ++ leBytes 8 s.tai.toNat

/-- A sample goes to the ring, or is dropped: where the ring is full (R319), and where its address cannot be reached, which
the spec leaves open (log 27). -/
def State.putSample (s : State) (part : Nat) (bs : List Byte) : State :=
  let p := s.part part
  let drop (t : State) : State := t.setPart part { p with drops := p.drops + 1 }
  if (p.rhead - p.rtail).toNat = 2 ^ p.rlog2 then drop s
  else
    let at_ := (p.rbase &&& 0xFFFFFFFFFFFFF000#64) + BitVec.ofNat 64 (p.rhead.toNat % 2 ^ p.rlog2 * 32)
    match s.hwRange p.asid .wr (localAddr at_) 32 with
    | (t, .ok ps) =>
      let u := t.writePieces ps bs
      u.setPart part { u.part part with rhead := p.rhead + 1 }
    | (t, .error _) => drop t

/-- Cycles from one sample of a scheduler to the next (R316). -/
def Partition.period (p : Partition) : Nat := 2 ^ p.plog2

/-- The period of a scheduler of a partition's core that samples is over (R316; the first period starts at cycle 0, log 27). -/
def State.sampleDue (s : State) (part site sched : Nat) : Bool :=
  let p := s.part part
  p.son && p.cores.contains site && decide (lget 0 (s.core site).sampled sched + p.period ≤ s.cycle)

/-- Where a scheduler's next period begins: where the last one ended, or now if another has passed since (log 27). -/
def State.nextPeriod (s : State) (part site sched : Nat) : Nat :=
  let due := lget 0 (s.core site).sampled sched + (s.part part).period
  if s.cycle < due + (s.part part).period then due else s.cycle

/-- An issue scheduler whose period is over samples its next resident sheaf (R316, R319); the sheaf is unchanged. -/
def execProfilingSample (part : Fin 16) (site : Nat) (sched : Fin 4) (s : State) : Host.Outcome State Fault Refusal :=
  .next (
    let began (c : Core) : Core := { c with sampled := lset c.sampled sched.val (s.nextPeriod part.val site sched.val) }
    if !s.sampleDue part.val site sched.val then s
    else match s.nextSample site sched.val with
      | none => s.modCore site began
      | some (_, sh) => match s.wg sh.wg with
        | none => s.modCore site began
        | some wg =>
          (s.putSample part.val (s.sampleBytes sched.val sh wg)).modCore site
            (fun c => began { c with rotate := lset c.rotate sched.val (sh.place + 1) }))

/-! ### What the counters count (R319) -/

/-- What one step was: the word issued, if it was an issue of sheaf k, or the step of an agent. -/
structure Did where
  k : Option Nat
  word : Word
  mask : Mask
  instr : Option Instr
  deriving DecidableEq, Repr

/-- Whether the instruction of the step issued: its split is not left stalled at it. -/
def Did.issued (d : Did) (t : State) : Bool :=
  match d.k, t.cur with
  | some k, .sheaf _ j => match t.sheaf k with
    | some sh => !((sh.ctl.splits[j]?).elim false (fun x => x.tried && x.mask &&& d.mask != 0))
    | none => true
  | _, _ => false

/-- Whether the step belongs to a partition: it is of a sheaf of its workgroups. -/
def Did.inPart (d : Did) (s : State) (part : Nat) : Bool :=
  (d.k.bind s.sheaf).elim false (fun sh => (s.wg sh.wg).elim false (fun w => w.part.val == part))

/-- The sheaves of a partition before and after a step. -/
def sheafPairs (s t : State) (part : Nat) : List (Sheaf × Sheaf) :=
  s.sheaves.filterMap (fun p => match s.wg p.2.wg, t.sheaf p.1 with
    | some w, some y => if w.part.val == part then some (p.2, y) else none
    | _, _ => none)

/-- How many of a list satisfy a test. -/
def countIf {α : Type} (f : α → Bool) (l : List α) : Nat := (l.filter f).length

/-- The sheaf is in a copy's partition. -/
def CopyOp.inPart (x : CopyOp) (s : State) (part : Nat) : Bool := (s.wg x.wg).elim false (fun w => w.part.val == part)

/-- Words that a pass of 32 lanes asks of a bank (R148): distinct words of loads and stores, every word of an atomic. -/
def bankWords (l : List Acc) (bank : Nat) : Nat :=
  let keys : List (Nat × Nat × Nat) := l.flatMap (fun a => match a.place with
    | .gran site id off => (List.range ((a.size + 3) / 4)).filterMap (fun i =>
        let w := off / 4 + i
        if w % 32 == bank then
          some (site * 65536 + id.toNat, w, match a.kind with | .atom .. => a.id + 1 | _ => 0) else none)
    | _ => [])
  (keys.foldl (fun seen x => if seen.contains x then seen else x :: seen) []).length

/-- The cores whose granary a list of accesses reaches. -/
def granaryCores (l : List Acc) : List Nat :=
  l.foldl (fun seen a => match a.place with
    | .gran site _ _ => if seen.contains site then seen else site :: seen
    | _ => seen) []

/-- The accesses of a list to one core's granary. -/
def onGranary (l : List Acc) (site : Nat) : List Acc :=
  l.filter (fun a => match a.place with | .gran t _ _ => t == site | _ => false)

/-- Cycles of the granary passes of the accesses one instruction has issued (R148): each core has its own banks. -/
def passCycles (l : List Acc) : Nat :=
  let pass : List Acc → Nat := fun m => (granaryCores m).foldl (fun n c =>
    ((List.range 32).map (bankWords (onGranary m c))).foldl max n) 0
  pass (l.filter (fun a => a.lane < 32)) + pass (l.filter (fun a => 32 ≤ a.lane && a.lane < 64))

/-- A copy's bytes that have not landed. -/
def CopyOp.toLand (x : CopyOp) : Nat := (x.chunks.filter (fun c => !c.landed)).foldl (fun n c => n + c.len) 0

/-- What an engine fault changes of its sheaf. -/
def Sheaf.engineMark (sh : Sheaf) : Bool × Bool × Bool × Bool := (sh.pend.isSome, sh.engine.isSome, sh.restarting, sh.finished)

/-- How often an event happened in one step, in a partition (R319). -/
def counted (s t : State) (d : Did) (part : Nat) (e : Nat) : Nat :=
  let issued := d.inPart s part && d.issued t
  let group := d.word.getLsbD 31
  let cycles := t.cycle - s.cycle
  if e = 0x001 then cycles * (s.part part).cores.length
  else if e = 0x002 then b2n (issued && !group)
  else if e = 0x003 then b2n (issued && group)
  else if e = 0x004 then (if issued && !group then (maskLanes d.mask).length else 0)
  else if e = 0x005 then countIf (fun p => p.1.loads < p.2.loads) (sheafPairs s t part)
  else if e = 0x006 then countIf (fun p => p.1.stores < p.2.stores) (sheafPairs s t part)
  else if e = 0x007 then (if issued then passCycles (t.accs.filter (fun a => s.nextKey ≤ a.id)) else 0)
  else if e = 0x008 then (match d.instr with
    | some (.loadDataArrival id fresh) => match s.acc id with
      | some a => b2n (fresh && a.pk != .so && a.place.line.isSome && s.mayPerform a &&
          (s.sheaf a.k).elim false (fun sh => (s.wg sh.wg).elim false (fun w => w.part.val == part)))
      | none => 0
    | _ => 0)
  else if e = 0x009 then (match d.instr with
    | some (.copyChunkLand id _) => match s.copies.find? (fun x => x.id == id) with
      | some x => if x.inPart s part && !x.discard && (s.sheaf x.k).map Sheaf.engineMark == (t.sheaf x.k).map Sheaf.engineMark then
          x.toLand - ((t.copies.find? (fun y => y.id == id)).elim 0 CopyOp.toLand) else 0
      | none => 0
    | _ => 0)
  else if e = 0x00A then countIf (fun x => s.tops.all (fun y => y.id != x.id) &&
    (match x.fn with | .mma .. => true | _ => false) && (s.wg x.wg).elim false (fun w => w.part.val == part)) t.tops
  else if e = 0x00B then countIf (fun p => match p.2.pend with | some f => f.code == 0x0C && p.1.pend.isNone | none => false)
      (sheafPairs s t part)
  else if e = 0x00C then countIf (fun p => match p.2.wait with | some (.replay ..) => p.1.wait != p.2.wait | _ => false)
      (sheafPairs s t part) +
    countIf (fun x => x.inPart t part && x.stalled.isSome && s.copies.any (fun y => y.id == x.id && y.stalled.isNone)) t.copies
  else if e = 0x00D then countIf (fun p => p.1.restartCount < p.2.restartCount) (sheafPairs s t part)
  else if e = 0x00E then (match d.instr with
    | some (.qkpt _) | some (.qcontrib ..) | some (.qcontribRow ..) | some (.qarrive _) =>
      countIf (fun w => w.2.part.val == part && !w.2.killed && (t.wg w.1).elim false (fun x => x.killed)) s.wgs
    | _ => 0)
  else if 0x010 ≤ e && e < 0x010 + 24 then
    let per : Nat → Nat → Nat := fun site sched => b2n ((t.schedResidents site sched).any (fun p => t.stallCode p.2 == e - 0x010))
    (if e = 0x010 then 1 else cycles) *
      ((s.part part).cores.foldl (fun n site => n + ([0, 1, 2, 3].map (per site)).foldl (· + ·) 0) 0)
  else 0

/-- The slots of a partition after a step: those that count add what happened (R319, R320). -/
def Partition.tally (p : Partition) (f : Nat → Nat) : Partition :=
  if !p.slots.any (·.en) then p
  else { p with slots := p.slots.map (fun x =>
    if x.en && eventKnown x.event && p.allows x.event then { x with val := x.val + BitVec.ofNat 64 (f x.event.toNat) } else x) }

/-- Every partition counts what a step from s to t did. -/
def State.tally (s t : State) (d : Did) : State :=
  { t with parts := t.parts.map (fun p => (p.1, p.2.tally (counted s t d p.1))) }

/-! ### The pages (R319, R320) -/

/-- A store to a slot's word (R319). -/
def execCounterSlotWrite (part : Fin 16) (slot : Fin 16) (w : Word) (s : State) : Host.Outcome State Fault Refusal :=
  .next (s.setPart part.val ((s.part part.val).pageStore (4 * slot.val) (leBytes 4 w.toNat)))

/-- A store to a slot's `VAL` (R319). -/
def execCounterValueWrite (part : Fin 16) (slot : Fin 16) (v : DWord) (s : State) : Host.Outcome State Fault Refusal :=
  .next (s.setPart part.val ((s.part part.val).pageStore (0x80 + 8 * slot.val) (leBytes 8 v.toNat)))

/-- An 8-byte store to another field of the page (R319). -/
def execCounterPageWrite (part : Fin 16) (off : BitVec 12) (v : DWord) (s : State) : Host.Outcome State Fault Refusal :=
  .next (s.setPart part.val ((s.part part.val).pageStore off.toNat (leBytes 8 v.toNat)))

/-- The hypervisor changes an event's bit, and the mode, of its page (R320). -/
def execEventBitmapChange (part : Fin 16) (event : BitVec 12) (allow : Bool) (mode : Bool) (s : State) :
    Host.Outcome State Fault Refusal :=
  let p := s.part part.val
  let others := p.allowed.filter (fun x => x != event)
  .next (s.setPart part.val { p with allowed := if allow then event :: others else others, mode1 := mode })

/-! ### Reading (R321, R323) -/

/-- `ctrd` (R321): the count of a slot of the sheaf's partition. -/
def execCtrd (d : GDst) (slot : Fin 16) (s : State) : Host.Outcome State Fault Refusal :=
  groupAlu s [] d 2 (fun _ => match s.ctx with
    | none => 0
    | some c => (s.part c.wg.part.val).slotVal slot.val)

/-- `tsread` (R323): the TAI nanosecond count. -/
def execTsread (d : GDst) (s : State) : Host.Outcome State Fault Refusal := groupAlu s [] d 2 (fun _ => s.tai)

end Sys2Proof.Machine
end

