-- ==== Sys2Proof/Machine/Sign.lean ====
section
/-! DEFINITION. SLH-DSA-SHAKE-256f (21 R313 names it; FIPS 205 gives it: PRESUMED, log 17): n = 32, h = 68, d = 17, h' = 4, a = 9,
k = 35, 16-valued chains. -/

namespace Sys2Proof.Machine

/-! ### Bytes, addresses, the hash functions -/

/-- A number in n bytes, most significant first. -/
def beBytes (n v : Nat) : List Byte := (leBytes n v).reverse

/-- The number that bytes stand for, most significant first. -/
def beNat (l : List Byte) : Nat := leNat l.reverse

/-- n digits of b bits each, from the most significant bit of the bytes on. -/
def digits (b n : Nat) (l : List Byte) : List Nat := (List.range n).map (fun i => beNat l / 2 ^ (8 * l.length - b * (i + 1)) % 2 ^ b)

/-- A hash address: its last three words by their type's use. -/
structure Adrs where
  layer : Nat
  tree : Nat
  typ : Nat
  a : Nat
  b : Nat
  c : Nat

/-- Its 32 bytes. -/
def Adrs.bytes (x : Adrs) : List Byte :=
  beBytes 4 x.layer ++ beBytes 12 x.tree ++ beBytes 4 x.typ ++ beBytes 4 x.a ++ beBytes 4 x.b ++ beBytes 4 x.c

/-- F, H and T of a key at an address. -/
def SigKey.hash (k : SigKey) (x : Adrs) (m : List Byte) : List Byte := shakeTo 32 (k.pub ++ x.bytes ++ m)

/-- PRF: a secret value at an address. -/
def SigKey.secret (k : SigKey) (x : Adrs) : List Byte := shakeTo 32 (k.pub ++ x.bytes ++ k.seed)

/-! ### WOTS+ -/

/-- n steps of a chain from step i on. -/
def SigKey.chainOn (k : SigKey) (x : Adrs) : Nat → Nat → List Byte → List Byte
  | 0, _, v => v
  | n + 1, i, v => SigKey.chainOn k x n (i + 1) (k.hash { x with c := i } v)

/-- The start of chain i of key pair p. -/
def SigKey.chainStart (k : SigKey) (layer tree p i : Nat) : List Byte := k.secret ⟨layer, tree, 5, p, i, 0⟩

/-- The public key of key pair p. -/
def SigKey.wotsPk (k : SigKey) (layer tree p : Nat) : List Byte :=
  k.hash ⟨layer, tree, 1, p, 0, 0⟩ ((List.range 67).flatMap (fun i =>
    k.chainOn ⟨layer, tree, 0, p, i, 0⟩ 15 0 (k.chainStart layer tree p i)))

/-- The digits that a signature of 32 bytes reveals: of the message, and of the sum of what is left of each. -/
def wotsDigits (m : List Byte) : List Nat :=
  let l := digits 4 64 m
  l ++ digits 4 3 (beBytes 2 (l.foldl (fun n x => n + (15 - x)) 0 * 16))

/-- The signature by key pair p. -/
def SigKey.wotsSign (k : SigKey) (layer tree p : Nat) (m : List Byte) : List Byte :=
  (mapIdxFrom (fun i n => k.chainOn ⟨layer, tree, 0, p, i, 0⟩ n 0 (k.chainStart layer tree p i)) 0 (wotsDigits m)).flatten

/-! ### XMSS trees and the hypertree -/

/-- Node i at height z of a tree. -/
def SigKey.node (k : SigKey) (layer tree : Nat) : Nat → Nat → List Byte
  | 0, i => k.wotsPk layer tree i
  | z + 1, i => k.hash ⟨layer, tree, 2, 0, z + 1, i⟩ (SigKey.node k layer tree z (2 * i) ++ SigKey.node k layer tree z (2 * i + 1))

/-- The sibling of a number. -/
def sibling (n : Nat) : Nat := if n % 2 = 0 then n + 1 else n - 1

/-- The signature by leaf p of a tree: of its key pair, and the path to the root. -/
def SigKey.xmssSign (k : SigKey) (layer tree p : Nat) (m : List Byte) : List Byte :=
  k.wotsSign layer tree p m ++ (List.range 4).flatMap (fun j => k.node layer tree j (sibling (p / 2 ^ j)))

/-- The signatures of the layers from one on, each of the root of the one below. -/
def SigKey.layers (k : SigKey) : Nat → Nat → Nat → Nat → List Byte → List Byte
  | 0, _, _, _, _ => []
  | n + 1, layer, tree, leaf, m =>
    k.xmssSign layer tree leaf m ++ SigKey.layers k n (layer + 1) (tree / 16) (tree % 16) (k.node layer tree 4 0)

/-- The public root. -/
def SigKey.root (k : SigKey) : List Byte := k.node 16 0 4 0

/-! ### FORS -/

/-- Node i at height z of the trees of a leaf. -/
def SigKey.forsNode (k : SigKey) (tree leaf : Nat) : Nat → Nat → List Byte
  | 0, i => k.hash ⟨0, tree, 3, leaf, 0, i⟩ (k.secret ⟨0, tree, 6, leaf, 0, i⟩)
  | z + 1, i => k.hash ⟨0, tree, 3, leaf, z + 1, i⟩ (SigKey.forsNode k tree leaf z (2 * i) ++ SigKey.forsNode k tree leaf z (2 * i + 1))

/-- What tree i of a leaf reveals of digit n: its secret value and the path. -/
def SigKey.forsTree (k : SigKey) (tree leaf i n : Nat) : List Byte :=
  k.secret ⟨0, tree, 6, leaf, 0, i * 512 + n⟩ ++
    (List.range 9).flatMap (fun j => k.forsNode tree leaf j (i * 2 ^ (9 - j) + sibling (n / 2 ^ j)))

/-- The public key of a leaf's trees. -/
def SigKey.forsPk (k : SigKey) (tree leaf : Nat) : List Byte :=
  k.hash ⟨0, tree, 4, leaf, 0, 0⟩ ((List.range 35).flatMap (fun i => k.forsNode tree leaf 9 i))

/-! ### Signing -/

/-- The signature of a message with the empty context string and a random string of 32 bytes: 49,856 bytes. -/
def SigKey.sign (k : SigKey) (random msg : List Byte) : List Byte :=
  let m := [0, 0] ++ msg
  let r := shakeTo 32 (k.prf ++ random ++ m)
  let d := shakeTo 49 (r ++ k.pub ++ k.root ++ m)
  let tree := beNat ((d.drop 40).take 8)
  let leaf := beNat (d.drop 48) % 16
  r ++ (mapIdxFrom (fun i n => k.forsTree tree leaf i n) 0 (digits 9 35 (d.take 40))).flatten ++
    k.layers 17 0 tree leaf (k.forsPk tree leaf)

end Sys2Proof.Machine
end

