-- ==== Sys2Proof/Machine/Receipts.lean ====
section
/-! DEFINITION. Commands to firmware (21 R309), receipts (21 R311 to R313), attestation (21 R315), code objects in the chain (21
R310). -/

namespace Sys2Proof.Machine

/-! ### Command queues (R309) -/

/-- The command record at the head of a partition's command queue, when one can be popped: queue, index, words. -/
def State.commandHead (s : State) (p : Fin 16) : Option (Nat × Queue × List Word) :=
  let x := s.part p.val
  if s.firmware.hold || x.request.isSome then none
  else match (s.mapQueue p 0 true).2 with
    | none => none
    | some k => match kget s.queues k with
      | none => none
      | some q => if q.state == .opened && q.whole then some (k, q, s.headRecord q) else none

/-- `TAG` of a command record, none for a record that no command processor serves (R309). -/
def commandTag (ws : List Word) : Option Nat :=
  let tag := (lget 0 ws 1).toNat
  if (lget 0 ws 0).extractLsb' 0 16 != 0 then none
  else if tag == 0x10 || tag == 0x11 then some tag
  else none

/-- A record with another `TAG` or `KIND`, or a nonzero header [15:8], puts the command queue in ERROR (R309). -/
def execCommandRecordReject (part : Fin 16) (s : State) : Host.Outcome State Fault Refusal :=
  .next (match s.commandHead part with
    | some (k, q, ws) =>
      if (commandTag ws).isNone then s.setQueue k (q.take.fail q.head) else s
    | none => s)

/-- A command's future is written POISONED with a code (R312). -/
def State.poisonDone (s : State) (p : Fin 16) (asid : BitVec 16) (done : DWord) (code : Nat) : State :=
  (s.hwFuture p asid done (futPoison code) (futPoison code)).1

/-- A command's future is written FULL with a length (R312, R315). -/
def State.fillDone (s : State) (p : Fin 16) (asid : BitVec 16) (done : DWord) (len : Nat) : State :=
  (s.hwFuture p asid done (futFull (BitVec.ofNat 64 len)) (BitVec.ofNat 64 len)).1

/-- Whether a future word can be read and written. -/
def State.futureOk (s : State) (asid : BitVec 16) (p : DWord) : Bool :=
  p.toNat % 8 == 0 && (match (s.hwShort asid .wr true p 8).2 with | .ok _ => true | .error _ => false)

/-- Bytes written at a local address; where a part cannot be written, what went before is undefined (R312). -/
def State.hwWrite (s : State) (asid : BitVec 16) (p : DWord) (bs : List Byte) : State × Option Nat :=
  match s.hwRange asid .wr (localAddr p) bs.length with
  | (t, .ok ps) => (t.writePieces ps bs, none)
  | (t, .error code) =>
    let n := 65536 - p.toNat % 65536
    match t.hwRange asid .wr (localAddr p) (min n bs.length) with
    | (u, .ok ps) => (u.writePieces ps ((List.range (min n bs.length)).map (Config.brokenByte u.free)), some code)
    | (u, .error _) => (u, some code)

/-! ### Receipts (R311 to R313) -/

/-- A 64-bit field of bytes. -/
def dwordIn (bs : List Byte) (off : Nat) : DWord := leDWord ((bs.drop off).take 8)

/-- `NRES`. -/
def nresOf (bs : List Byte) : Nat := leNat (bs.take 2)

/-- The checks of step 1 that poison `DONE` (R312). -/
def requestFault (block : DWord) (bs : List Byte) : Option Nat :=
  let waitf := dwordIn bs 8
  if block.toNat % 16 != 0 || (dwordIn bs 0x10).toNat % 64 != 0 || (waitf != 0 && waitf.toNat % 8 != 0) then some 0x07
  else if leNat ((bs.drop 2).take 6) != 0 || 8 < nresOf bs ||
      (List.range (nresOf bs)).any (fun i =>
        let n := (dwordIn bs (0x38 + 16 * i)).toNat
        n == 0 || 2 ^ 40 < n) then some 0x02
  else none

/-- Step 3 (R312): the digests of the result buffers, each with its chain record. -/
def State.hashBuffers (s : State) (p : Fin 16) (asid : BitVec 16) (bs : List Byte) : Nat → Nat → State × Except Nat (List Byte)
  | _, 0 => (s, .ok [])
  | i, n + 1 =>
    match s.hwBytes asid (dwordIn bs (0x30 + 16 * i)) (dwordIn bs (0x38 + 16 * i)).toNat with
    | (t, .error c) => (t, .error c)
    | (t, .ok obj) =>
      match State.hashBuffers (t.chain p asid 3 obj) p asid bs (i + 1) n with
      | (u, .error c) => (u, .error c)
      | (u, .ok l) => (u, .ok (shake256 obj ++ l))

/-- The body of a receipt (R313). -/
def receiptBody (s : State) (c : Context) (bs digests : List Byte) : List Byte :=
  leBytes 2 1 ++ leBytes 2 (nresOf bs) ++
  leBytes 4 (c.joins.length % 2 ^ 16 + b2n c.norep.isSome * 2 ^ 16 + b2n c.hov * 2 ^ 17) ++
  leBytes 8 s.devid.toNat ++ leBytes 8 c.ctxid.toNat ++ leBytes 8 (c.seq + 1).toNat ++ leBytes 8 s.tai.toNat ++
  leBytes 8 (c.norep.getD 0xFFFFFFFFFFFFFFFF).toNat ++ (bs.drop 0x20).take 16 ++ s.firmware.fwm ++ c.chain ++ digests ++
  c.joins.flatten

/-- The security core's signature over a message (R313; log 17). -/
def State.signature (s : State) (msg : List Byte) : List Byte :=
  s.firmware.idKey.sign ((List.range 32).map (Config.signRandom s.free)) msg

/-- Steps 3 to 5 of a receipt (R312). -/
def State.finishReceipt (s : State) (p : Fin 16) (asid : BitVec 16) (bs : List Byte) : State :=
  let done := dwordIn bs 0x18
  match (s.openCtx p asid).hashBuffers p asid bs 0 (nresOf bs) with
  | (t, .error code) => t.poisonDone p asid done code
  | (t, .ok digests) =>
    match t.context p asid with
    | none => t
    | some c =>
      let body := receiptBody t c bs digests
      match t.hwWrite asid (dwordIn bs 0x10) (body ++ t.signature body) with
      | (u, some code) => u.poisonDone p asid done code
      | (u, none) => (u.modCtx p asid (fun x => { x with seq := x.seq + 1, joins := [] })).fillDone p asid done
          (body.length + Config.signatureBytes)

/-- Step 2 (R312): the named completion, then the rest; or the request waits. -/
def State.serveReceipt (s : State) (p : Fin 16) (r : Request) : State :=
  let done := dwordIn r.bytes 0x18
  let waitf := dwordIn r.bytes 8
  if waitf = 0 then s.finishReceipt p r.asid r.bytes
  else match s.hwShort r.asid .rd true waitf 8 with
    | (t, .error code) => t.poisonDone p r.asid done code
    | (t, .ok ps) =>
      let w := leDWord (t.sliceBytes ps)
      match futState w with
      | 0 => t.setPart p.val { t.part p.val with request := some r }
      | 1 => t.finishReceipt p r.asid r.bytes
      | 2 => t.poisonDone p r.asid done (w.extractLsb' 2 62).toNat
      | _ => t.poisonDone p r.asid done 0x02

/-- A command processor takes a receipt request (R312). -/
def execReceiptRequest (part : Fin 16) (s : State) : Host.Outcome State Fault Refusal :=
  .next (match s.commandHead part with
    | none => s
    | some (k, q, ws) =>
      if commandTag ws != some 0x10 then s
      else
        let asid := (s.part part.val).asid
        let block := dwordAt ws 2
        match s.hwBytes asid block 176 with
        | (t, .error _) => t.setQueue k (q.take.fail q.head)
        | (t, .ok bs) =>
          if !t.futureOk asid (dwordIn bs 0x18) then t.setQueue k (q.take.fail q.head)
          else
            let u := t.setQueue k (q.take.complete q.head)
            match requestFault block bs with
            | some code => u.poisonDone part asid (dwordIn bs 0x18) code
            | none => u.serveReceipt part ⟨block, asid, bs⟩)

/-- A waiting request's future is no longer EMPTY (R312, step 2). -/
def execReceiptResume (part : Fin 16) (s : State) : Host.Outcome State Fault Refusal :=
  .next (match (s.part part.val).request with
    | none => s
    | some r => (s.setPart part.val { s.part part.val with request := none }).serveReceipt part r)

/-! ### Attestation (R315) -/

/-- The report before its signature (R315). -/
def reportBody (s : State) (nonce : List Byte) : List Byte :=
  let f := s.firmware
  leBytes 4 (1 + b2n f.hrec * 2 ^ 16) ++ leBytes 4 0 ++ leBytes 8 s.devid.toNat ++ leBytes 8 s.tai.toNat ++
  leBytes 8 (if f.hrec then f.htime.toNat else 0) ++ nonce ++ f.fwm ++
  (if f.hrec then f.hfwm else List.replicate 64 0) ++ List.replicate 16 0

/-- A command processor answers an attestation request (R315); a block or a `DONE` that cannot be used is met as in R312. -/
def execAttestationRequest (part : Fin 16) (s : State) : Host.Outcome State Fault Refusal :=
  .next (match s.commandHead part with
    | none => s
    | some (k, q, ws) =>
      if commandTag ws != some 0x11 then s
      else
        let asid := (s.part part.val).asid
        match s.hwBytes asid (dwordAt ws 2) 48 with
        | (t, .error _) => t.setQueue k (q.take.fail q.head)
        | (t, .ok bs) =>
          if !t.futureOk asid (dwordIn bs 8) then t.setQueue k (q.take.fail q.head)
          else
            let u := t.setQueue k (q.take.complete q.head)
            let body := reportBody u (bs.drop 0x10)
            match u.hwWrite asid (dwordIn bs 0) (body ++ u.signature body) with
            | (v, some code) => v.poisonDone part asid (dwordIn bs 8) code
            | (v, none) => v.fillDone part asid (dwordIn bs 8) (body.length + Config.signatureBytes))

/-! ### Code objects (R310) -/

/-- A code object is loaded: its TYPE 1 record is appended before it can be fetched; one that cannot be read is not loaded (R310). -/
def execCodeObjectLoad (part : Fin 16) (asid : BitVec 16) (base : BitVec 64) (len : Nat) (s : State) :
    Host.Outcome State Fault Refusal :=
  .next (if s.firmware.hold then s
    else match s.hwBytes asid base len with
      | (t, .ok obj) => { t.chain part asid 1 obj with code := (asid, base, len) :: t.code }
      | (t, .error _) => t)

end Sys2Proof.Machine
end

