-- ==== Sys2Proof/Machine/Dispatch.lean ====
section
/-! DEFINITION. The meaning of every instruction and step: one arm for each constructor of `Instr`. -/

namespace Sys2Proof.Machine

/-- One instruction, or one step of the opcode table, carried out. -/
def exec (i : Instr) (s : State) : Host.Outcome State Fault Refusal :=
  match i with
  | .addR ty sat d a b => Sys2Proof.Machine.execAddR ty sat d a b s
  | .addI32 d a imm => Sys2Proof.Machine.execAddI32 d a imm s
  | .addI64 d a imm => Sys2Proof.Machine.execAddI64 d a imm s
  | .subR ty sat d a b => Sys2Proof.Machine.execSubR ty sat d a b s
  | .mulR ty sat d a b => Sys2Proof.Machine.execMulR ty sat d a b s
  | .mulhi ty d a b => Sys2Proof.Machine.execMulhi ty d a b s
  | .mad ty sat a b c => Sys2Proof.Machine.execMad ty sat a b c s
  | .divInt ty sat d a b => Sys2Proof.Machine.execDivInt ty sat d a b s
  | .rem ty d a b => Sys2Proof.Machine.execRem ty d a b s
  | .minInt ty d a b => Sys2Proof.Machine.execMinInt ty d a b s
  | .maxInt ty d a b => Sys2Proof.Machine.execMaxInt ty d a b s
  | .cmpSigned rel w64 d a b => Sys2Proof.Machine.execCmpSigned rel w64 d a b s
  | .cmpUnsigned rel w64 d a b => Sys2Proof.Machine.execCmpUnsigned rel w64 d a b s
  | .andR w64 d a b => Sys2Proof.Machine.execAndR w64 d a b s
  | .orR w64 d a b => Sys2Proof.Machine.execOrR w64 d a b s
  | .xorR w64 d a b => Sys2Proof.Machine.execXorR w64 d a b s
  | .andI d a imm => Sys2Proof.Machine.execAndI d a imm s
  | .orI d a imm => Sys2Proof.Machine.execOrI d a imm s
  | .xorI d a imm => Sys2Proof.Machine.execXorI d a imm s
  | .shlR w64 d a b => Sys2Proof.Machine.execShlR w64 d a b s
  | .shrR w64 d a b => Sys2Proof.Machine.execShrR w64 d a b s
  | .sarR w64 d a b => Sys2Proof.Machine.execSarR w64 d a b s
  | .shlI w64 d a c => Sys2Proof.Machine.execShlI w64 d a c s
  | .shrI w64 d a c => Sys2Proof.Machine.execShrI w64 d a c s
  | .sarI w64 d a c => Sys2Proof.Machine.execSarI w64 d a c s
  | .bfx sx a pos len => Sys2Proof.Machine.execBfx sx a pos len s
  | .bfi base ins ctl => Sys2Proof.Machine.execBfi base ins ctl s
  | .bit op w64 d a => Sys2Proof.Machine.execBit op w64 d a s
  | .sel c a b => Sys2Proof.Machine.execSel c a b s
  | .movl d imm => Sys2Proof.Machine.execMovl d imm s
  | .movs d imm => Sys2Proof.Machine.execMovs d imm s
  | .movt d imm => Sys2Proof.Machine.execMovt d imm s
  | .nget d ix => Sys2Proof.Machine.execNget d ix s
  | .nset ix v => Sys2Proof.Machine.execNset ix v s
  | .fadd ty rnd d a b => Sys2Proof.Machine.execFadd ty rnd d a b s
  | .fsub ty rnd d a b => Sys2Proof.Machine.execFsub ty rnd d a b s
  | .fmul ty rnd d a b => Sys2Proof.Machine.execFmul ty rnd d a b s
  | .fdiv ty rnd d a b => Sys2Proof.Machine.execFdiv ty rnd d a b s
  | .fma f16 rnd a b c => Sys2Proof.Machine.execFma f16 rnd a b c s
  | .fmin ty d a b => Sys2Proof.Machine.execFmin ty d a b s
  | .fmax ty d a b => Sys2Proof.Machine.execFmax ty d a b s
  | .fcmp rel f16 d a b => Sys2Proof.Machine.execFcmp rel f16 d a b s
  | .abs ty d a spare => Sys2Proof.Machine.execAbs ty d a spare s
  | .neg ty d a spare => Sys2Proof.Machine.execNeg ty d a spare s
  | .csgn ty d a b => Sys2Proof.Machine.execCsgn ty d a b s
  | .rcp rnd d a spare => Sys2Proof.Machine.execRcp rnd d a spare s
  | .rsqrt rnd d a spare => Sys2Proof.Machine.execRsqrt rnd d a spare s
  | .sqrt rnd d a spare => Sys2Proof.Machine.execSqrt rnd d a spare s
  | .exp2 rnd d a spare => Sys2Proof.Machine.execExp2 rnd d a spare s
  | .log2 rnd d a spare => Sys2Proof.Machine.execLog2 rnd d a spare s
  | .class ty d a => Sys2Proof.Machine.execClass ty d a s
  | .cvt dt st rnd sat d a => Sys2Proof.Machine.execCvt dt st rnd sat d a s
  | .pack w d a b => Sys2Proof.Machine.execPack w d a b s
  | .unpk w sx d a b => Sys2Proof.Machine.execUnpk w sx d a b s
  | .dot ty a b c => Sys2Proof.Machine.execDot ty a b c s
  | .scale rnd d a b => Sys2Proof.Machine.execScale rnd d a b s
  | .laneid d => Sys2Proof.Machine.execLaneid d s
  | .lmask cond w64 d a => Sys2Proof.Machine.execLmask cond w64 d a s
  | .lcount cond w64 d a => Sys2Proof.Machine.execLcount cond w64 d a s
  | .lrank cond w64 d a => Sys2Proof.Machine.execLrank cond w64 d a s
  | .lpullR mode d a b => Sys2Proof.Machine.execLpullR mode d a b s
  | .lpullI mode d a v => Sys2Proof.Machine.execLpullI mode d a v s
  | .lred op uns d a spare => Sys2Proof.Machine.execLred op uns d a spare s
  | .ldI8 d m => Sys2Proof.Machine.execLdI8 d m s
  | .ldFp8 d m => Sys2Proof.Machine.execLdFp8 d m s
  | .ldH16 d m => Sys2Proof.Machine.execLdH16 d m s
  | .ldW32 d m => Sys2Proof.Machine.execLdW32 d m s
  | .ldD64 d m => Sys2Proof.Machine.execLdD64 d m s
  | .ldq d m => Sys2Proof.Machine.execLdq d m s
  | .stB8 v m => Sys2Proof.Machine.execStB8 v m s
  | .stH16 v m => Sys2Proof.Machine.execStH16 v m s
  | .stW32 v m => Sys2Proof.Machine.execStW32 v m s
  | .stD64 v m => Sys2Proof.Machine.execStD64 v m s
  | .stq v m => Sys2Proof.Machine.execStq v m s
  | .ldOrdered w64 d m => Sys2Proof.Machine.execLdOrdered w64 d m s
  | .stOrdered w64 v m => Sys2Proof.Machine.execStOrdered w64 v m s
  | .atom32 op v m => Sys2Proof.Machine.execAtom32 op v m s
  | .atom64 op v m => Sys2Proof.Machine.execAtom64 op v m s
  | .xchg w64 v m => Sys2Proof.Machine.execXchg w64 v m s
  | .cas w64 c m => Sys2Proof.Machine.execCas w64 c m s
  | .fence ord scope => Sys2Proof.Machine.execFence ord scope s
  | .mma r a bg f reuse zero => Sys2Proof.Machine.execMma r a bg f reuse zero s
  | .accz r f => Sys2Proof.Machine.execAccz r f s
  | .accrd r d col f sat => Sys2Proof.Machine.execAccrd r d col f sat s
  | .accwr r src col f => Sys2Proof.Machine.execAccwr r src col f s
  | .gAddR ty sat d a b => Sys2Proof.Machine.execGAddR ty sat d a b s
  | .gAddI d a imm => Sys2Proof.Machine.execGAddI d a imm s
  | .gSub ty sat d a b => Sys2Proof.Machine.execGSub ty sat d a b s
  | .gMul ty sat d a b => Sys2Proof.Machine.execGMul ty sat d a b s
  | .gMulhi ty d a b => Sys2Proof.Machine.execGMulhi ty d a b s
  | .gMin ty d a b => Sys2Proof.Machine.execGMin ty d a b s
  | .gMax ty d a b => Sys2Proof.Machine.execGMax ty d a b s
  | .gCmp rel uns w64 d a b => Sys2Proof.Machine.execGCmp rel uns w64 d a b s
  | .gAndR w64 d a b => Sys2Proof.Machine.execGAndR w64 d a b s
  | .gOrR w64 d a b => Sys2Proof.Machine.execGOrR w64 d a b s
  | .gXorR w64 d a b => Sys2Proof.Machine.execGXorR w64 d a b s
  | .gAndI d a imm => Sys2Proof.Machine.execGAndI d a imm s
  | .gOrI d a imm => Sys2Proof.Machine.execGOrI d a imm s
  | .gXorI d a imm => Sys2Proof.Machine.execGXorI d a imm s
  | .gShlR w64 d a b => Sys2Proof.Machine.execGShlR w64 d a b s
  | .gShrR w64 d a b => Sys2Proof.Machine.execGShrR w64 d a b s
  | .gSarR w64 d a b => Sys2Proof.Machine.execGSarR w64 d a b s
  | .gShlI w64 d a c => Sys2Proof.Machine.execGShlI w64 d a c s
  | .gShrI w64 d a c => Sys2Proof.Machine.execGShrI w64 d a c s
  | .gSarI w64 d a c => Sys2Proof.Machine.execGSarI w64 d a c s
  | .gBit op w64 d a => Sys2Proof.Machine.execGBit op w64 d a s
  | .gBfx sx d a ctl => Sys2Proof.Machine.execGBfx sx d a ctl s
  | .gMov d a => Sys2Proof.Machine.execGMov d a s
  | .gMovl d imm => Sys2Proof.Machine.execGMovl d imm s
  | .gMovs d imm => Sys2Proof.Machine.execGMovs d imm s
  | .gMovt d imm => Sys2Proof.Machine.execGMovt d imm s
  | .rdlane d a ix => Sys2Proof.Machine.execRdlane d a ix s
  | .rdfirst d a => Sys2Proof.Machine.execRdfirst d a s
  | .amask d => Sys2Proof.Machine.execAmask d s
  | .br off => Sys2Proof.Machine.execBr off s
  | .bz c off => Sys2Proof.Machine.execBz c off s
  | .bnz c off => Sys2Proof.Machine.execBnz c off s
  | .call off => Sys2Proof.Machine.execCall off s
  | .ret => Sys2Proof.Machine.execRet s
  | .jmp p => Sys2Proof.Machine.execJmp p s
  | .brl c off => Sys2Proof.Machine.execBrl c off s
  | .brlz c off => Sys2Proof.Machine.execBrlz c off s
  | .merge => Sys2Proof.Machine.execMerge s
  | .exit => Sys2Proof.Machine.execExit s
  | .nop => Sys2Proof.Machine.execNop s
  | .waitc lds sts cps tls => Sys2Proof.Machine.execWaitc lds sts cps tls s
  | .barWg => Sys2Proof.Machine.execBarWg s
  | .barGg => Sys2Proof.Machine.execBarGg s
  | .yield => Sys2Proof.Machine.execYield s
  | .sleep n => Sys2Proof.Machine.execSleep n s
  | .tmset p => Sys2Proof.Machine.execTmset p s
  | .watch scope seg p e => Sys2Proof.Machine.execWatch scope seg p e s
  | .await seg p gen => Sys2Proof.Machine.execAwait seg p gen s
  | .copy desc arr seg => Sys2Proof.Machine.execCopy desc arr seg s
  | .copyNa desc => Sys2Proof.Machine.execCopyNa desc s
  | .copy2d desc arr seg => Sys2Proof.Machine.execCopy2d desc arr seg s
  | .copy2dNa desc => Sys2Proof.Machine.execCopy2dNa desc s
  | .mcast desc m => Sys2Proof.Machine.execMcast desc m s
  | .cred op desc id => Sys2Proof.Machine.execCred op desc id s
  | .mfence => Sys2Proof.Machine.execMfence s
  | .mlease t => Sys2Proof.Machine.execMlease t s
  | .mpass t => Sys2Proof.Machine.execMpass t s
  | .mfree t => Sys2Proof.Machine.execMfree t s
  | .qbind push port id => Sys2Proof.Machine.execQbind push port id s
  | .qpopRec d port => Sys2Proof.Machine.execQpopRec d port s
  | .qpushRec a port => Sys2Proof.Machine.execQpushRec a port s
  | .qunbind port => Sys2Proof.Machine.execQunbind port s
  | .spawn p => Sys2Proof.Machine.execSpawn p s
  | .depset p c => Sys2Proof.Machine.execDepset p c s
  | .depdec p => Sys2Proof.Machine.execDepdec p s
  | .fread d p c => Sys2Proof.Machine.execFread d p c s
  | .fwrite d p v => Sys2Proof.Machine.execFwrite d p v s
  | .jbind j p w => Sys2Proof.Machine.execJbind j p w s
  | .qcontrib j a e => Sys2Proof.Machine.execQcontrib j a e s
  | .qcontribRow j ctl e => Sys2Proof.Machine.execQcontribRow j ctl e s
  | .qarrive j => Sys2Proof.Machine.execQarrive j s
  | .qkpt j => Sys2Proof.Machine.execQkpt j s
  | .qwait j => Sys2Proof.Machine.execQwait j s
  | .setsegBase seg x => Sys2Proof.Machine.execSetsegBase seg x s
  | .setsegLast seg x => Sys2Proof.Machine.execSetsegLast seg x s
  | .setsegHi seg x => Sys2Proof.Machine.execSetsegHi seg x s
  | .setsegClr seg => Sys2Proof.Machine.execSetsegClr seg s
  | .getseg part seg d => Sys2Proof.Machine.execGetseg part seg d s
  | .grant d ctl attr => Sys2Proof.Machine.execGrant d ctl attr s
  | .grantRelight d ctl attr => Sys2Proof.Machine.execGrantRelight d ctl attr s
  | .gfree a => Sys2Proof.Machine.execGfree a s
  | .grank a r => Sys2Proof.Machine.execGrank a r s
  | .shadow a => Sys2Proof.Machine.execShadow a s
  | .gstatLevel d => Sys2Proof.Machine.execGstatLevel d s
  | .gstatAlloc d a => Sys2Proof.Machine.execGstatAlloc d a s
  | .lret => Sys2Proof.Machine.execLret s
  | .tsread d => Sys2Proof.Machine.execTsread d s
  | .ctrd d slot => Sys2Proof.Machine.execCtrd d slot s
  | .trap c => Sys2Proof.Machine.execTrap c s
  | .syscall c => Sys2Proof.Machine.execSyscall c s
  | .brk c => Sys2Proof.Machine.execBrk c s
  | .tret => Sys2Proof.Machine.execTret s
  | .rgnBegin => Sys2Proof.Machine.execRgnBegin s
  | .rgnEnd => Sys2Proof.Machine.execRgnEnd s
  | .qfrd d k => Sys2Proof.Machine.execQfrd d k s
  | .saveopq p seg => Sys2Proof.Machine.execSaveopq p seg s
  | .loadopq p seg => Sys2Proof.Machine.execLoadopq p seg s
  | .enter a => Sys2Proof.Machine.execEnter a s
  | .leave => Sys2Proof.Machine.execLeave s
  | .ringf rd rs1 rs2 => Sys2Proof.Machine.execRingf rd rs1 rs2 s
  | .bfe rd rs1 rs2 => Sys2Proof.Machine.execBfe rd rs1 rs2 s
  | .sigw rd rs1 => Sys2Proof.Machine.execSigw rd rs1 s
  | .disp rd rs1 rs2 => Sys2Proof.Machine.execDisp rd rs1 rs2 s
  | .wordNotInstruction w => Sys2Proof.Machine.execWordNotInstruction w s
  | .loadDataArrival acc fresh => Sys2Proof.Machine.execLoadDataArrival acc fresh s
  | .storePerform acc => Sys2Proof.Machine.execStorePerform acc s
  | .atomicPerform acc => Sys2Proof.Machine.execAtomicPerform acc s
  | .lightFaultService asid va write => Sys2Proof.Machine.execLightFaultService asid va write s
  | .trapEntry k => Sys2Proof.Machine.execTrapEntry k s
  | .sheafEnd k => Sys2Proof.Machine.execSheafEnd k s
  | .workgroupPlacement part => Sys2Proof.Machine.execWorkgroupPlacement part s
  | .waitEviction part => Sys2Proof.Machine.execWaitEviction part s
  | .queuePortDeschedule k => Sys2Proof.Machine.execQueuePortDeschedule k s
  | .starvationGuard k group => Sys2Proof.Machine.execStarvationGuard k group s
  | .sleepWake k => Sys2Proof.Machine.execSleepWake k s
  | .timerTrap k => Sys2Proof.Machine.execTimerTrap k s
  | .watchReread k => Sys2Proof.Machine.execWatchReread k s
  | .awaitReread k => Sys2Proof.Machine.execAwaitReread k s
  | .levelNotice die level => Sys2Proof.Machine.execLevelNotice die level s
  | .levelRise die level => Sys2Proof.Machine.execLevelRise die level s
  | .lossPoint die => Sys2Proof.Machine.execLossPoint die s
  | .siloRetirement site => Sys2Proof.Machine.execSiloRetirement site s
  | .granuleUncorrectable site id => Sys2Proof.Machine.execGranuleUncorrectable site id s
  | .engineFault op code => Sys2Proof.Machine.execEngineFault op code s
  | .regionRestart k => Sys2Proof.Machine.execRegionRestart k s
  | .copyChunkLand id chunk => Sys2Proof.Machine.execCopyChunkLand id chunk s
  | .tileOperationComplete id => Sys2Proof.Machine.execTileOperationComplete id s
  | .shadowWritebackComplete site id => Sys2Proof.Machine.execShadowWritebackComplete site id s
  | .pushWindowBell app queue => Sys2Proof.Machine.execPushWindowBell app queue s
  | .feed part id records => Sys2Proof.Machine.execFeed part id records s
  | .taskRecordPop queue => Sys2Proof.Machine.execTaskRecordPop queue s
  | .launchRecordPop queue => Sys2Proof.Machine.execLaunchRecordPop queue s
  | .taskCompletion wg => Sys2Proof.Machine.execTaskCompletion wg s
  | .taskRequeue wg => Sys2Proof.Machine.execTaskRequeue wg s
  | .queueCreate queue ring log2 part owner dispatch => Sys2Proof.Machine.execQueueCreate queue ring log2 part owner dispatch s
  | .queueDestroy queue => Sys2Proof.Machine.execQueueDestroy queue s
  | .queueDead queue => Sys2Proof.Machine.execQueueDead queue s
  | .queueReset queue => Sys2Proof.Machine.execQueueReset queue s
  | .queueUnmap part id => Sys2Proof.Machine.execQueueUnmap part id s
  | .joinFinalise j => Sys2Proof.Machine.execJoinFinalise j s
  | .condemnedFlag j index => Sys2Proof.Machine.execCondemnedFlag j index s
  | .routeRecompute die site => Sys2Proof.Machine.execRouteRecompute die site s
  | .shootDown asid lo hi => Sys2Proof.Machine.execShootDown asid lo hi s
  | .shootDownAck id holder => Sys2Proof.Machine.execShootDownAck id holder s
  | .linkPortFailure port => Sys2Proof.Machine.execLinkPortFailure port s
  | .partitionReset part => Sys2Proof.Machine.execPartitionReset part s
  | .rdmaOperation port asid va op => Sys2Proof.Machine.execRdmaOperation port asid va op s
  | .ethernetFailover port => Sys2Proof.Machine.execEthernetFailover port s
  | .ptpCorrection ns => Sys2Proof.Machine.execPtpCorrection ns s
  | .nvmeAttach slot cls => Sys2Proof.Machine.execNvmeAttach slot cls s
  | .functionReady f => Sys2Proof.Machine.execFunctionReady f s
  | .budgetChange watts levels clock => Sys2Proof.Machine.execBudgetChange watts levels clock s
  | .coreRetirement site => Sys2Proof.Machine.execCoreRetirement site s
  | .frameRetirement stack frame spare => Sys2Proof.Machine.execFrameRetirement stack frame spare s
  | .hbmUncorrectable k frame => Sys2Proof.Machine.execHbmUncorrectable k frame s
  | .firmwareProcessorFailure p => Sys2Proof.Machine.execFirmwareProcessorFailure p s
  | .spatialPreemption part n => Sys2Proof.Machine.execSpatialPreemption part n s
  | .preemptionRequest k => Sys2Proof.Machine.execPreemptionRequest k s
  | .timeSliceExpiry k => Sys2Proof.Machine.execTimeSliceExpiry k s
  | .commandRecordReject part => Sys2Proof.Machine.execCommandRecordReject part s
  | .receiptRequest part => Sys2Proof.Machine.execReceiptRequest part s
  | .receiptResume part => Sys2Proof.Machine.execReceiptResume part s
  | .attestationRequest part => Sys2Proof.Machine.execAttestationRequest part s
  | .codeObjectLoad part asid base len => Sys2Proof.Machine.execCodeObjectLoad part asid base len s
  | .firmwareLoad image => Sys2Proof.Machine.execFirmwareLoad image s
  | .holdPoint => Sys2Proof.Machine.execHoldPoint s
  | .commitPoint => Sys2Proof.Machine.execCommitPoint s
  | .handoverAbort => Sys2Proof.Machine.execHandoverAbort s
  | .profilingSample part site sched => Sys2Proof.Machine.execProfilingSample part site sched s
  | .counterSlotWrite part slot w => Sys2Proof.Machine.execCounterSlotWrite part slot w s
  | .counterValueWrite part slot v => Sys2Proof.Machine.execCounterValueWrite part slot v s
  | .counterPageWrite part off v => Sys2Proof.Machine.execCounterPageWrite part off v s
  | .eventBitmapChange part event allow mode => Sys2Proof.Machine.execEventBitmapChange part event allow mode s
  | .debuggerHalt k => Sys2Proof.Machine.execDebuggerHalt k s
  | .debuggerResume k => Sys2Proof.Machine.execDebuggerResume k s
  | .applicationCoreAccess core asid va op => Sys2Proof.Machine.execApplicationCoreAccess core asid va op s
  | .podRequestArrival dev pid va op => Sys2Proof.Machine.execPodRequestArrival dev pid va op s
  | .nvmeDma slot asid va op => Sys2Proof.Machine.execNvmeDma slot asid va op s
  | .memoryProcessorHandover => Sys2Proof.Machine.execMemoryProcessorHandover s
  | .applicationCoreFailure core => Sys2Proof.Machine.execApplicationCoreFailure core s
  | .relocationComplete site => Sys2Proof.Machine.execRelocationComplete site s
  | .routeTableWrite dev ports => Sys2Proof.Machine.execRouteTableWrite dev ports s

end Sys2Proof.Machine
end

