-- ==== Sys2Proof/Machine/Load.lean ====
section
/-! DEFINITION. A smallest program put in from outside the machine, for `State.withFetchWord` (log 3): page tables, a code page,
a data page, and one placed sheaf at its entry. -/

namespace Sys2Proof.Machine

/-- The address space of the program. -/
def loadAsid : BitVec 16 := 0xFFFF
/-- The physical address of its root table; its other tables follow, a table each 64 KiB. -/
def loadRoot : Nat := 0x10000
/-- The virtual address of its code page. -/
def loadEntry : DWord := 0x10000

/-- Its tables (R135, R136): virtual page 0 is data, readable and writable, page 1 is code; both are served. -/
def loadTables (m : Memory) : Memory :=
  let put : Memory → Nat → Nat → Memory := fun m a e => m.write a (leBytes 8 e)
  put (put (put (put (put (put m 0x10000 0x20001) 0x20000 0x30001) 0x30000 0x40001) 0x40000 0x50001) 0x50000 0x601CF)
    0x50008 0x70157

/-- Its kernel: one sheaf of 8 lanes and 32 named registers. -/
def loadKernel : Kernel :=
  { width := 8, named := 32, strict := false, idemp := false, stages := 1, entry := loadEntry, trape := 0x18000, stack := 4096
    allocs := [], acc := [0, 0, 0, 0] }

/-- Its workgroup, alone in its gang, on core 0. -/
def loadWorkgroup (gang : Nat) : Workgroup :=
  { gang := gang, idx := 0, part := 0, asid := loadAsid, site := 0, stage := 0, gangNo := 0, k := 1, m := 1, kernel := loadKernel
    breg := List.replicate 16 0, bpast := [], barGen := 0, decls := [], binds := List.replicate 4 [], leases := List.replicate 4 none
    held := none, joins := List.replicate 4 none, task := none, killed := false, ended := false, saveArea := 0
    savedAllocs := none, away := false }

/-- Its grid: one gang, whose end writes no future. -/
def loadGrid : Grid :=
  { part := 0, asid := loadAsid, kernel := loadKernel, gangs := 1, m := 1, k := 1, stages := 1, alen := 0, args := 0, donef := 0
    stackBase := 0x1000, pending := [], left := 1, record := none }

/-- The program placed and ready, its sheaf's key the next. -/
def State.loadSmallest (s : State) : State :=
  let n := s.nextKey
  let seat := (takeSeat (s.seats 0) (n + 2) 8).getD ⟨0, 0, 8, 0, 1⟩
  let segs := launchSegs 0 1 none 0x1000 4096 0 0
  { s with
    nextKey := n + 4, ages := s.ages + 1
    code := (loadAsid, loadEntry, 0x10000) :: s.code
    mem := loadTables s.mem, roots := kset s.roots loadAsid.toNat loadRoot
    grids := s.grids ++ [(n + 1, loadGrid)]
    gangs := s.gangs ++ [(n + 2, ⟨n + 1, [n + 3], none, 0, s.cycle, false, []⟩)]
    wgs := s.wgs ++ [(n + 3, loadWorkgroup (n + 2))]
    sheaves := s.sheaves ++ [(n, Sheaf.launch s.ages (n + 3) 0 seat loadKernel 0x18000 segs (List.replicate 32 0) false s.cycle)] }

end Sys2Proof.Machine
end

