-- ==== Sys2Proof/Machine/Riscv.lean ====
section
/-! DEFINITION. The base instruction set of the firmware cores, RV32IMAC with Zicsr, in machine mode (21 R306 names it; the RISC-V
manuals give it: PRESUMED, log 20). -/

namespace Sys2Proof.Machine

/-! ### Fields and immediates of a 32-bit word -/

/-- `rd`. -/
def rvRd (w : Word) : Fin 32 := (w.extractLsb' 7 5).toFin
/-- `rs1`. -/
def rvRs1 (w : Word) : Fin 32 := (w.extractLsb' 15 5).toFin
/-- `rs2`. -/
def rvRs2 (w : Word) : Fin 32 := (w.extractLsb' 20 5).toFin
/-- `funct3`. -/
def rvF3 (w : Word) : Nat := (w.extractLsb' 12 3).toNat
/-- `funct7`. -/
def rvF7 (w : Word) : Nat := (w.extractLsb' 25 7).toNat
/-- The immediate of an I-type word. -/
def immI (w : Word) : Word := (w.extractLsb' 20 12).signExtend 32
/-- Of an S-type word. -/
def immS (w : Word) : Word := (w.extractLsb' 25 7 ++ w.extractLsb' 7 5).signExtend 32
/-- Of a B-type word. -/
def immB (w : Word) : Word :=
  (w.extractLsb' 31 1 ++ w.extractLsb' 7 1 ++ w.extractLsb' 25 6 ++ w.extractLsb' 8 4 ++ 0#1).signExtend 32
/-- Of a U-type word. -/
def immU (w : Word) : Word := w.extractLsb' 12 20 ++ 0#12
/-- Of a J-type word. -/
def immJ (w : Word) : Word :=
  (w.extractLsb' 31 1 ++ w.extractLsb' 12 8 ++ w.extractLsb' 20 1 ++ w.extractLsb' 21 10 ++ 0#1).signExtend 32

/-! ### Arithmetic -/

/-- An integer operation by `funct3`; `alt` picks SUB and SRA. -/
def rvAlu (f3 : Nat) (alt : Bool) (a b : Word) : Word :=
  match f3 with
  | 0 => if alt then a - b else a + b
  | 1 => a <<< (b.toNat % 32)
  | 2 => if a.toInt < b.toInt then 1 else 0
  | 3 => if a.toNat < b.toNat then 1 else 0
  | 4 => a ^^^ b
  | 5 => if alt then a.sshiftRight (b.toNat % 32) else a >>> (b.toNat % 32)
  | 6 => a ||| b
  | _ => a &&& b

/-- A multiplication or division by `funct3`: a zero divisor gives all ones or the dividend, and the overflow the dividend or 0. -/
def rvMul (f3 : Nat) (a b : Word) : Word :=
  match f3 with
  | 0 => a * b
  | 1 => BitVec.ofInt 32 (a.toInt * b.toInt / 2 ^ 32)
  | 2 => BitVec.ofInt 32 (a.toInt * (b.toNat : Int) / 2 ^ 32)
  | 3 => BitVec.ofNat 32 (a.toNat * b.toNat / 2 ^ 32)
  | 4 => if b = 0 then BitVec.allOnes 32 else BitVec.ofInt 32 (a.toInt.tdiv b.toInt)
  | 5 => if b = 0 then BitVec.allOnes 32 else BitVec.ofNat 32 (a.toNat / b.toNat)
  | 6 => if b = 0 then a else BitVec.ofInt 32 (a.toInt.tmod b.toInt)
  | _ => if b = 0 then a else BitVec.ofNat 32 (a.toNat % b.toNat)

/-- Whether a branch is taken, by `funct3`; none where it names no branch. -/
def rvTaken (f3 : Nat) (a b : Word) : Option Bool :=
  match f3 with
  | 0 => some (a == b)
  | 1 => some (a != b)
  | 4 => some (decide (a.toInt < b.toInt))
  | 5 => some (decide (b.toInt ≤ a.toInt))
  | 6 => some (decide (a.toNat < b.toNat))
  | 7 => some (decide (b.toNat ≤ a.toNat))
  | _ => none

/-- What an atomic memory operation leaves, by its `funct5`; none where it names none. -/
def rvAmo (f5 : Nat) (old v : Word) : Option Word :=
  match f5 with
  | 0 => some (old + v)
  | 1 => some v
  | 4 => some (old ^^^ v)
  | 8 => some (old ||| v)
  | 12 => some (old &&& v)
  | 16 => some (if v.toInt < old.toInt then v else old)
  | 20 => some (if old.toInt < v.toInt then v else old)
  | 24 => some (if v.toNat < old.toNat then v else old)
  | 28 => some (if old.toNat < v.toNat then v else old)
  | _ => none

/-! ### Control and status registers -/

/-- The value of a register, none where a core has none of that number. -/
def FwCore.csr (c : FwCore) (p n : Nat) : Option Word :=
  match n with
  | 0x300 => some c.mstatus
  | 0x301 => some 0x40801105
  | 0x304 => some c.mie
  | 0x305 => some c.mtvec
  | 0x310 => some 0
  | 0x340 => some c.mscratch
  | 0x341 => some c.mepc
  | 0x342 => some c.mcause
  | 0x343 => some c.mtval
  | 0x344 => some c.mip
  | 0xB00 => some c.mcycle.lo
  | 0xB02 => some c.minstret.lo
  | 0xB80 => some c.mcycle.hi
  | 0xB82 => some c.minstret.hi
  | 0xF11 => some 0
  | 0xF12 => some 0
  | 0xF13 => some 0
  | 0xF14 => some (BitVec.ofNat 32 p)
  | 0xF15 => some 0
  | _ => none

/-- A register written: fields that can hold one value keep it. -/
def FwCore.setCsr (c : FwCore) (n : Nat) (v : Word) : FwCore :=
  match n with
  | 0x300 => { c with mstatus := 0x1800#32 ||| (v &&& 0x88#32) }
  | 0x304 => { c with mie := v &&& 0x888#32 }
  | 0x305 => { c with mtvec := v &&& ~~~(2#32) }
  | 0x340 => { c with mscratch := v }
  | 0x341 => { c with mepc := v &&& ~~~(1#32) }
  | 0x342 => { c with mcause := v }
  | 0x343 => { c with mtval := v }
  | 0xB00 => { c with mcycle := DWord.ofPair v c.mcycle.hi }
  | 0xB02 => { c with minstret := DWord.ofPair v c.minstret.hi }
  | 0xB80 => { c with mcycle := DWord.ofPair c.mcycle.lo v }
  | 0xB82 => { c with minstret := DWord.ofPair c.minstret.lo v }
  | _ => c

/-! ### One instruction -/

/-- A register written. -/
def FwCore.put (c : FwCore) (rd : Fin 32) (v : Word) : FwCore := { c with x := if rd.val = 0 then c.x else lset c.x rd.val v }

/-- A load: the address misaligned or out of reach is an exception. -/
def FwCore.loadOp (c : FwCore) (w at_ len : Word) : FwCore :=
  let n := 2 ^ (rvF3 w % 4)
  let bits := leNat (Memory.read c.mem at_.toNat n)
  if rvF3 w == 3 || 6 ≤ rvF3 w then c.trap 2 w
  else if at_.toNat % n != 0 then c.trap 4 at_
  else if !c.readableAt at_.toNat n then c.trap 5 at_
  else
    let v : Word := match rvF3 w with
      | 0 => (BitVec.ofNat 8 bits).signExtend 32
      | 1 => (BitVec.ofNat 16 bits).signExtend 32
      | _ => BitVec.ofNat 32 bits
    { c.put (rvRd w) v with pc := c.pc + len }

/-- A store. -/
def FwCore.storeOp (c : FwCore) (w at_ len : Word) : FwCore :=
  let n := 2 ^ (rvF3 w % 4)
  if 3 ≤ rvF3 w then c.trap 2 w
  else if at_.toNat % n != 0 then c.trap 6 at_
  else if !c.readableAt at_.toNat n then c.trap 7 at_
  else { c with mem := Memory.write c.mem at_.toNat ((leBytes 4 (c.reg (rvRs2 w)).toNat).take n), pc := c.pc + len }

/-- LR, SC and the atomic memory operations on a word. -/
def FwCore.amoOp (c : FwCore) (w len : Word) : FwCore :=
  let at_ := c.reg (rvRs1 w)
  let f5 := rvF7 w / 4
  let old := leWord (Memory.read c.mem at_.toNat 4)
  let v := c.reg (rvRs2 w)
  let store (x : FwCore) (y : Word) : FwCore := { x with mem := Memory.write x.mem at_.toNat (leBytes 4 y.toNat) }
  let lr := f5 == 2 && (rvRs2 w).val == 0
  if rvF3 w != 2 || !(lr || f5 == 3 || (rvAmo f5 0 0).isSome) then c.trap 2 w
  else if at_.toNat % 4 != 0 then (if lr then c.trap 4 at_ else c.trap 6 at_)
  else if !c.readableAt at_.toNat 4 then (if lr then c.trap 5 at_ else c.trap 7 at_)
  else if lr then { c.put (rvRd w) old with res := some at_, pc := c.pc + len }
  else if f5 == 3 then
    let ok := c.res == some at_
    { (if ok then store c v else c).put (rvRd w) (if ok then 0 else 1) with res := none, pc := c.pc + len }
  else { (store c ((rvAmo f5 old v).getD old)).put (rvRd w) old with pc := c.pc + len }

/-- A read and write of a control and status register: nothing is written where the form only reads. -/
def FwCore.csrOp (c : FwCore) (p : Nat) (w len : Word) : FwCore :=
  let n := (w.extractLsb' 20 12).toNat
  let f3 := rvF3 w
  let src : Word := if 4 ≤ f3 then (w.extractLsb' 15 5).setWidth 32 else c.reg (rvRs1 w)
  let writes := f3 % 4 == 1 || (rvRs1 w).val != 0
  match c.csr p n with
  | none => c.trap 2 w
  | some old =>
    if writes && 0xC00 ≤ n then c.trap 2 w
    else
      let new := match f3 % 4 with | 1 => src | 2 => old ||| src | _ => old &&& ~~~src
      let c1 := if writes then c.setCsr n new else c
      { c1.put (rvRd w) old with pc := c.pc + len }

/-- ECALL, EBREAK, MRET, WFI and the register forms; WFI may end at once. -/
def FwCore.systemOp (c : FwCore) (p : Nat) (w len : Word) : FwCore :=
  if rvF3 w % 4 != 0 then c.csrOp p w len
  else if w == 0x00000073 then c.trap 11 0
  else if w == 0x00100073 then c.trap 3 c.pc
  else if w == 0x30200073 then
    { c with pc := c.mepc, mstatus := 0x1880#32 ||| ((c.mstatus &&& 0x80#32) >>> 4) }
  else if w == 0x10500073 then { c with pc := c.pc + len }
  else c.trap 2 w

/-- A 32-bit word of the base set, or the word that a compressed one of `len` bytes stands for. -/
def FwCore.baseOp (c : FwCore) (p : Nat) (w len : Word) : FwCore :=
  let a := c.reg (rvRs1 w)
  let b := c.reg (rvRs2 w)
  let f3 := rvF3 w
  let f7 := rvF7 w
  let on (v : Word) : FwCore := { c.put (rvRd w) v with pc := c.pc + len }
  match (w.extractLsb' 0 7).toNat with
  | 0x37 => on (immU w)
  | 0x17 => on (c.pc + immU w)
  | 0x6F => { c.put (rvRd w) (c.pc + len) with pc := c.pc + immJ w }
  | 0x67 => if f3 = 0 then { c.put (rvRd w) (c.pc + len) with pc := (a + immI w) &&& ~~~(1#32) } else c.trap 2 w
  | 0x63 => match rvTaken f3 a b with
    | some t => { c with pc := if t then c.pc + immB w else c.pc + len }
    | none => c.trap 2 w
  | 0x03 => c.loadOp w (a + immI w) len
  | 0x23 => c.storeOp w (a + immS w) len
  | 0x13 =>
    if (f3 = 1 && f7 != 0) || (f3 = 5 && f7 != 0 && f7 != 0x20) then c.trap 2 w
    else on (rvAlu f3 (f3 == 5 && f7 == 0x20) a (immI w))
  | 0x33 =>
    if f7 = 1 then on (rvMul f3 a b)
    else if f7 = 0 || (f7 = 0x20 && (f3 = 0 || f3 = 5)) then on (rvAlu f3 (f7 == 0x20) a b)
    else c.trap 2 w
  | 0x0F => if f3 = 0 then { c with pc := c.pc + len } else c.trap 2 w
  | 0x2F => c.amoOp w len
  | 0x73 => c.systemOp p w len
  | _ => c.trap 2 w

/-! ### Compressed words -/

/-- An I-type word. -/
def encI (imm : BitVec 12) (rs1 : BitVec 5) (f3 : BitVec 3) (rd : BitVec 5) (op : BitVec 7) : Word := imm ++ rs1 ++ f3 ++ rd ++ op
/-- An S-type word. -/
def encS (imm : BitVec 12) (rs2 rs1 : BitVec 5) (f3 : BitVec 3) (op : BitVec 7) : Word :=
  imm.extractLsb' 5 7 ++ rs2 ++ rs1 ++ f3 ++ imm.extractLsb' 0 5 ++ op
/-- An R-type word. -/
def encR (f7 : BitVec 7) (rs2 rs1 : BitVec 5) (f3 : BitVec 3) (rd : BitVec 5) (op : BitVec 7) : Word := f7 ++ rs2 ++ rs1 ++ f3 ++ rd ++ op
/-- A B-type word. -/
def encB (imm : BitVec 13) (rs2 rs1 : BitVec 5) (f3 : BitVec 3) : Word :=
  imm.extractLsb' 12 1 ++ imm.extractLsb' 5 6 ++ rs2 ++ rs1 ++ f3 ++ imm.extractLsb' 1 4 ++ imm.extractLsb' 11 1 ++ 0x63#7
/-- A J-type word. -/
def encJ (imm : BitVec 21) (rd : BitVec 5) : Word :=
  imm.extractLsb' 20 1 ++ imm.extractLsb' 1 10 ++ imm.extractLsb' 11 1 ++ imm.extractLsb' 12 8 ++ rd ++ 0x6F#7

/-- The first quadrant: a stack address, a load, a store. -/
def expand0 (h : BitVec 16) : Option Word :=
  let rd : BitVec 5 := 1#2 ++ h.extractLsb' 2 3
  let rs : BitVec 5 := 1#2 ++ h.extractLsb' 7 3
  let off : BitVec 12 := 0#5 ++ h.extractLsb' 5 1 ++ h.extractLsb' 10 3 ++ h.extractLsb' 6 1 ++ 0#2
  let sp : BitVec 12 := 0#2 ++ h.extractLsb' 7 4 ++ h.extractLsb' 11 2 ++ h.extractLsb' 5 1 ++ h.extractLsb' 6 1 ++ 0#2
  match (h.extractLsb' 13 3).toNat with
  | 0 => if sp = 0 then none else some (encI sp 2 0 rd 0x13)
  | 2 => some (encI off rs 2 rd 0x03)
  | 6 => some (encS off rd rs 2 0x23)
  | _ => none

/-- The second quadrant: immediates, jumps, branches. -/
def expand1 (h : BitVec 16) : Option Word :=
  let rd : BitVec 5 := h.extractLsb' 7 5
  let rs : BitVec 5 := 1#2 ++ h.extractLsb' 7 3
  let rt : BitVec 5 := 1#2 ++ h.extractLsb' 2 3
  let imm : BitVec 12 := (h.extractLsb' 12 1 ++ h.extractLsb' 2 5).signExtend 12
  let jump : BitVec 21 := (h.extractLsb' 12 1 ++ h.extractLsb' 8 1 ++ h.extractLsb' 9 2 ++ h.extractLsb' 6 1 ++ h.extractLsb' 7 1 ++
    h.extractLsb' 2 1 ++ h.extractLsb' 11 1 ++ h.extractLsb' 3 3 ++ 0#1).signExtend 21
  let branch : BitVec 13 := (h.extractLsb' 12 1 ++ h.extractLsb' 5 2 ++ h.extractLsb' 2 1 ++ h.extractLsb' 10 2 ++ h.extractLsb' 3 2 ++
    0#1).signExtend 13
  let sp : BitVec 12 := (h.extractLsb' 12 1 ++ h.extractLsb' 3 2 ++ h.extractLsb' 5 1 ++ h.extractLsb' 2 1 ++ h.extractLsb' 6 1 ++
    0#4).signExtend 12
  let shamt : BitVec 12 := 0#7 ++ h.extractLsb' 2 5
  match (h.extractLsb' 13 3).toNat with
  | 0 => some (encI imm rd 0 rd 0x13)
  | 1 => some (encJ jump 1)
  | 2 => some (encI imm 0 0 rd 0x13)
  | 3 =>
    if imm = 0 then none
    else if rd = 2 then some (encI sp 2 0 2 0x13)
    else some ((imm.signExtend 20) ++ rd ++ 0x37#7)
  | 4 => match (h.extractLsb' 10 2).toNat with
    | 0 => if h.getLsbD 12 then none else some (encI shamt rs 5 rs 0x13)
    | 1 => if h.getLsbD 12 then none else some (encI (shamt ||| 0x400) rs 5 rs 0x13)
    | 2 => some (encI imm rs 7 rs 0x13)
    | _ => if h.getLsbD 12 then none else match (h.extractLsb' 5 2).toNat with
      | 0 => some (encR 0x20 rt rs 0 rs 0x33)
      | 1 => some (encR 0 rt rs 4 rs 0x33)
      | 2 => some (encR 0 rt rs 6 rs 0x33)
      | _ => some (encR 0 rt rs 7 rs 0x33)
  | 5 => some (encJ jump 0)
  | 6 => some (encB branch 0 rs 0)
  | _ => some (encB branch 0 rs 1)

/-- The third quadrant: shifts, the stack, register jumps and moves. -/
def expand2 (h : BitVec 16) : Option Word :=
  let rd : BitVec 5 := h.extractLsb' 7 5
  let rt : BitVec 5 := h.extractLsb' 2 5
  let lw : BitVec 12 := 0#4 ++ h.extractLsb' 2 2 ++ h.extractLsb' 12 1 ++ h.extractLsb' 4 3 ++ 0#2
  let sw : BitVec 12 := 0#4 ++ h.extractLsb' 7 2 ++ h.extractLsb' 9 4 ++ 0#2
  match (h.extractLsb' 13 3).toNat with
  | 0 => if h.getLsbD 12 then none else some (encI (0#7 ++ rt) rd 1 rd 0x13)
  | 2 => if rd = 0 then none else some (encI lw 2 2 rd 0x03)
  | 4 =>
    if !h.getLsbD 12 then
      (if rt = 0 then (if rd = 0 then none else some (encI 0 rd 0 0 0x67)) else some (encR 0 rt 0 0 rd 0x33))
    else if rt = 0 then (if rd = 0 then some 0x00100073 else some (encI 0 rd 0 1 0x67))
    else some (encR 0 rt rd 0 rd 0x33)
  | 6 => some (encS sw rt 2 2 0x23)
  | _ => none

/-- The word that a compressed one stands for, none for one that is illegal. -/
def expand (h : BitVec 16) : Option Word :=
  match (h.extractLsb' 0 2).toNat with
  | 0 => expand0 h
  | 1 => expand1 h
  | 2 => expand2 h
  | _ => none

/-- A word outside Xirbcp, compressed or not. -/
def FwCore.baseWord (c : FwCore) (p : Nat) (w : Word) : FwCore :=
  if w.extractLsb' 0 2 == 3#2 then c.baseOp p w 4
  else match expand (w.extractLsb' 0 16) with
    | some x => c.baseOp p x 2
    | none => c.trap 2 ((w.extractLsb' 0 16).setWidth 32)

/-! ### Interrupts, and what comes from outside (R308, log 20) -/

/-- The interrupt that a core takes before its next instruction, if any: external, software or timer. -/
def FwCore.interrupt (c : FwCore) : Option FwCore :=
  let due := c.mie &&& c.mip
  if !c.mstatus.getLsbD 3 || due == 0 then none
  else
    let n : Word := if due.getLsbD 11 then 11 else if due.getLsbD 3 then 3 else 7
    let t := c.trap (0x80000000#32 ||| n) 0
    some { t with pc := if c.mtvec.getLsbD 0 then (c.mtvec &&& ~~~(3#32)) + 4 * n else t.pc }

/-- After a move of a core: what signals and interrupts have come to it, which the spec leaves to whoever sends them (log 20); its
counters go on. -/
def FwCore.later (c : FwCore) (free p : Nat) : FwCore :=
  { c with signals := mapIdxFrom (fun i v => if v = 0 then Config.signalWord free p i else v) 0 c.signals
           mip := Config.fwInterrupts free p &&& 0x888#32
           mcycle := c.mcycle + 1, minstret := c.minstret + 1 }

end Sys2Proof.Machine
end

