-- ==== Sys2Proof/Machine/Sched.lean ====
section
/-! DEFINITION. One step: which split, firmware core or agent moves (06 R106, R107; log 4), the fetch of a word (02 R23, R35),
and what every step adds around the instruction it runs. `Step.lean` only calls this. -/

namespace Sys2Proof.Machine

/-! ### Who may issue (R107) -/

/-- Whether the timer trap has to be taken before the next instruction (R128, R276). -/
def State.timerFirst (s : State) (k : Nat) (sh : Sheaf) : Bool :=
  s.timerDue sh && sh.pend.isNone && sh.hand.isNone && !sh.restarting && !s.haltNow k sh && !sh.preempt && !sh.writing && sh.saving == .none

/-- Whether a sheaf may issue anything: resident, awake, not stopping for a save, a restore, a restart, a timer or a
debugger. -/
def State.sheafMay (s : State) (k : Nat) (sh : Sheaf) : Bool :=
  !sh.ended && !sh.halted && sh.wait.isNone && sh.sleep.isNone && !(sh.restarting && sh.hand.isNone) && sh.saving != .saved &&
  !(sh.saving == .restoreDue && sh.hand.isNone) && !(sh.preempt && sh.pend.isNone && sh.hand.isNone) && !s.timerFirst k sh && (s.wg sh.wg).elim false (fun w => !w.killed)

/-- Whether a split of such a sheaf may: running, and not stopped for a trap (R96, R266). -/
def Split.may (sp : Split) : Bool := !sp.parked && sp.stall != 21

/-- Whether split j of sheaf k may issue. -/
def State.mayIssue (s : State) (k j : Nat) : Bool :=
  match s.sheaf k with
  | none => false
  | some sh => s.sheafMay k sh && ((sh.ctl.splits[j]?).elim false Split.may)

/-! ### The fetch (R23, R35) -/

/-- What a fetch gives. -/
inductive Fetched where
  | word (w : Word)
  | replay (va : Addr)
  | fault (code : Nat)
  | absent                         -- in no code object loaded (R310)
  deriving DecidableEq, Repr

/-- Whether an address lies in a code object that has been loaded for an address space (R310, log 17). -/
def State.isCode (s : State) (asid : BitVec 16) (va : Addr) : Bool :=
  s.code.any (fun x => x.1 == asid && x.2.1.toNat ≤ va.toNat && va.toNat + 4 ≤ x.2.1.toNat + x.2.2)

/-- The word at the program counter of the issuing split: an instruction access of its address. -/
def State.fetch (s : State) (c : Ctx) : Fetched :=
  match s.reach (viaOf c.k c.sh c.wg 0) (byteAddr c.sp.pc) 4 .ex with
  | .ok pl _ => if s.isCode c.wg.asid (byteAddr c.sp.pc) then .word (leWord (s.readPlace pl 4)) else .absent
  | .replay va => .replay va
  | .fault code _ => .fault code
  | _ => .fault 0x0A

/-- Where the word at the program counter of the issuing split lies. -/
def State.fetchPlace (s : State) (c : Ctx) : Option Place :=
  match s.reach (viaOf c.k c.sh c.wg 0) (byteAddr c.sp.pc) 4 .ex with
  | .ok pl _ => some pl
  | _ => none

/-- The word a firmware core stands at. -/
def State.fwWord (s : State) (p : Nat) : Word := leWord ((s.fw p).mem.read (s.fw p).pc.toNat 4)

/-! ### What a move does -/

/-- The outcome of a move, what it was, and whether something happened that may let a stalled instruction issue. -/
structure Moved where
  out : Host.Outcome State Fault Refusal
  did : Did

/-- Nothing but time. -/
def nothing (s : State) : Moved := ⟨.next s, ⟨none, 0, 0, none⟩⟩

/-- The issuing split's instruction: fetched, decoded, carried out (R23, R35, R36). -/
def State.issueMove (s : State) (k j : Nat) : Moved :=
  if !s.mayIssue k j then nothing s
  else
    let s0 := { s with cur := .sheaf k j, word := 0 }
    match s0.ctx with
    | none => nothing s
    | some c =>
      let did : Did := ⟨some k, 0, c.active, none⟩
      match s0.fetch c with
      | .replay va =>
        ⟨.next ((s0.putSplit c { c.sp with stall := 16 }).modSheaf k (fun sh => { sh with wait := some (.replay c.wg.asid va false) })),
         ⟨none, 0, 0, none⟩⟩
      | .absent => ⟨.next (s0.stall c 9), ⟨none, 0, 0, none⟩⟩
      | .fault code => ⟨.next (s0.raise c { code := code, opnd := 0, addr := byteAddr c.sp.pc }), did⟩
      | .word w =>
        let s1 := { (s0.cacheLocal (viaOf c.k c.sh c.wg 0) (byteAddr c.sp.pc)) with word := w }
        match decode w with
        | .ok i => ⟨exec i s1, { did with word := w, instr := some i }⟩
        | .error _ => ⟨exec (.wordNotInstruction w) s1, { did with word := w }⟩

/-- A firmware core changed by what has come to it since its last instruction. -/
def State.fwLater (s : State) (p : Nat) : State := s.setFw p ((s.fw p).later s.free p)

/-- What a move brings about, changed. -/
def Moved.map (m : Moved) (f : State → State) : Moved :=
  match m.out with
  | .next t => { m with out := .next (f t) }
  | _ => m

/-- A firmware core's instruction, or the interrupt that it takes first (R306 to R308, log 20). -/
def State.fwMove (s : State) (p : Nat) : Moved :=
  if (s.fw p).failed then nothing s
  else
    let w := s.fwWord p
    let s0 := { s with cur := .fw p, word := w }
    let did : Did := ⟨none, 0, 0, none⟩
    let m : Moved := match (s.fw p).interrupt with
      | some c => ⟨.next (s0.setFw p c), did⟩
      | none =>
        if w.extractLsb' 0 7 != 0x0B then ⟨.next (s0.setFw p ((s.fw p).baseWord p w)), did⟩
        else match decodeXirbcp w with
          | some i => ⟨exec i s0, did⟩
          | none => ⟨.next (s0.fwIllegal p w), did⟩
    m.map (fun t => t.fwLater p)

/-- A step that an agent brings; one that does not belong there is passed over (log 30). -/
def State.eventMove (s : State) (i : Instr) : Moved :=
  match exec i { s with cur := .none, word := 0 } with
  | .next t => ⟨.next t, ⟨none, 0, 0, some i⟩⟩
  | _ => nothing s

/-! ### What moves when no agent proposes a move (log 4) -/

/-- The steps that could be due of outstanding accesses. -/
def State.accSteps (s : State) : List Instr :=
  s.accs.flatMap (fun a => match a.kind with
    | .load .. => if a.stage == .issued then [.loadDataArrival a.id false] else []
    | .word => [.loadDataArrival a.id false]
    | .store => [.storePerform a.id]
    | .quorum .. => [.storePerform a.id]
    | .atom .. => [.atomicPerform a.id]
    | .fence => [])

/-- Of the sheaves. -/
def State.sheafSteps (s : State) : List Instr :=
  s.sheaves.flatMap (fun p =>
    let sh := p.2
    let may : Bool → Instr → List Instr := fun b i => if b then [i] else []
    (match sh.wait with
     | some (.replay asid va w) => [Instr.lightFaultService asid va w]
     | some (.watch ..) => [Instr.watchReread p.1]
     | some (.await ..) => [Instr.awaitReread p.1]
     | _ => []) ++
    may (sh.pend.isSome || sh.preempt) (.trapEntry p.1) ++ may (s.timerDue sh) (.timerTrap p.1) ++
    may sh.sleep.isSome (.sleepWake p.1) ++ may sh.restarting (.regionRestart p.1) ++
    may (sh.ctl.splits.any (fun x => x.stall == 8)) (.queuePortDeschedule p.1) ++
    may (!sh.ended && (sh.finished || sh.saving == .saved)) (.sheafEnd p.1))

/-- Of the engines, cores and dies. -/
def State.engineSteps (s : State) : List Instr :=
  s.copies.flatMap (fun x => (match x.stalled with | some (va, w) => [Instr.lightFaultService x.asid va w] | none => []) ++
    (if x.chunks.isEmpty then [] else [Instr.copyChunkLand x.id 0])) ++
  s.tops.map (fun x => .tileOperationComplete x.id) ++
  s.cores.flatMap (fun c => (if c.2.relocating then [Instr.relocationComplete c.1] else []) ++
    (c.2.allocs.filter (fun a => a.writeback.isSome)).map (fun a => Instr.shadowWritebackComplete c.1 a.id)) ++
  [(0 : Fin 4), 1, 2, 3].filterMap (fun d => if (s.die d.val).pending.isSome then some (.lossPoint d) else none)

/-- Of tasks, queues, joins, partitions and shoot-downs. -/
def State.unitSteps (s : State) : List Instr :=
  let may : Bool → List Instr → List Instr := fun b l => if b then l else []
  s.wgs.flatMap (fun w => may w.2.task.isSome [.taskCompletion w.1, .taskRequeue w.1]) ++
  s.queues.flatMap (fun q => may (q.2.state == .draining) [.queueDead q.1] ++
    may (q.2.dispatch && q.2.head != q.2.tail) [.launchRecordPop q.1, .taskRecordPop q.1]) ++
  s.joins.flatMap (fun j => may j.2.released [.joinFinalise j.1] ++
    (j.2.members.filter (fun m => m.condemned && !m.flagSent)).map (fun m => Instr.condemnedFlag j.1 m.index)) ++
  ((List.range 16).filter (fun p => (kget s.parts p).isSome)).flatMap (fun p =>
    let f : Fin 16 := Fin.ofNat 16 p
    let x := s.part p
    may ((s.commandHead f).isSome) [.receiptRequest f, .attestationRequest f, .commandRecordReject f] ++
    may x.request.isSome [.receiptResume f] ++
    may (x.fifos.any (fun l => !l.isEmpty) || s.grids.any (fun g => g.2.part == f && !g.2.pending.isEmpty))
      [.workgroupPlacement f, .waitEviction f] ++
    may x.son (x.cores.flatMap (fun c => [(0 : Fin 4), 1, 2, 3].filterMap (fun d =>
      if s.sampleDue p c d.val then some (.profilingSample f c d) else none)))) ++
  s.shoots.flatMap (fun x => (x.left.take 1).map (fun h => .shootDownAck x.id h))

/-- The steps that could be due, from one on that changes with time, so that each has its turn. -/
def State.steps (s : State) : List Instr :=
  let l := s.accSteps ++ s.sheafSteps ++ s.engineSteps ++ s.unitSteps
  l.drop (s.free % max l.length 1) ++ l.take (s.free % max l.length 1)

/-- The first step that would change something. -/
def State.dueStep (s : State) : Option Instr :=
  let s0 := { s with cur := .none, word := 0 }
  s.steps.find? (fun i => match exec i s0 with
    | .next t => decide (t ≠ s0) && !(s.firmware.memHold && t.firmware.asked)
    | _ => false)

/-- The pipe of the word a split stands at: the group pipe for a group-set instruction (R23, R106). -/
def State.pipeOf (s : State) (k j : Nat) : Bool := ((s.wordAt k j).map (fun w => w.getLsbD 31)).getD false

/-- A sheaf's first split that may issue on a pipe and has not just stalled: its oldest (R107). -/
def State.firstSplit (s : State) (k : Nat) (sh : Sheaf) (group : Bool) : Option Nat :=
  if !s.sheafMay k sh then none
  else (List.range sh.ctl.splits.length).find? (fun j =>
    (sh.ctl.splits[j]?).elim false (fun sp => sp.may && !sp.tried) && s.pipeOf k j == group)

/-- The scheduler of a sheaf: its core and its slot's scheduler (R91). -/
def State.schedOf (s : State) (sh : Sheaf) : Nat := ((s.wg sh.wg).elim 0 (fun w => w.site)) * 4 + sh.slot % 4

/-- A sheaf that could issue on a pipe, with its split. -/
structure Cand where
  k : Nat
  j : Nat
  sh : Sheaf
  group : Bool

/-- The pipe of a scheduler for which a sheaf is a candidate. -/
def State.pipeNo (s : State) (c : Cand) : Nat := 2 * s.schedOf c.sh + b2n c.group

/-- The sheaves that could issue, for each pipe. -/
def State.cands (s : State) : List Cand :=
  s.sheaves.flatMap (fun p => [false, true].filterMap (fun g => (s.firstSplit p.1 p.2 g).map (fun j => ⟨p.1, j, p.2, g⟩)))

/-- The oldest of a list (R107, R108). -/
def oldest : List Cand → Option Cand
  | [] => none
  | c :: l => match oldest l with
    | some d => if d.sh.age < c.sh.age then some d else some c
    | none => some c

/-- Whether a sheaf has not issued on its pipe for 4,096 cycles (R107). -/
def State.overdue (s : State) (c : Cand) : Bool :=
  (if c.group then c.sh.nextFirstG else c.sh.nextFirst) ||
    (if c.group then c.sh.lastGroup else c.sh.lastLane) + Config.guardCycles ≤ s.cycle

/-- Whether a sheaf has given way on its pipe (R126). -/
def Cand.gaveWay (c : Cand) : Bool := if c.group then c.sh.yieldedG else c.sh.yielded

/-- Whether a sheaf is the greedy one of its pipe (R107). -/
def State.isGreedy (s : State) (c : Cand) : Bool :=
  ((s.wg c.sh.wg).elim none (fun w => lget none (s.core w.site).greedy (2 * (c.sh.slot % 4) + b2n c.group))) == some c.k

/-- What one pipe of a scheduler chooses (R107, R126): the guard's sheaf, the greedy one, the oldest; one that gave way last. -/
def State.choose (s : State) (l : List Cand) : Option Cand :=
  match oldest (l.filter s.overdue) with
  | some c => some c
  | none => match oldest (l.filter (fun c => s.isGreedy c && !c.gaveWay)) with
    | some c => some c
    | none => match oldest (l.filter (fun c => !c.gaveWay)) with
      | some c => some c
      | none => oldest l

/-- The pipe whose turn it is: of those with a candidate, one not served yet, else the one that has waited longest (R111). -/
def State.turn (s : State) (l : List Cand) : Option Nat :=
  let pipes := l.map s.pipeNo
  match pipes.find? (fun p => !s.served.contains p) with
  | some p => some p
  | none => s.served.find? pipes.contains

/-- The issue that the schedulers choose, one pipe at a time in turn. -/
def State.nextIssue (s : State) : Option Move :=
  let l := s.cands
  match s.turn l with
  | none => none
  | some x => (s.choose (l.filter (fun c => s.pipeNo c == x))).map (fun c => .issue c.k c.j)

/-- The move of a step: what an agent proposes, else an issue, a due step first at every fourth; none when only time
passes. -/
def State.nextMove (s : State) : Option Move :=
  match s.agenda with
  | m :: _ => some m
  | [] =>
    if s.free % 4 == 3 then
      match s.dueStep with
      | some i => some (.event i)
      | none => s.nextIssue
    else
      match s.nextIssue with
      | some m => some m
      | none => s.dueStep.map .event

/-- A move carried out, whoever it needs. -/
def State.makeNow (s : State) : Option Move → Moved
  | none => nothing s
  | some (.issue k j) => s.issueMove k j
  | some (.fw p) => s.fwMove p
  | some (.event i) => s.eventMove i

/-- A move carried out; one that needs a memory processor during its hand-over waits (R314). -/
def State.make (s : State) (m : Option Move) : Moved :=
  let x := s.makeNow m
  match x.out with
  | .next t => if s.firmware.memHold && t.firmware.asked then nothing s else x
  | _ => x

/-! ### What a step adds (log 6) -/

/-- Whether an instruction gives way, so that the next choice passes its sheaf over (R126, R127). -/
def givesWay : Option Instr → Bool
  | some .yield => true
  | some (.sleep n) => n == 0
  | _ => false

/-- The scheduler's memory of an issue (R107, R111, R126): the pipe has had its turn, and its sheaf is the greedy one unless it
gives way; on that pipe, sheaves that gave way before may be chosen again. -/
def State.noteIssue (t : State) (d : Did) (now : Nat) : State :=
  match d.k, d.k.bind t.sheaf with
  | some k, some sh =>
    let group := d.word.getLsbD 31
    let site := (t.wg sh.wg).elim 0 (fun w => w.site)
    let pipe := 2 * (sh.slot % 4) + b2n group
    let no := 2 * t.schedOf sh + b2n group
    let way := givesWay d.instr
    let t1 := t.mapSheaves (fun k' x =>
      if k' == k then
        if group then { x with nextFirstG := false, lastGroup := now, yieldedG := way, yielded := x.yielded || way }
        else { x with nextFirst := false, lastLane := now, yielded := way, yieldedG := x.yieldedG || way }
      else if t.schedOf x == t.schedOf sh then
        if group then { x with yieldedG := false } else { x with yielded := false }
      else x)
    let t2 : State := { t1 with served := t1.served.filter (fun p => p != no) ++ [no] }
    if way then t2 else t2.modCore site (fun c => { c with greedy := lset c.greedy pipe (some k) })
  | _, _ => t

/-- Stalled instructions are tried again after something has happened. -/
def State.tryAgain (s : State) : State :=
  s.mapSheaves (fun _ sh => { sh with ctl := { sh.ctl with splits := sh.ctl.splits.map (fun sp => { sp with tried := false }) } })

/-- Time passes (R8, R115, R300): cycles of the arithmetic clock, whose length it sets; the nanoseconds in them on the PTP clock,
with its slewing of at most 200 parts in a million either way and never backward; and the number of the free values. -/
def State.passTime (s t : State) : State :=
  let dt := 1 + Config.extraCycles s.free
  let ns := (dt * 1000 + Config.clockStep s.free % t.clock) / t.clock
  let room : Int := ((t.paced + ns) / 5000 : Nat)
  let slewed := max (-(ns : Int)) (max (-room) (min room t.slew))
  { t with cycle := s.cycle + dt, free := s.free + 1, tai := t.tai + BitVec.ofInt 64 (ns + slewed), slew := t.slew - slewed
           paced := (t.paced + ns) % 5000 }

/-- What follows a move by itself: barriers release, ports and saved gangs that no longer wait are ready, splits unite. -/
def State.settle (t : State) : State :=
  ((t.releaseBars.wakePorts).requeueSaved).mapSheaves (fun _ sh => sh.settle t.free)

/-- The state after a move from s to t. -/
def State.after (s t : State) (d : Did) : State :=
  let issued := d.issued t
  let t1 := (s.passTime t).settle
  let t2 := if issued then t1.noteIssue d t1.cycle else t1
  let t3 := s.tally t2 d
  let t4 := if issued || d.instr.isSome && d.k.isNone then t3.tryAgain else t3
  { t4 with cur := .none, word := 0 }

/-- One step: the next move taken off the agenda and carried out, and what a step adds. -/
def State.oneStep (s : State) : Host.Outcome State Fault Refusal :=
  let m := s.make s.nextMove
  match m.out with
  | .next t => .next (({ s with agenda := s.agenda.tail }).after { t with agenda := t.agenda.tail } m.did)
  | .refused r => .refused r
  | .fault f => .fault f

/-! ### Placing a word (log 3) -/

/-- A word of a sheaf's program where the next step fetches it; a smallest program is loaded where no sheaf is to issue. -/
def State.placeWord (s : State) (w : Word) : State :=
  let put (t : State) (k j : Nat) : Option State :=
    match ({ t with cur := .sheaf k j } : State).ctx with
    | none => none
    | some c => (t.fetchPlace c).map (fun pl =>
        let u := t.writePlace pl (leBytes 4 w.toNat)
        if u.isCode c.wg.asid (byteAddr c.sp.pc) then u else { u with code := (c.wg.asid, (byteAddr c.sp.pc).extractLsb' 0 64, 4) :: u.code })
  let fresh : State :=
    let t := s.loadSmallest
    let u : State := { t with agenda := .issue s.nextKey 0 :: s.agenda }
    (put u s.nextKey 0).getD u
  match s.nextMove with
  | some (.issue k j) => if s.mayIssue k j then (put s k j).getD fresh else fresh
  | _ => fresh

/-- A firmware core's word where core 0 stands, and its turn. -/
def State.placeFwWord (s : State) (w : Word) : State :=
  let c := s.fw 0
  { s.setFw 0 { c with failed := false, mem := c.mem.write c.pc.toNat (leBytes 4 w.toNat) } with agenda := .fw 0 :: s.agenda }

/-- A word where the next step fetches it: a Xirbcp word at a firmware core, any other at a sheaf. -/
def State.placeTableWord (s : State) (w : Nat) : State :=
  let x := BitVec.ofNat 32 w
  match decode x, decodeXirbcp x with
  | .error _, some _ => s.placeFwWord x
  | _, _ => s.placeWord x

end Sys2Proof.Machine
end

