-- ==== Sys2Proof/Machine/Step.lean ====
section
/-! DEFINITION. The step of the machine, and a word placed where the next step fetches it. -/

namespace Sys2Proof.Machine

/-- One step of the machine. -/
def step (s : State) : Host.Outcome State Fault Refusal := s.oneStep

/-- The state with an instruction word of the opcode table where the next step fetches it (log 3). Every instruction is one
word of 32 bits, so `nbits` says nothing more. -/
def State.withFetchWord (s : State) (_nbits w : Nat) : State := s.placeTableWord w

end Sys2Proof.Machine
end

