-- ==== Sys2Proof/Safety.lean ====
section
/-! DEFINITION. What a safe run of this machine is: no step faults, and every memory keeps its canonical form (log 1). -/

namespace Sys2Proof.Machine

/-- Every memory the state holds: physical memory, allocations on cores and in saved gangs, other devices, firmware cores. -/
def State.memories (s : State) : List Memory :=
  s.mem :: (s.cores.flatMap (fun c => c.2.allocs.map (·.data))) ++ s.remotes.map (·.mem) ++ s.fws.map (fun f => f.2.mem) ++
  s.grids.flatMap (fun g => g.2.pending.flatMap (fun p => p.saved.flatMap (fun v => v.allocs.map (·.data))))

/-- Every memory of the state is in canonical form. -/
def State.canonical (s : State) : Prop := ∀ m ∈ s.memories, m.wf = true

/-- The splits of every sheaf whose instruction is not being replayed stand at different addresses (R98). -/
def State.apartSplits (s : State) : Prop :=
  ∀ p ∈ s.sheaves, ((p.2.ctl.splits.filter (fun x => x.replay.isNone)).map (fun x => x.pc)).Nodup

/-- A step that is safe: it does not fault, and where it answers a next state that state's memories are canonical. -/
def SafeStep (s : State) : Prop :=
  (∀ f, step s ≠ .fault f) ∧ ∀ t, step s = .next t → t.canonical

end Sys2Proof.Machine
end

