-- ==== Sys2Proof/Safety/Lanes.lean ====
section
/-! DEFINITION. The terms of the statements about lane-set instructions: what each reads and writes and the value it computes,
written from the rules' own tables (04 R59 to R68, 05 R79 to R90, 07 R119 to R123), and the sheaf that results. -/

namespace Sys2Proof.Machine

/-! ### The issuing split moved on, or parked at a fault -/

/-- The control state with the issuing split at the next word (R20). -/
def Ctx.onward (c : Ctx) : Ctl := { c.sh.ctl with splits := lset c.sh.ctl.splits c.j (c.sp.at (c.sp.pc + 1)) }

/-- The sheaf with the issuing split at another address, everything else as it was. -/
def Ctx.sheafAt (c : Ctx) (pc : BitVec 78) : Sheaf :=
  { c.sh with ctl := { c.sh.ctl with splits := lset c.sh.ctl.splits c.j (c.sp.at pc) } }

/-- The sheaf after a fault of the whole split when nothing is pending and no handler runs (R265, R266): the split is a
fault-parked group, every other split stops before its next instruction, the fault is recorded, no register changes. -/
def Ctx.parked (s : State) (c : Ctx) (e : Exc) : Sheaf :=
  { c.sh with
    ctl := { c.sh.ctl with
      splits := (c.sh.ctl.splits.eraseIdx c.j).map (fun sp => { sp with stall := 21 })
      groups := c.sh.ctl.groups ++ [⟨c.sp.pc, c.sp.mask, true⟩] }
    pend := some
      { code := e.code, opnd := e.opnd, imm := e.imm, word := s.word, pc := c.sp.pc, lanes := c.sp.mask, addr := e.addr
        alloc := e.alloc, aux := e.aux
        rpc := if e.code = 0x18 ∨ e.code = 0x19 ∨ e.code = 0x1A then (byteAddr (c.sp.pc + 1)).setWidth 64
               else (byteAddr c.sp.pc).setWidth 64
        save := 0, restore := false, target := c.sh.trapEntry, site := e.site } }

/-- A sheaf from which some lanes of the issuing split leave with a fault while the others go on (R265, R266): nothing is
pending and no handler runs. `sh` is the sheaf with the other lanes' results. -/
def Ctx.parkSome (s : State) (c : Ctx) (sh : Sheaf) (lanes : Mask) (e : Exc) : Sheaf :=
  let stay := c.sp.mask &&& ~~~lanes
  let whole := c.parked s e
  { sh with
    ctl := { c.sh.ctl with
      splits := if stay = 0 then (c.sh.ctl.splits.eraseIdx c.j).map (fun sp => { sp with stall := 21 })
        else mapIdxFrom (fun i sp => if i = c.j then { c.sp.at (c.sp.pc + 1) with mask := stay } else { sp with stall := 21 }) 0
          c.sh.ctl.splits
      groups := c.sh.ctl.groups ++ [⟨c.sp.pc, lanes, true⟩] }
    pend := whole.pend.map (fun f => { f with lanes := lanes }) }

/-- No fault is pending in the sheaf, no handler runs, and no lanes of an earlier attempt at the instruction have accesses open
(R138). -/
def Ctx.calm (c : Ctx) : Bool := c.sh.pend.isNone && c.sh.hand.isNone && (c.sp.replay.bind (·.op)).isNone

/-! ### Lanes that compute each alone -/

/-- What a lane-set instruction whose lanes act each alone reads and writes, and its value. -/
structure LaneForm where
  dst : LDst
  words : Nat
  srcs : List SrcUse
  val : List DWord → DWord

/-- The two registers of a 64-bit source, or the one of a 32-bit source (R58). -/
def LaneForm.two (w64 : Bool) (d : LDst) (words : Nat) (a b : LSrc) (f : DWord → DWord → DWord) : LaneForm :=
  ⟨d, words, [⟨2, a, if w64 then 2 else 1⟩, ⟨3, b, if w64 then 2 else 1⟩], fun v => f (v.getD 0 0) (v.getD 1 0)⟩

/-- One source. -/
def LaneForm.one (w64 : Bool) (d : LDst) (words : Nat) (a : LSrc) (f : DWord → DWord) : LaneForm :=
  ⟨d, words, [⟨2, a, if w64 then 2 else 1⟩], fun v => f (v.getD 0 0)⟩

/-- Three sources of one width, pushed. -/
def LaneForm.three (w64 : Bool) (a b c : LSrc) (f : DWord → DWord → DWord → DWord) : LaneForm :=
  ⟨.push, if w64 then 2 else 1, [⟨2, a, if w64 then 2 else 1⟩, ⟨3, b, if w64 then 2 else 1⟩, ⟨4, c, if w64 then 2 else 1⟩],
    fun v => f (v.getD 0 0) (v.getD 1 0) (v.getD 2 0)⟩

/-- A constant. -/
def LaneForm.const (d : LDst) (v : DWord) : LaneForm := ⟨d, 1, [], fun _ => v⟩

/-- `Wrap` without `.sat`: the low bits, given as they are; `Sat` of the exact integer with it (R42, R58). -/
def wrapOrSat (ty : IntTy) (sat : Bool) (low : DWord) (exact : Int) : DWord :=
  if sat then satInt ty exact else cutTo ty.w64 low

/-- The high half of the product of the two values, each extended as its type says (R59). -/
def highHalf (ty : IntTy) (x y : DWord) : DWord :=
  match ty.w64, ty.uns with
  | true, false => (x.signExtend 128 * y.signExtend 128).extractLsb' 64 64
  | true, true => (x.setWidth 128 * y.setWidth 128).extractLsb' 64 64
  | false, false => (((x.setWidth 32).signExtend 64 * (y.setWidth 32).signExtend 64).extractLsb' 32 32).setWidth 64
  | false, true => (((x.setWidth 32).setWidth 64 * (y.setWidth 32).setWidth 64).extractLsb' 32 32).setWidth 64

/-- The quotient of R60 for a nonzero divisor: sign(a) × sign(b) × floor(|a| / |b|). -/
def exactQuot (a b : Int) : Int := a.sign * b.sign * ((a.natAbs / b.natAbs : Nat) : Int)

/-- `div` of R60: all ones for a zero divisor, with or without `.sat`. -/
def quotient (ty : IntTy) (sat : Bool) (x y : DWord) : DWord :=
  if intVal ty y = 0 then cutTo ty.w64 (BitVec.allOnes 64)
  else if sat then satInt ty (exactQuot (intVal ty x) (intVal ty y)) else wrapInt ty (exactQuot (intVal ty x) (intVal ty y))

/-- `rem` of R60: the dividend for a zero divisor. -/
def remainder (ty : IntTy) (x y : DWord) : DWord :=
  if intVal ty y = 0 then cutTo ty.w64 x
  else wrapInt ty (intVal ty x - intVal ty y * exactQuot (intVal ty x) (intVal ty y))

/-- 1 when the relation holds, else 0, in one register (R65). -/
def flagOf (r : Rel) (x y : Int) : DWord :=
  if (match r with
    | .eq => x = y
    | .ne => x ≠ y
    | .lt => x < y
    | .le => x ≤ y
    | .gt => x > y
    | .ge => x ≥ y : Bool) then 1 else 0

/-- Registers of a width. -/
def regsOf (w64 : Bool) : Nat := if w64 then 2 else 1

/-- The integer arithmetic and comparisons of R59, R60 and R65. -/
def arithForm : Instr → Option LaneForm
  | .addR ty sat d a b => some (.two ty.w64 d (regsOf ty.w64) a b (fun x y => wrapOrSat ty sat (x + y) (intVal ty x + intVal ty y)))
  | .subR ty sat d a b => some (.two ty.w64 d (regsOf ty.w64) a b (fun x y => wrapOrSat ty sat (x - y) (intVal ty x - intVal ty y)))
  | .mulR ty sat d a b => some (.two ty.w64 d (regsOf ty.w64) a b (fun x y => wrapOrSat ty sat (x * y) (intVal ty x * intVal ty y)))
  | .addI32 d a imm => some (.one false d 1 a (fun x => cutTo false (x + imm.signExtend 64)))
  | .addI64 d a imm => some (.one true d 2 a (fun x => x + imm.signExtend 64))
  | .mulhi ty d a b => some (.two ty.w64 d (regsOf ty.w64) a b (highHalf ty))
  | .mad ty sat a b c => some (.three ty.w64 a b c (fun x y z =>
      wrapOrSat ty sat (x * y + z) (intVal ty x * intVal ty y + intVal ty z)))
  | .divInt ty sat d a b => some (.two ty.w64 d (regsOf ty.w64) a b (quotient ty sat))
  | .rem ty d a b => some (.two ty.w64 d (regsOf ty.w64) a b (remainder ty))
  | .minInt ty d a b => some (.two ty.w64 d (regsOf ty.w64) a b (fun x y => if intVal ty x ≤ intVal ty y then x else y))
  | .maxInt ty d a b => some (.two ty.w64 d (regsOf ty.w64) a b (fun x y => if intVal ty y ≤ intVal ty x then x else y))
  | .cmpSigned rel w64 d a b => some (.two w64 d 1 a b (fun x y => flagOf rel (intVal ⟨w64, false⟩ x) (intVal ⟨w64, false⟩ y)))
  | .cmpUnsigned rel w64 d a b => some (.two w64 d 1 a b (fun x y => flagOf rel (intVal ⟨w64, true⟩ x) (intVal ⟨w64, true⟩ y)))
  | _ => none

/-- A bit field of R63: none for an empty length or a position from 32 on; cut at bit 31. -/
def field (sx : Bool) (a : Word) (pos len : Nat) : Word :=
  if len = 0 ∨ 32 ≤ pos then 0
  else
    let n := min len (32 - pos)
    let top := a <<< (32 - pos - n)
    if sx then top.sshiftRight (32 - n) else top >>> (32 - n)

/-- A bit field put in by R63. -/
def fieldIn (base ins ctl : Word) : Word :=
  let pos := ctl.toNat % 256
  let len := ctl.toNat / 256 % 256
  if len = 0 ∨ 32 ≤ pos then base
  else
    let m := (BitVec.allOnes 32 >>> (32 - min len (32 - pos))) <<< pos
    (base &&& ~~~m) ||| ((ins <<< pos) &&& m)

/-- The bit operations of R64 on a value of a width. -/
def bitResult (op : BitOp) (w64 : Bool) (x : DWord) : DWord :=
  let w := if w64 then 64 else 32
  match op with
  | .popc => BitVec.ofNat 64 ((List.range w).filter x.getLsbD).length
  | .clz => BitVec.ofNat 64 (((List.range w).reverse.takeWhile (fun i => !x.getLsbD i)).length)
  | .ctz => BitVec.ofNat 64 (((List.range w).takeWhile (fun i => !x.getLsbD i)).length)
  | .brev => if w64 then x.reverse else (x.setWidth 32).reverse.setWidth 64
  | .not => if w64 then ~~~x else (~~~(x.setWidth 32)).setWidth 64

/-- An immediate sign-extended to 32 bits. -/
def imm32 (imm : BitVec 11) : DWord := (imm.signExtend 32).setWidth 64

/-- Logic, shifts, bit fields, selection and constants of R61 to R67. -/
def logicForm : Instr → Option LaneForm
  | .andR w64 d a b => some (.two w64 d (regsOf w64) a b (fun x y => x &&& y))
  | .orR w64 d a b => some (.two w64 d (regsOf w64) a b (fun x y => x ||| y))
  | .xorR w64 d a b => some (.two w64 d (regsOf w64) a b (fun x y => x ^^^ y))
  | .andI d a imm => some (.one false d 1 a (fun x => x &&& imm32 imm))
  | .orI d a imm => some (.one false d 1 a (fun x => x ||| imm32 imm))
  | .xorI d a imm => some (.one false d 1 a (fun x => x ^^^ imm32 imm))
  | .shlR w64 d a b => some ⟨d, regsOf w64, [⟨2, a, regsOf w64⟩, ⟨3, b, 1⟩], fun v => cutTo w64 (v.getD 0 0 <<< (v.getD 1 0).toNat)⟩
  | .shrR w64 d a b => some ⟨d, regsOf w64, [⟨2, a, regsOf w64⟩, ⟨3, b, 1⟩], fun v => cutTo w64 (v.getD 0 0) >>> (v.getD 1 0).toNat⟩
  | .sarR w64 d a b => some ⟨d, regsOf w64, [⟨2, a, regsOf w64⟩, ⟨3, b, 1⟩], fun v =>
      if w64 then (v.getD 0 0).sshiftRight (v.getD 1 0).toNat
      else (((v.getD 0 0).setWidth 32).sshiftRight (v.getD 1 0).toNat).setWidth 64⟩
  | .shlI w64 d a n => some (.one w64 d (regsOf w64) a (fun x => cutTo w64 (x <<< n.toNat)))
  | .shrI w64 d a n => some (.one w64 d (regsOf w64) a (fun x => cutTo w64 x >>> n.toNat))
  | .sarI w64 d a n => some (.one w64 d (regsOf w64) a (fun x =>
      if w64 then x.sshiftRight n.toNat else ((x.setWidth 32).sshiftRight n.toNat).setWidth 64))
  | .bfx sx a pos len => some (.three false a pos len (fun x p n => (field sx x.lo p.toNat n.toNat).setWidth 64))
  | .bfi base ins ctl => some (.three false base ins ctl (fun x y z => (fieldIn x.lo y.lo z.lo).setWidth 64))
  | .bit op w64 d a => some (.one w64 d (if w64 && (op == .brev || op == .not) then 2 else 1) a (bitResult op w64))
  | .sel c a b => some (.three false c a b (fun x y z => if x = 0 then z else y))
  | .movl d imm => some (.const d (imm.setWidth 64))
  | .movs d imm => some (.const d ((imm.signExtend 32).setWidth 64))
  | .movt (.n k) imm => some ⟨.n k, 1, [⟨1, ⟨.n k, false⟩, 1⟩], fun v => (imm ++ (v.getD 0 0).extractLsb' 0 16).setWidth 64⟩
  | _ => none

/-- The value of a source of a lane type (R77), and a result of one, rounded once (R47, R48). -/
def fin (ty : FTy) (x : DWord) : Ext := decodeF (ftyFmt ty) (x.toNat % 2 ^ 32)
/-- A result of a lane type, rounded once (R47, R48). -/
def fout (ty : FTy) (rnd : Rnd) (v : Ext) : DWord := BitVec.ofNat 64 (narrow (ftyFmt ty) rnd false v)
/-- One register that holds 1 or 0 (R82). -/
def frelFlag (r : FRel) (x y : Ext) : DWord := if frelHolds r x y then 1 else 0
/-- The sign bit of a format set, the other bits of its width kept (R83). -/
def withSign (f : Fmt) (neg : Bool) (x : DWord) : DWord :=
  BitVec.ofNat 64 (x.toNat % 2 ^ (f.width - 1) + (if neg then 2 ^ (f.width - 1) else 0))

/-- Float instructions of R79 to R85. -/
def floatForm : Instr → Option LaneForm
  | .fadd ty rnd d a b => some (.two false d 1 a b (fun x y => fout ty rnd (addExt rnd (fin ty x) (fin ty y))))
  | .fsub ty rnd d a b => some (.two false d 1 a b (fun x y => fout ty rnd (addExt rnd (fin ty x) (fin ty y).minus)))
  | .fmul ty rnd d a b => some (.two false d 1 a b (fun x y => fout ty rnd (mulExt (fin ty x) (fin ty y))))
  | .fdiv ty rnd d a b => some (.two false d 1 a b (fun x y => fout ty rnd (divExt (fin ty x) (fin ty y))))
  | .fma f16 rnd a b c =>
    let ty : FTy := if f16 then .f16 else .f32
    some (.three false a b c (fun x y z => fout ty rnd (fmaExt rnd (fin ty x) (fin ty y) (fin ty z))))
  | .fmin ty d a b => some (.two false d 1 a b (fminmax (ftyFmt ty) false))
  | .fmax ty d a b => some (.two false d 1 a b (fminmax (ftyFmt ty) true))
  | .fcmp rel f16 d a b =>
    let ty : FTy := if f16 then .f16 else .f32
    some (.two false d 1 a b (fun x y => frelFlag rel (fin ty x) (fin ty y)))
  | .abs ty d a _ => some (.one false d 1 a (withSign (ftyFmt ty) false))
  | .neg ty d a _ => some (.one false d 1 a (fun x => withSign (ftyFmt ty) (!x.getLsbD ((ftyFmt ty).width - 1)) x))
  | .csgn ty d a b => some (.two false d 1 a b (fun x y => withSign (ftyFmt ty) (y.getLsbD ((ftyFmt ty).width - 1)) x))
  | .rcp rnd d a _ => some (.one false d 1 a (fun x => fout .f32 rnd (mathExt .rcp (fin .f32 x))))
  | .rsqrt rnd d a _ => some (.one false d 1 a (fun x => fout .f32 rnd (mathExt .rsqrt (fin .f32 x))))
  | .sqrt rnd d a _ => some (.one false d 1 a (fun x => fout .f32 rnd (mathExt .sqrt (fin .f32 x))))
  | .exp2 rnd d a _ => some (.one false d 1 a (fun x => fout .f32 rnd (mathExt .exp2 (fin .f32 x))))
  | .log2 rnd d a _ => some (.one false d 1 a (fun x => fout .f32 rnd (mathExt .log2 (fin .f32 x))))
  | .class ty d a => some (.one false d 1 a (classVal (ftyFmt ty)))
  | _ => none

/-- Conversions and packed forms of R86 to R90. -/
def packForm : Instr → Option LaneForm
  | .cvt dt st rnd sat d a => some (.one false d 1 a (cvtVal dt st rnd sat))
  | .pack w d a b => some (.two false d 1 a b (fun x y =>
      ((x.lo >>> packBits w) ||| (y.lo <<< (32 - packBits w))).setWidth 64))
  | .unpk w sx d a b => some (.two false d 1 a b (fun x y =>
      (field sx x.lo (packBits w * (y.lo.toNat % (32 / packBits w))) (packBits w)).setWidth 64))
  | .dot ty a b c => some (.three false a b c (fun x y z => dotVal ty x.lo y.lo z.lo))
  | .scale rnd d a b => some (.two false d 1 a b (fun x y => scaleVal rnd x.lo y.lo))
  | _ => none

/-- Every lane-set instruction whose lanes compute each alone. -/
def laneForm (i : Instr) : Option LaneForm :=
  (arithForm i).or ((logicForm i).or ((floatForm i).or (packForm i)))

/-- Whether the form names no queue port. -/
def LaneForm.portless (r : LaneForm) : Bool := r.dst.port.isNone && r.srcs.all (fun u => u.src.reg.port.isNone)

/-- The first field that names a register from the declared count on, destination first, then A, B, C (R14, R332). -/
def LaneForm.beyond (r : LaneForm) (named : Nat) : Option Nat :=
  ((1, r.dst.top r.words) :: r.srcs.map (fun u => (u.field, u.src.reg.top u.words))).findSome?
    (fun p => match p.2 with
      | some n => if named ≤ n then some p.1 else none
      | none => none)

/-- The first field of a lane that reads a dead register or entry (R16). -/
def LaneForm.deadIn (r : LaneForm) (s : State) (c : Ctx) (lane : Nat) : Option Nat :=
  (r.srcs.find? (fun u => regsDead s.free c.sh lane u.src.reg u.words)).map (·.field)

/-- The values a lane reads (R11, R12 step 1, R16). -/
def LaneForm.reads (r : LaneForm) (s : State) (c : Ctx) (lane : Nat) : List DWord :=
  r.srcs.map (fun u => wordsVal (regsRead s.free c.sh lane u.src.reg u.words))

/-- One lane after the instruction: sources read, deaths, the result written low word lowest, or pushed high word first (R10
to R12, R15). -/
def LaneForm.lane (r : LaneForm) (s : State) (c : Ctx) (lane : Nat) (ln : Lane) : Lane :=
  let v := r.val (r.reads s c lane)
  let ws : List Word := if r.words = 1 then [v.lo] else [v.lo, v.hi]
  (ln.killUses r.srcs).writeEntries r.dst (ws.map (fun w => ⟨w, true, none⟩))

/-- The sheaf after the instruction in the lanes of a mask; the other lanes are as they were (R103). -/
def LaneForm.sheaf (r : LaneForm) (s : State) (c : Ctx) (m : Mask) : Sheaf :=
  { c.sh with lanes := mapIdxFrom (fun l ln => if m.getLsbD l then r.lane s c l ln else ln) 0 c.sh.lanes, ctl := c.onward }

/-- Whether every active lane may complete: not `.strict`, or nothing dead is read (R16). -/
def LaneForm.live (r : LaneForm) (s : State) (c : Ctx) : Bool :=
  !c.sh.strict || (maskLanes c.active).all (fun l => (r.deadIn s c l).isNone)

/-- The conditions under which a lane-set form without ports completes in every active lane. -/
def LaneForm.ready (r : LaneForm) (s : State) (c : Ctx) : Bool :=
  r.portless && (r.beyond c.sh.named).isNone && r.live s c

/-- The active lanes that read a dead source, with the field of each (R16). -/
def LaneForm.deadLanes (r : LaneForm) (s : State) (c : Ctx) : List (Nat × Nat) :=
  (maskLanes c.active).filterMap (fun l => (r.deadIn s c l).map (fun f => (l, f)))

/-! ### Queue ports (R105) -/

/-- What the port fields ask for n lanes: sources in field order, then the destination. -/
def LaneForm.ports (r : LaneForm) (n : Nat) : List PortUse :=
  r.srcs.filterMap (fun u => u.src.reg.port.map (fun h => ⟨u.field, h, false, n⟩)) ++
  (r.dst.port.map (fun h => (⟨1, h, true, n⟩ : PortUse))).toList

/-- The values of the lane of a rank: a port field gives the word popped for that rank. -/
def LaneForm.readsPopped (r : LaneForm) (s : State) (c : Ctx) (lane rank : Nat) (pops : List (List Word)) : List DWord :=
  (r.srcs.zip pops).map (fun p => match p.1.src.reg.port with
    | some _ => (p.2.getD rank 0).setWidth 64
    | none => wordsVal (regsRead s.free c.sh lane p.1.src.reg p.1.words))

/-- The machine after a form that names ports: words popped field by field, each lane's result by its rank among the active
lanes, words pushed in lane order. -/
def LaneForm.ported (r : LaneForm) (s : State) (c : Ctx) : State :=
  let ls := maskLanes c.active
  let (pops, s1) := s.popFields c.k ls.length r.srcs
  let v : Nat → DWord := fun l => r.val (r.readsPopped s c l (ls.idxOf l) pops)
  let ws : Nat → List Word := fun l => if r.words = 1 then [(v l).lo] else [(v l).lo, (v l).hi]
  let s2 := s1.modSheaf c.k (fun sh => { sh with lanes := mapIdxFrom (fun l ln => if c.active.getLsbD l then
    (ln.killUses r.srcs).writeEntries r.dst ((ws l).map (fun w => ⟨w, true, none⟩)) else ln) 0 sh.lanes })
  let s3 := match r.dst.port with
    | some h => s2.pushWords c.k h (ls.map (fun l => (v l).lo))
    | none => s2
  s3.modSheaf c.k (fun sh => { sh with ctl := { sh.ctl with splits := lset sh.ctl.splits c.j (c.sp.at (c.sp.pc + 1)) } })

/-- The instruction is one whose active lanes each compute alone, as the form says: without ports it completes where the form is
ready, and with ports where they are open and hold the words and the room (R105). -/
def CompletesAs (i : Instr) (r : LaneForm) : Prop :=
  ∀ (s : State) (c : Ctx), s.ctx = some c →
    (r.ready s c = true → exec i s = .next (s.setSheaf c.k (r.sheaf s c c.active))) ∧
    (r.portless = false → r.beyond c.sh.named = none → c.sh.strict = false →
      (r.ports (maskLanes c.active).length).findSome? (s.portFault c.sh (r.ports (maskLanes c.active).length)) = none →
      s.portsReady (s.portNeeds c.sh (r.ports (maskLanes c.active).length)) = true → exec i s = .next (r.ported s c))

/-- Whether the issuing split stops for a recorded fault before an instruction that would fault again or wait (R266); one that
replays goes on. -/
def Ctx.halts (c : Ctx) : Bool := c.sh.pend.isSome && c.sh.hand.isNone && c.sp.replay.isNone

/-- The sheaf whose issuing split does not issue for want of words or room (R105), or has stopped (R266): nothing popped, nothing
pushed. -/
def Ctx.portStalled (s : State) (c : Ctx) (needs : List PortNeed) : Sheaf :=
  let sp : Split := if c.halts then { c.sp with stall := 21, tried := true }
    else { c.sp with stall := 8, tried := true, needs := needs, since := if c.sp.stall = 8 then c.sp.since else s.cycle }
  { c.sh with ctl := { c.sh.ctl with splits := lset c.sh.ctl.splits c.j sp } }

/-! ### Named registers by index (R68) -/

/-- The index a lane reads from its source A. -/
def indexIn (s : State) (c : Ctx) (i : LSrc) (lane : Nat) : Nat := (regRead s.free c.sh lane i.reg).1.toNat

/-- The active lanes whose index is at or above the declared count. -/
def indexBeyond (s : State) (c : Ctx) (i : LSrc) : Mask :=
  maskOf ((maskLanes c.active).filter (fun l => c.sh.named ≤ indexIn s c i l))

/-- The sheaf after `nget` in the lanes of a mask: each reads the register its index names, kills only the marked index
source, and writes its destination. -/
def ngetSheaf (s : State) (c : Ctx) (d : LDst) (i : LSrc) (m : Mask) : Sheaf :=
  { c.sh with
    lanes := mapIdxFrom (fun l ln => if m.getLsbD l then
      (ln.killUses [⟨2, i, 1⟩]).writeEntries d [⟨(regRead s.free c.sh l (.n (Fin.ofNat 32 (indexIn s c i l)))).1, true, none⟩]
      else ln) 0 c.sh.lanes
    ctl := c.onward }

/-- The sheaf after `nset` in the lanes of a mask: the register each index names takes the value and is live. -/
def nsetSheaf (s : State) (c : Ctx) (i v : LSrc) (m : Mask) : Sheaf :=
  { c.sh with
    lanes := mapIdxFrom (fun l ln => if m.getLsbD l then
      let x := ln.killUses [⟨2, i, 1⟩, ⟨3, v, 1⟩]
      { x with n := lset x.n (indexIn s c i l) ⟨(regRead s.free c.sh l v.reg).1, true, none⟩ }
      else ln) 0 c.sh.lanes
    ctl := c.onward }

/-- Lanes of a mask complete, and those of another leave with a fault, if there are any. -/
def Ctx.split (s : State) (c : Ctx) (bad : Mask) (e : Exc) (sheaf : Mask → Sheaf) : Sheaf :=
  if bad = 0 then sheaf c.active else c.parkSome s (sheaf (c.active &&& ~~~bad)) bad e

/-- Whether a register of every active lane is live, or the kernel is not `.strict` (R16). -/
def liveOrLax (s : State) (c : Ctx) (r : Nat → LReg) : Bool :=
  !c.sh.strict || (maskLanes c.active).all (fun l => !regsDead s.free c.sh l (r l) 1)

/-! ### Lane-mask instructions (07 R118 to R123) -/

/-- What a lane-mask instruction reads and writes, and the value of lane L from the participants, their values of A and B,
and the width. -/
structure MaskForm where
  dst : LDst
  words : Nat
  srcs : List SrcUse
  val : Nat → List Nat → (Nat → DWord) → (Nat → DWord) → Nat → DWord

/-- Participant j counts for lane L (R120). -/
def counts (cond : LCond) (a : Nat → DWord) (l j : Nat) : Bool :=
  match cond with
  | .nz => a j != 0
  | .z => a j == 0
  | .eq => a j == a l
  | .ne => a j != a l

/-- The source lane of `lpull` (R122). -/
def pullLane (mode : PullMode) (width l : Nat) (v : Nat) (signedV : Int) : Int :=
  match mode with
  | .at => v
  | .step => (l : Int) + signedV
  | .rot => (((l + v) % width : Nat) : Int)
  | .mir => ((l ^^^ v : Nat) : Int)

/-- The value lane L takes from a source lane, its own where that is no participant (R122). -/
def pullValue (width : Nat) (ps : List Nat) (a : Nat → DWord) (l : Nat) (src : Int) : DWord :=
  if 0 ≤ src ∧ src < width ∧ src.toNat ∈ ps then a src.toNat else a l

/-- The lane-mask instructions of R119 to R123. -/
def maskForm : Instr → Option MaskForm
  | .laneid d => some ⟨d, 1, [], fun _ _ _ _ l => BitVec.ofNat 64 l⟩
  | .lmask cond w64 d a => some ⟨d, 2, [⟨2, a, regsOf w64⟩], fun _ ps a _ l => maskOf (ps.filter (counts cond a l))⟩
  | .lcount cond w64 d a => some ⟨d, 1, [⟨2, a, regsOf w64⟩], fun _ ps a _ l => BitVec.ofNat 64 (ps.countP (counts cond a l))⟩
  | .lrank cond w64 d a => some ⟨d, 1, [⟨2, a, regsOf w64⟩], fun _ ps a _ l =>
      BitVec.ofNat 64 (ps.countP (fun j => counts cond a l j && decide (j < l)))⟩
  | .lpullR mode d a b => some ⟨d, 1, [⟨2, a, 1⟩, ⟨3, b, 1⟩], fun w ps a b l =>
      pullValue w ps a l (pullLane mode w l (b l).toNat ((b l).setWidth 32).toInt)⟩
  | .lpullI mode d a v => some ⟨d, 1, [⟨2, a, 1⟩], fun w ps a _ l => pullValue w ps a l (pullLane mode w l v.toNat v.toInt)⟩
  | .lred op uns d a _ => some ⟨d, 1, [⟨2, a, 1⟩], fun _ ps a _ _ =>
      match ps with
      | [] => 0
      | j :: js => js.foldl (fun x l => redStep op ⟨false, uns⟩ x (a l)) (a j)⟩
  | _ => none

/-- The same instruction as lanes that compute each alone would see it: its fields. -/
def MaskForm.fields (r : MaskForm) : LaneForm := ⟨r.dst, r.words, r.srcs, fun _ => 0⟩

/-- The sheaf after a lane-mask instruction: every participant read before any wrote. -/
def MaskForm.sheaf (r : MaskForm) (s : State) (c : Ctx) : Sheaf :=
  let a : Nat → DWord := fun l => (r.fields.reads s c l).getD 0 0
  let b : Nat → DWord := fun l => (r.fields.reads s c l).getD 1 0
  let v : Nat → DWord := r.val c.sh.width (maskLanes c.active) a b
  { c.sh with
    lanes := mapIdxFrom (fun l ln => if c.active.getLsbD l then
      let ws : List Word := if r.words = 1 then [(v l).lo] else [(v l).lo, (v l).hi]
      (ln.killUses r.srcs).writeEntries r.dst (ws.map (fun w => ⟨w, true, none⟩)) else ln) 0 c.sh.lanes
    ctl := c.onward }

end Sys2Proof.Machine
end

