-- ==== Sys2Proof/Safety/Groups.lean ====
section
/-! DEFINITION. The terms of the statements about group-set instructions (07 R113 to R116, 06 R104): what each reads and
writes, the value it computes, and the machine that results. -/

namespace Sys2Proof.Machine

/-- What a group-set instruction reads and writes, and its value. -/
structure GroupForm where
  dst : GDst
  words : Nat
  srcs : List GUse
  val : List DWord → DWord

/-- Two sources of one width. -/
def GroupForm.two (w64 : Bool) (d : GDst) (words : Nat) (a b : GSrc) (f : DWord → DWord → DWord) : GroupForm :=
  ⟨d, words, [⟨2, a, regsOf w64⟩, ⟨3, b, regsOf w64⟩], fun v => f (v.getD 0 0) (v.getD 1 0)⟩

/-- One source. -/
def GroupForm.one (w64 : Bool) (d : GDst) (words : Nat) (a : GSrc) (f : DWord → DWord) : GroupForm :=
  ⟨d, words, [⟨2, a, regsOf w64⟩], fun v => f (v.getD 0 0)⟩

/-- An immediate of 12 bits sign-extended to 32. -/
def imm12 (imm : BitVec 12) : DWord := (imm.signExtend 32).setWidth 64

/-- The uniform ALU forms of R114, each as the lane instruction that its row names. -/
def groupForm : Instr → Option GroupForm
  | .gAddR ty sat d a b => some (.two ty.w64 d (regsOf ty.w64) a b (fun x y => wrapOrSat ty sat (x + y) (intVal ty x + intVal ty y)))
  | .gSub ty sat d a b => some (.two ty.w64 d (regsOf ty.w64) a b (fun x y => wrapOrSat ty sat (x - y) (intVal ty x - intVal ty y)))
  | .gMul ty sat d a b => some (.two ty.w64 d (regsOf ty.w64) a b (fun x y => wrapOrSat ty sat (x * y) (intVal ty x * intVal ty y)))
  | .gAddI d a imm => some (.one false d 1 a (fun x => cutTo false (x + imm.signExtend 64)))
  | .gMulhi ty d a b => some (.two ty.w64 d (regsOf ty.w64) a b (highHalf ty))
  | .gMin ty d a b => some (.two ty.w64 d (regsOf ty.w64) a b (fun x y => if intVal ty x ≤ intVal ty y then x else y))
  | .gMax ty d a b => some (.two ty.w64 d (regsOf ty.w64) a b (fun x y => if intVal ty y ≤ intVal ty x then x else y))
  | .gCmp rel uns w64 d a b => some (.two w64 d 1 a b (fun x y => flagOf rel (intVal ⟨w64, uns⟩ x) (intVal ⟨w64, uns⟩ y)))
  | .gAndR w64 d a b => some (.two w64 d (regsOf w64) a b (fun x y => x &&& y))
  | .gOrR w64 d a b => some (.two w64 d (regsOf w64) a b (fun x y => x ||| y))
  | .gXorR w64 d a b => some (.two w64 d (regsOf w64) a b (fun x y => x ^^^ y))
  | .gAndI d a imm => some (.one false d 1 a (fun x => x &&& imm12 imm))
  | .gOrI d a imm => some (.one false d 1 a (fun x => x ||| imm12 imm))
  | .gXorI d a imm => some (.one false d 1 a (fun x => x ^^^ imm12 imm))
  | .gShlR w64 d a b => some ⟨d, regsOf w64, [⟨2, a, regsOf w64⟩, ⟨3, b, 1⟩], fun v => cutTo w64 (v.getD 0 0 <<< (v.getD 1 0).toNat)⟩
  | .gShrR w64 d a b => some ⟨d, regsOf w64, [⟨2, a, regsOf w64⟩, ⟨3, b, 1⟩], fun v => cutTo w64 (v.getD 0 0) >>> (v.getD 1 0).toNat⟩
  | .gSarR w64 d a b => some ⟨d, regsOf w64, [⟨2, a, regsOf w64⟩, ⟨3, b, 1⟩], fun v =>
      if w64 then (v.getD 0 0).sshiftRight (v.getD 1 0).toNat
      else (((v.getD 0 0).setWidth 32).sshiftRight (v.getD 1 0).toNat).setWidth 64⟩
  | .gShlI w64 d a n => some (.one w64 d (regsOf w64) a (fun x => cutTo w64 (x <<< n.toNat)))
  | .gShrI w64 d a n => some (.one w64 d (regsOf w64) a (fun x => cutTo w64 x >>> n.toNat))
  | .gSarI w64 d a n => some (.one w64 d (regsOf w64) a (fun x =>
      if w64 then x.sshiftRight n.toNat else ((x.setWidth 32).sshiftRight n.toNat).setWidth 64))
  | .gBit op w64 d a => some (.one w64 d (if w64 && (op == .brev || op == .not) then 2 else 1) a (bitResult op w64))
  | .gBfx sx d a ctl => some (.two false d 1 a ctl (fun x y => (field sx x.lo (y.toNat % 256) (y.toNat / 256 % 256)).setWidth 64))
  | .gMov d a => some (.one false d 1 a (fun x => x))
  | .gMovl d imm => some ⟨d, 1, [], fun _ => imm.setWidth 64⟩
  | .gMovs d imm => some ⟨d, 1, [], fun _ => (imm.signExtend 32).setWidth 64⟩
  | .gMovt (.g k) imm => some ⟨.g k, 1, [⟨1, .g k, 1⟩], fun v => (imm ++ (v.getD 0 0).extractLsb' 0 16).setWidth 64⟩
  | .gMovt (.b k) imm => some ⟨.b k, 1, [⟨1, .b k, 1⟩], fun v => (imm ++ (v.getD 0 0).extractLsb' 0 16).setWidth 64⟩
  | _ => none

/-- Whether no source and no destination is a queue port. -/
def portlessGroup (srcs : List GUse) (d : Option GDst) : Bool :=
  srcs.all (fun u => u.src.port.isNone) && (d.bind GDst.port).isNone

/-- Whether the issuing sheaf may write the destination (R104). -/
def mayWrite (c : Ctx) : GDst → Bool
  | .b _ => c.sh.sidx == 0
  | _ => true

/-- How far the sheaf has seen the block registers, after it reads some sources (R104, log 12). -/
def seenAfter (s : State) (c : Ctx) (srcs : List GUse) : List Nat :=
  srcs.foldl (fun seen u => match u.src with
    | .b k => lset (lset seen (k.val / 2 * 2) (seesPair s c k.val).1) (k.val / 2 * 2 + 1) (seesPair s c k.val).2
    | _ => seen) c.sh.seen

/-- The machine after a group-set instruction that read some sources and writes words to a destination: a register of the
sheaf, or a block register of its workgroup (R104, R113); the split goes on. -/
def groupWritten (s : State) (c : Ctx) (srcs : List GUse) (d : GDst) (ws : List Word) : State :=
  let sh := { c.sh with seen := seenAfter s c srcs, ctl := c.onward }
  match d with
  | .g k => s.setSheaf c.k { sh with g := lsets c.sh.g k.val ws }
  | .b k => (s.setSheaf c.k sh).setWg c.sh.wg (c.wg.putBreg k.val ws)
  | .h _ => s

/-- The values a group-set instruction reads at issue (R115: all in one cycle). -/
def GroupForm.reads (r : GroupForm) (s : State) (c : Ctx) : List DWord := r.srcs.map (fun u => gRead s c u.words u.src)

/-- The words of the result, low word first. -/
def GroupForm.result (r : GroupForm) (v : List DWord) : List Word :=
  if r.words = 1 then [(r.val v).lo] else [(r.val v).lo, (r.val v).hi]

/-- The ports a group-set instruction names: sources in field order, then the destination, a word each (R105). -/
def groupUses (srcs : List GUse) (d : Option GDst) : List PortUse :=
  srcs.filterMap (fun u => u.src.port.map (fun h => ⟨u.field, h, false, 1⟩)) ++
  ((d.bind GDst.port).map (fun h => (⟨1, h, true, 1⟩ : PortUse))).toList

/-- The machine after a group-set instruction with ports: a word popped for each port source in field order, the result
written or pushed. -/
def GroupForm.ported (r : GroupForm) (s : State) (c : Ctx) : State :=
  let (vs, s1) := s.gValues c r.srcs
  (s1.gWrite c r.dst (r.result vs)).modSheaf c.k (fun sh =>
    { sh with ctl := { sh.ctl with splits := lset sh.ctl.splits c.j (c.sp.at (c.sp.pc + 1)) } })

end Sys2Proof.Machine
end

