-- ==== Sys2Proof/Safety/Control.lean ====
section
/-! DEFINITION. The terms of the statements about control flow, rendezvous and waits (04 R72 to R76, 06 R96 to R100, 07 R117,
R124 to R129). -/

namespace Sys2Proof.Machine

/-- The address a branch offset names: words from the branch itself (R35, R74). -/
def Ctx.dest (c : Ctx) (off : BitVec 18) : BitVec 78 := BitVec.ofInt 78 ((c.sp.pc.toNat : Int) + off.toInt)

/-- The sheaf whose split has read group sources and goes to an address. -/
def Ctx.sheafTo (s : State) (c : Ctx) (srcs : List GUse) (pc : BitVec 78) : Sheaf :=
  { c.sheafAt pc with seen := seenAfter s c srcs }

/-- The control state after a lane branch divides the split (R97), from the splits as they stand: the fall-through lanes keep
the entry, and the taken lanes get a new one, or go on the stack where there is no room. -/
def Ctx.divided (c : Ctx) (t : Ctl) (live taken : Mask) (dest : BitVec 78) (room : Bool) : Ctl :=
  let next := c.sp.pc + 1
  let stay (m : Mask) (pc : BitVec 78) : List Split := lset t.splits c.j { c.sp.at pc with mask := m }
  if taken = 0 ∨ dest = next then { t with splits := stay live next }
  else if live &&& ~~~taken = 0 then { t with splits := stay live dest }
  else if room then { t with splits := stay (live &&& ~~~taken) next ++ [Split.fresh dest taken] }
  else { t with splits := stay (live &&& ~~~taken) next, stack := ⟨dest, taken, false⟩ :: t.stack }

/-- Whether a lane branch defers lanes where the sheaf holds 28 elements: an older one is driven out to memory (R102). -/
def Ctx.spills (c : Ctx) (live taken : Mask) (dest : BitVec 78) (room : Bool) : Bool :=
  taken != 0 && dest != c.sp.pc + 1 && live &&& ~~~taken != 0 && !room && decide (28 ≤ c.sh.ctl.stack.length)

/-- The lanes of a mask whose register satisfies a test. -/
def lanesWhere (s : State) (c : Ctx) (m : Mask) (r : LReg) (p : Word → Bool) : Mask :=
  maskOf ((maskLanes m).filter (fun l => p (regRead s.free c.sh l r).1))

/-- The lanes of a mask whose register is dead, under `.strict` (R16). -/
def deadOf (s : State) (c : Ctx) (m : Mask) (r : LReg) : Mask :=
  maskOf ((maskLanes m).filter (fun l => c.sh.strict && regsDead s.free c.sh l r 1))

/-- A sheaf that has reconverged: where a store had reached the area of its spilled elements, its control flow is undefined from
there (R102). -/
def Sheaf.joined (sh : Sheaf) (free : Nat) : Sheaf :=
  if sh.smashed then
    { sh with
      smashed := false
      ctl := { sh.ctl with splits := mapIdxFrom (fun i sp => { sp with pc := Config.strayPc free i }) 0 sh.ctl.splits } }
  else sh

/-- The sheaf after a split meets a rendezvous that is not over (R99, R124): it exchanges with the deferred lanes, or
parks; `again` when it is to issue its instruction again on leaving the park. -/
def Ctx.meets (c : Ctx) (free : Nat) (again : Bool) : Sheaf :=
  match c.sh.ctl.stack with
  | e :: rest =>
    let ctl := { c.sh.ctl with splits := c.sh.ctl.splits.eraseIdx c.j ++ [Split.fresh e.pc e.mask]
                               stack := ⟨c.sp.pc, c.sp.mask, true⟩ :: rest }
    { c.sh with ctl := ctl }.joined free
  | [] => { c.sh with ctl := { c.sh.ctl with
      splits := lset c.sh.ctl.splits c.j { c.sp.at c.sp.pc with parked := true, again := again } } }

/-- Whether the split is its sheaf's only entry and nothing is deferred (R99). -/
def Ctx.only (c : Ctx) : Bool := c.sh.ctl.splits.length == 1 && c.sh.ctl.stack.isEmpty

/-- The sheaf after `exit` (R76, R100): the split's lanes are gone, the top deferred element takes an entry; the last lanes
close an open region (R267). -/
def Ctx.exited (c : Ctx) (free : Nat) : Sheaf :=
  let rest := c.sh.ctl.splits.eraseIdx c.j
  match c.sh.ctl.stack with
  | e :: st => { c.sh with ctl := { c.sh.ctl with splits := rest ++ [Split.fresh e.pc e.mask], stack := st } }.joined free
  | [] =>
    if rest = [] ∧ c.sh.ctl.groups = [] then
      { c.sh with ctl := { c.sh.ctl with splits := [], stack := [], origin := none }, hand := none }
    else { c.sh with ctl := { c.sh.ctl with splits := rest } }

/-- The issuing split does not issue, for a reason of R318. -/
def Ctx.stalled (c : Ctx) (code : Nat) : Sheaf :=
  { c.sh with ctl := { c.sh.ctl with splits := lset c.sh.ctl.splits c.j { c.sp with stall := code, tried := true } } }

/-- The issuing split waits; the instruction is not over (R110). -/
def Ctx.waiting (c : Ctx) (w : Wait) : Sheaf :=
  { c.sh with wait := some w
              ctl := { c.sh.ctl with splits := lset c.sh.ctl.splits c.j { c.sp with stall := w.code } } }

/-- The region stack after `enter` (R129). -/
def regionEnter (marks : List (BitVec 16)) (depth : Nat) (a : Word) : List (BitVec 16) × Nat :=
  (if depth < 8 then lset marks depth (a.setWidth 16) else marks, if depth < 0xFFFF then depth + 1 else depth)

/-- The region stack after `leave` (R129). -/
def regionLeave (marks : List (BitVec 16)) (depth : Nat) : List (BitVec 16) × Nat :=
  if depth = 0 then (marks, depth) else (if depth - 1 < 8 then lset marks (depth - 1) 0 else marks, depth - 1)

/-- A limit of `waitc` is met (R72). -/
def limitMet (lim : WaitLim) (n : Nat) : Bool := lim == 15 || decide (n ≤ lim.toNat)

end Sys2Proof.Machine
end

