-- ==== Sys2Proof/Safety/Memory.lean ====
section
/-! DEFINITION. The terms of the statements about memory instructions and the moments their accesses perform (01 R19, R22, 04 R69
to R71, 10 R162 to R165, 11 R177 to R181). -/

namespace Sys2Proof.Machine

/-- A plain load of a size: destination words, offset in units of the size (R69). -/
def loadForm (d : LDst) (m : MemM) (size words : Nat) (sx : Bool) : MemReq :=
  ⟨some (d, words), none, m.base, m.seg, size * m.off.toInt, size, false, .rd, .rlx, .sh, fun _ off => .load size off sx⟩

/-- A plain store of a size: data words (R70). -/
def storeForm (v : LReg) (m : MemM) (size words : Nat) : MemReq :=
  ⟨none, some (v, words), m.base, m.seg, size * m.off.toInt, size, false, .wr, .rlx, .sh, fun _ _ => .store⟩

/-- An atomic: the old value is pushed, the data words give the operand (R178, R179). -/
def atomicForm (v : LReg) (words : Nat) (m : MemA) (w64 : Bool) (fn : List Word → AtomFn) : MemReq :=
  ⟨some (.push, regsOf w64), some (v, words), m.base, m.seg, 0, if w64 then 8 else 4, true, .wr, m.ord, m.scope,
    fun ws _ => .atom (fn ws) w64 (wordsVal (ws.take (regsOf w64)))⟩

/-- What each lane memory instruction asks for: R69, R70, R177 to R179. -/
def memForm : Instr → Option MemReq
  | .ldI8 d m => some (loadForm d m 1 1 true)
  | .ldFp8 d m => some (loadForm d m 1 1 false)
  | .ldH16 d m => some (loadForm d m 2 1 false)
  | .ldW32 d m => some (loadForm d m 4 1 false)
  | .ldD64 d m => some (loadForm d m 8 2 false)
  | .ldq d m => some (loadForm d m 16 4 false)
  | .stB8 v m => some (storeForm v m 1 1)
  | .stH16 v m => some (storeForm v m 2 1)
  | .stW32 v m => some (storeForm v m 4 1)
  | .stD64 v m => some (storeForm v m 8 2)
  | .stq v m => some (storeForm v m 16 4)
  | .ldOrdered w64 d m => some ⟨some (d, regsOf w64), none, m.base, m.seg, 0, if w64 then 8 else 4, true, .rd, m.ord, m.scope,
      fun _ off => .load (if w64 then 8 else 4) off false⟩
  | .stOrdered w64 v m => some ⟨none, some (v, regsOf w64), m.base, m.seg, 0, if w64 then 8 else 4, true, .wr, m.ord, m.scope,
      fun _ _ => .store⟩
  | .atom32 op v m => some (atomicForm v 1 m false (fun _ => .op op))
  | .atom64 op v m => some (atomicForm v 2 m true (fun _ => .op op))
  | .xchg w64 v m => some (atomicForm v (regsOf w64) m w64 (fun _ => .xchg))
  | .cas w64 v m => some (atomicForm v (2 * regsOf w64) m w64 (fun ws => .cas (wordsVal (ws.drop (regsOf w64)))))
  | _ => none

/-- The offset a lane's base pair holds, before the immediate (R19). -/
def MemReq.offset (r : MemReq) (s : State) (c : Ctx) (lane : Nat) : Int :=
  ((wordsVal (regsRead s.free c.sh lane r.base.reg 2)).toNat : Int) + r.imm

/-- The segment descriptor an access goes through. -/
def MemReq.segment (r : MemReq) (c : Ctx) : Segment := lget ⟨0, 0, false⟩ c.sh.segs r.seg.val

/-- The address of R19, none outside the segment. -/
def MemReq.address (r : MemReq) (s : State) (c : Ctx) (lane : Nat) : Option Addr :=
  let o := r.offset s c lane
  if (r.segment c).v && decide (0 ≤ o) && decide (o + (r.size : Int) - 1 ≤ (r.segment c).last.toNat) then
    some ((r.segment c).base + BitVec.ofInt 80 o) else none

/-- The data words a lane stores. -/
def MemReq.words (r : MemReq) (s : State) (c : Ctx) (lane : Nat) : List Word :=
  match r.data with
  | some (v, n) => regsRead s.free c.sh lane v n
  | none => []

/-- The first field, destination, data, then A, that names a register from the declared count on (R14). -/
def MemReq.beyond (r : MemReq) (named : Nat) : Bool :=
  r.regs.any (fun p => match p.2 with | some n => decide (named ≤ n) | none => false)

/-- Whether nothing a lane reads is dead, or the kernel is not `.strict` (R16). -/
def MemReq.live (r : MemReq) (s : State) (c : Ctx) (lane : Nat) : Bool :=
  !c.sh.strict || (!regsDead s.free c.sh lane r.base.reg 2 &&
    (match r.data with | some (v, n) => !regsDead s.free c.sh lane v n | none => true))

/-- Where a lane's access leads, part by part, when nothing is in its way: the address of R19, aligned where R162 asks for it,
each part translated and permitted. -/
def MemReq.reached (r : MemReq) (s : State) (c : Ctx) (lane : Nat) : Option (Addr × List Part) :=
  match r.address s c lane with
  | none => none
  | some ea =>
    if r.exact && ea.toNat % r.size != 0 then none
    else match s.planAt c r ea with
      | .ok e parts =>
        if r.access == .wr && s.pageRefuses (r.words s c lane) parts then none else some (e, parts)
      | _ => none

/-- Whether a lane memory instruction completes in every active lane: no port, registers in range, counter below 63 (R71). -/
def MemReq.ready (r : MemReq) (s : State) (c : Ctx) : Bool :=
  c.sp.replay.isNone && c.active != 0 && !r.beyond c.sh.named &&
  (match r.data with | some (v, _) => v.port.isNone | none => true) &&
  decide ((if r.dst.isNone then c.sh.stores else c.sh.loads) < 63) &&
  (maskLanes c.active).all (fun l => r.live s c l && (r.reached s c l).isSome)

/-- The parts of every active lane's access, in lane order and address order. -/
def MemReq.parts (r : MemReq) (s : State) (c : Ctx) : List (Nat × Addr × Part) :=
  (maskLanes c.active).flatMap (fun l => match r.reached s c l with
    | some (ea, ps) => ps.map (fun p => (l, ea, p))
    | none => [])

/-- The accesses outstanding from the issue on: address formed and data read (R69, R70); on an SO page every access is
ordered at the device (R165, rows 7 and 8). -/
def MemReq.accesses (r : MemReq) (s : State) (c : Ctx) : List Acc :=
  mapIdxFrom (fun i x =>
    let (l, ea, p) := x
    { id := s.nextKey + 1 + i, iss := s.nextKey, op := s.nextKey, k := c.k, site := c.wg.site, lane := l, kind := r.kind (r.words s c l) p.off
      asid := c.wg.asid, va := s.servedAt (viaOf c.k c.sh c.wg r.seg.val) (ea + BitVec.ofNat 80 p.off) p.len, place := p.place, size := p.len
      data := ((wordBytes (r.words s c l)).drop p.off).take p.len
      ord := if p.pk == .so then .ar else r.ord, scope := r.scope.onPage p.pk, pk := p.pk
      stage := .issued, srcs := [], org := some ⟨c.sp.pc, s.word, c.sh.ctl.origin, c.sh.hand.map (·.no)⟩ : Acc }) 0 (r.parts s c)

/-- The sheaf after the issue: destinations reserved and live, a marked base dead, the counter raised by one (R15, R22, R71). -/
def MemReq.sheaf (r : MemReq) (s : State) (c : Ctx) : Sheaf :=
  { c.sh with
    lanes := mapIdxFrom (fun l ln => if c.active.getLsbD l then
      let ln' := if r.base.last then ln.killRegs r.base.reg 2 else ln
      match r.dst with
      | some (d, n) => ln'.writeEntries d ((List.range n).map (fun i => ⟨0, true, some ⟨s.nextKey, i, false⟩⟩))
      | none => ln' else ln) 0 c.sh.lanes
    loads := if r.dst.isNone then c.sh.loads else c.sh.loads + 1
    stores := if r.dst.isNone then c.sh.stores + 1 else c.sh.stores
    ctl := c.onward }

/-- Whether a place holds plain bytes of the memory: no counter control page, no push window, and not beyond its end. -/
def State.plainAt (s : State) (pa : Nat) : Bool := (s.ctrAt pa).isNone && (s.windowAt pa).isNone && decide (pa < Config.hbmBytes)

/-- Access identifiers are distinct. -/
def State.idsDistinct (s : State) : Bool := decide (s.accs.map (·.id)).Nodup

/-- The outstanding accesses of a load's operation. -/
def State.sameOp (s : State) (a : Acc) : List Acc := s.accs.filter (fun b => b.k == a.k && b.kind.loads && b.op == a.op)

/-- The operations of a sheaf's loads class that are not over, those that a replay holds open among them (R71, R72). -/
def State.loadOps (s : State) (k : Nat) (sh : Sheaf) : List Nat :=
  (s.accs.filter (fun b => b.k == k && b.kind.loads && b.stage != .done)).map (·.op) ++
  (sh.openOps.filter (fun o => !o.store)).map (·.op)

/-- The loads of an access's sheaf as they stand before its data come: one access a lane of its operation, none of it over, and no
other operation with data that have come. -/
structure State.Orderly (s : State) (a : Acc) : Prop where
  ids : s.idsDistinct = true
  lanes : ((s.sameOp a).map (·.lane)).Nodup
  unfinished : ∀ b ∈ s.sameOp a, b.stage ≠ .done
  others : ∀ b ∈ s.accs, b.k = a.k → b.kind.loads = true → b.op ≠ a.op → b.stage ≠ .seen

/-- Whether an operation is over with an access's data: every other lane's have come, no replay holds it open, and no earlier
operation of the loads class is outstanding (R71, R72). -/
def State.endsOp (s : State) (a : Acc) (sh : Sheaf) : Bool :=
  (s.sameOp a).all (fun b => b.id == a.id || b.stage == .seen) && (s.loadOps a.k sh).all (fun o => decide (a.op ≤ o)) &&
  !(sh.openOps.any (fun o => !o.store && o.op == a.op))

/-- The sheaf once an access's data have come (R22, R71, R72): where its operation is over, the reserved entries of every lane that has
not exited hold the words that come to it, and the loads counter falls; the entries stay reserved until a `waitc` covers them. -/
def State.loaded (s : State) (a : Acc) (sh : Sheaf) (words : Acc → List Word) : Sheaf :=
  if s.endsOp a sh then
    { sh with
      lanes := mapIdxFrom (fun l ln => match (s.sameOp a).find? (fun b => b.lane == l) with
        | some b => if sh.ctl.live.getLsbD l then Lane.fill a.op (words b) ln else ln
        | none => ln) 0 sh.lanes
      loads := sh.loads - 1 }
  else sh

/-- Whether a write to memory reaches the area of a sheaf's spilled stack elements: 576 bytes below `seg3`, of a sheaf of width 32 or
64 (R102). -/
def State.overSpill (s : State) (a : Acc) (sh : Sheaf) : Bool :=
  let base := (lget ⟨0, 0, false⟩ sh.segs 3).base.toNat
  decide (32 ≤ sh.width) && (match s.wg sh.wg with | some w => w.asid == a.asid | none => false) &&
  decide (base - 576 < a.va.toNat + a.size) && decide (a.va.toNat < base)

/-- A load's value in whole registers: sign- or zero-extended below 4 bytes (R69). -/
def extended (total : Nat) (sx : Bool) (bs : List Byte) : List Word :=
  match total, bs with
  | 1, b :: _ => [if sx then b.signExtend 32 else b.setWidth 32]
  | 2, a :: b :: _ => [if sx then (b ++ a : BitVec 16).signExtend 32 else (b ++ a : BitVec 16).setWidth 32]
  | _, _ => leWords bs

/-- What an atomic leaves in its word (R178, R179). -/
def atomicResult (fn : AtomFn) (w64 : Bool) (old v : DWord) : DWord :=
  let cut : DWord → DWord := fun x => if w64 then x else (x.setWidth 32).setWidth 64
  match fn with
  | .xchg => v
  | .cas w => if cut old = cut v then w else old
  | .op .add => old + v
  | .op .and => old &&& v
  | .op .or => old ||| v
  | .op .xor => old ^^^ v
  | .op .min => if (if w64 then v.toInt < old.toInt else (v.setWidth 32).toInt < (old.setWidth 32).toInt) then v else old
  | .op .max => if (if w64 then old.toInt < v.toInt else (old.setWidth 32).toInt < (v.setWidth 32).toInt) then v else old
  | .op .minn => if (cut v).toNat < (cut old).toNat then v else old
  | .op .maxn => if (cut old).toNat < (cut v).toNat then v else old

end Sys2Proof.Machine
end

