-- ==== Sys2Proof/Safety/Waits.lean ====
section
/-! DEFINITION. The terms of the statements about waiting instructions and the events that end their waits (04 R72, 07 R124 to
R128, 11 R182, 16 R247), and about group-set instructions that access memory (01 R19, 16 R245). -/

namespace Sys2Proof.Machine

/-- The machine once the issuing split has read some group sources, none of them a port. -/
def Ctx.looked (s : State) (c : Ctx) (srcs : List GUse) : State := s.setSheaf c.k { c.sh with seen := seenAfter s c srcs }

/-- The address of R19 for a group-set instruction, none outside the segment. -/
def Ctx.address (c : Ctx) (seg : Fin 8) (off : DWord) (size : Nat) : Option Addr :=
  let sg := lget ⟨0, 0, false⟩ c.sh.segs seg.val
  if sg.v && decide (off.toNat + size ≤ sg.last.toNat + 1) then some (sg.base + BitVec.ofNat 80 off.toNat) else none

/-- Where a group-set instruction's aligned access leads, once its sources are read: the address and the pieces. -/
def Ctx.spot (s : State) (c : Ctx) (srcs : List GUse) (seg : Fin 8) (off : DWord) (size align : Nat) (a : Access) :
    Option (Addr × List (Place × Nat)) :=
  match c.address seg off size with
  | none => none
  | some ea =>
    if ea.toNat % align = 0 then
      match (c.looked s srcs).reachRange (viaOf c.k c.sh c.wg seg.val) ea size a with
      | .ok ps => some (ea, ps)
      | .error _ => none
    else none

/-- Where an aligned structure named by a short address lies, once the sources are read (R245). -/
def Ctx.shortSpot (s : State) (c : Ctx) (srcs : List GUse) (future : Bool) (p : DWord) (size align : Nat) (a : Access) :
    Option (List (Place × Nat)) :=
  if p.toNat % align = 0 then
    match (c.looked s srcs).reachShort (viaOf c.k c.sh c.wg 0) future p size a with
    | .ok ps => some ps
    | .error _ => none
  else none

/-- The first class of `waitc`, in order, whose count is above its limit, as its stall reason (R72, R318). -/
def waitcHeld (c : Ctx) (lds sts cps tls : WaitLim) : Option Nat :=
  if !limitMet lds c.sh.loads then some 3
  else if !limitMet sts c.sh.stores then some 4
  else if !limitMet cps c.sh.copies then some 5
  else if !limitMet tls c.sh.tiles then some 6
  else none

/-- A sheaf whose barrier is passed: it waits no longer and its split stands behind the `bar`, at once or, where a save has met it,
in the state that its restore gives back (R124, R125). -/
def Sheaf.behindBar (sh : Sheaf) (w : Wait) : Sheaf :=
  let past (t : Ctl) : Ctl := { t with splits := t.splits.map (fun x => x.at (x.pc + 1)) }
  if sh.wait = some w then { sh with wait := none, ctl := past sh.ctl }
  else match sh.hand with
    | some h => { sh with recorded := none, hand := some { h with saved := past h.saved } }
    | none => { sh with recorded := none, ctl := past sh.ctl }

/-- A sheaf has arrived at a barrier: it waits there, or did when a save met it (R125). -/
def Sheaf.atBar (sh : Sheaf) (w : Wait) : Prop := sh.wait = some w ∨ sh.recorded = some w

/-- The sheaves that one barrier holds: of the workgroup, or of its gang (R124, R125). -/
def Ctx.held (s : State) (c : Ctx) (gg : Bool) (x : Sheaf) : Bool :=
  if gg then ((kget s.gangs c.wg.gang).elim [] (fun g => g.members)).contains x.wg else x.wg == c.sh.wg

/-- Every access of the sheaves that a barrier holds has performed at its scope (R125, R166). -/
def Ctx.drained (s : State) (c : Ctx) (gg : Bool) : Bool :=
  s.accs.all (fun a => !(a.kind.reads || a.kind.writes) || a.performedAt (if gg then .gg else .wg) ||
    s.sheaves.all (fun p => p.1 != a.k || !c.held s gg p.2))

/-- The machine after a sheaf gives way (R126): its greedy run ends on both pipes of its scheduler and its split stands at the
next word; nothing else changes. -/
def Ctx.gaveWay (s : State) (c : Ctx) : State :=
  (s.setCore c.wg.site { s.core c.wg.site with
    greedy := mapIdxFrom (fun i x => if i / 2 = c.sh.slot % 4 ∧ x = some c.k then none else x) 0 (s.core c.wg.site).greedy
    }).setSheaf c.k { c.sheafAt (c.sp.pc + 1) with yielded := true, yieldedG := true }

/-- The instruction that a sheaf waits in is over: its split stands behind it. -/
def Sheaf.pastWait (sh : Sheaf) (j : Nat) : Sheaf :=
  { sh with wait := none
            ctl := { sh.ctl with splits := lmod (fun x => x.at (x.pc + 1)) sh.ctl.splits j } }

/-- A sheaf with the timer trap pending (R128): its wait or sleep is over, its comparator is disarmed, every split stops, and
the record shows the oldest running split's instruction. -/
def Sheaf.timed (sh : Sheaf) : Sheaf :=
  let pc := ((sh.ctl.splits.filter (fun x => !x.parked)).headD (Split.fresh 0 0)).pc
  { sh with
    wait := none, sleep := none
    ctl := { sh.ctl with cmp := 0, splits := sh.ctl.splits.map (fun x => { x with stall := 21 }) }
    pend := some
      { code := 0x1B, opnd := 0, imm := 0, word := 0, pc := pc, lanes := 0, addr := 0, alloc := 0, aux := 0
        rpc := (byteAddr pc).setWidth 64, save := 0, restore := false, target := sh.trapEntry, site := 0 } }

/-- Whether a sheaf can take the timer trap now: nothing pending, no handler, no restart, not halted, no save, no write-back of its
own (R128, R190, R276). -/
def Sheaf.timerFree (sh : Sheaf) : Bool :=
  sh.pend.isNone && sh.hand.isNone && !sh.restarting && !sh.finished && !sh.halted && !sh.preempt &&
    sh.saving == .none && !sh.writing

end Sys2Proof.Machine
end

