-- ==== Sys2Proof/Safety/Granary.lean ====
section
/-! DEFINITION. The terms of the statements about segment descriptors and the granary (09 R142 to R154, 11 R184 to R192). -/

namespace Sys2Proof.Machine

/-- The two words of a pair, low word first. -/
def pairWords (v : DWord) : List Word := [v.lo, v.hi]

/-- A field of a segment descriptor as `getseg` returns it (R184). -/
def segmentField (g : Segment) (part : Fin 4) : DWord :=
  match part with
  | 0 => g.base.setWidth 64
  | 1 => g.last
  | 2 => (g.base >>> 64).setWidth 64
  | 3 => if g.v then 1 else 0

/-- The sheaf after `setseg` with a source x writes segment `seg`. -/
def Ctx.withSegment (s : State) (c : Ctx) (srcs : List GUse) (seg : Fin 8) (g : Segment) : Sheaf :=
  { c.sheafTo s srcs (c.sp.pc + 1) with segs := lset c.sh.segs seg.val g }

/-- The allocation of the issuing workgroup that an allocation operand names (R185). -/
def Ctx.allocNamed (s : State) (c : Ctx) (v : Word) : Option Alloc :=
  let found (id : BitVec 16) : Option Alloc :=
    ((s.core c.wg.site).allocs.find? (fun a => a.id == id)).filter (fun a => a.wg == c.sh.wg && !a.journal)
  if v.toNat = 0 then none
  else if v.toNat < 0x10000 then found (BitVec.ofNat 16 v.toNat)
  else if 0xFFFF0000 ≤ v.toNat ∧ v.toNat ≤ 0xFFFF000F then
    match c.wg.decls[v.toNat - 0xFFFF0000]? with
    | some id => (found id).filter (fun a => a.decl)
    | none => none
  else none

/-- Word 0 of an allocation entry (R145). -/
def entryWord (a : Alloc) : Word :=
  let state : BitVec 2 := match a.state with | .lit => 0 | .dark => 1 | .refilling => 2 | .shadowed => 3
  let flags : BitVec 2 := (if a.relit then 2 else 0) ||| (if a.decl then 1 else 0)
  (flags ++ BitVec.ofNat 3 a.rank ++ state ++ a.id).setWidth 32

/-- Granules that a size in bytes is rounded up to (R142, R186). -/
def granulesOf (bytes : Nat) : Nat := if bytes % 16384 = 0 then bytes / 16384 else bytes / 16384 + 1

/-- Whether some window range of n granules is free on a core (R142). -/
def State.windowRoom (s : State) (site n : Nat) : Bool :=
  (List.range (513 - n)).any (fun lo => windowFree (s.core site).allocs lo n)

/-- The allocation whose glean handler the issuing sheaf runs and that a relight names, where the relight succeeds (R187). -/
def Ctx.relights (s : State) (c : Ctx) (id : BitVec 16) : Option Nat :=
  match c.sh.hand with
  | none => none
  | some h =>
    match s.alloc h.site id with
    | none => none
    | some a =>
      if h.glean = true ∧ h.id = id ∧ a.state = .refilling ∧ a.relit = false ∧ a.handSheaf = some c.k ∧
          s.granulesFit h.site a.size 0 = true then some h.site else none

/-- Whether no outstanding access touches an allocation. -/
def State.untouched (s : State) (site : Nat) (id : BitVec 16) : Bool := s.accs.all (fun a => !inAlloc site id a)

/-- Where the backing copy of an allocation lies, once the sources are read (R190). -/
def Ctx.backingSpot (s : State) (c : Ctx) (srcs : List GUse) (a : Alloc) : Option (List (Place × Nat)) :=
  match (c.looked s srcs).reachRange (viaOf c.k c.sh c.wg 0) (a.backing.setWidth 80) (a.size * 16384) .wr with
  | .ok ps => some ps
  | .error _ => none

/-- The die after a new level is posted (R149): a rise takes effect at once, a level at or above the current one ends a notice,
a fall is pending for 35,000 cycles from the first notice, or from one that is lower than the one already pending. -/
def levelAfter (d : Die) (level now : Nat) : Die :=
  if d.level ≤ level then { d with level := level, pending := none }
  else
    { d with pending := some (level, match d.pending with
        | none => now + 35000
        | some (p, t) => if level < p then now + 35000 else t) }

/-- The machine once a die has a level of its own temperature limit, and placement has been retried where that is a rise (R132, R149,
R303); the clock is restored once no die has a fall pending. -/
def State.limited (s : State) (die level : Nat) : State :=
  let d := s.die die
  let t := s.setDie die (levelAfter { d with limit := level } level s.cycle)
  let u := if d.level < level then t.retryAll else t
  if (∀ n ∈ List.range 4, (u.die n).pending = none) then { u with clock := u.floorClock } else u

/-- A sheaf whose write-back is over: behind its `shadow`, where a fault that has come meanwhile stops it (R190, R266). -/
def Sheaf.writtenBack (sh : Sheaf) : Sheaf :=
  let past := sh.pastWait sh.waiter
  if sh.pend.isSome && sh.hand.isNone then
    { past with ctl := { past.ctl with splits := past.ctl.splits.map (fun x => { x with stall := 21 }) } }
  else past

/-- An allocation is no candidate of a loss point: it holds no granules, or is pinned (R151). -/
def Alloc.safe (a : Alloc) : Bool := !a.holds || a.rank == 7

/-- What an allocation becomes when a loss point chooses it (R151): dark, or refilling with its storage gone. -/
def Alloc.lost (a : Alloc) : Alloc :=
  { a with state := (if a.state = .lit then .dark else a.state), relit := a.relit && a.state == .lit, data := [] }

end Sys2Proof.Machine
end

