-- ==== Sys2Proof/Safety/Traps.lean ====
section
/-! DEFINITION. The terms of the statements about faults, handlers, regions and saves (18 R264 to R280, R332, R333). -/

namespace Sys2Proof.Machine

/-- The workgroup `wg` is killed between two states (R240, R270): its sheaves have no split, no pending fault and no handler
left, their registers are as they were where no replay was open, and no other sheaf and no byte of memory changes. -/
def Killed (s t : State) (wg : Nat) : Prop :=
  (∃ w, t.wg wg = some w ∧ w.killed = true) ∧
  (∀ k sh, s.sheaf k = some sh →
    if sh.wg = wg then ∃ sh', t.sheaf k = some sh' ∧ sh'.finished = true ∧ sh'.pend = none ∧ sh'.hand = none ∧
      (sh.openOps = [] → sh'.lanes = sh.lanes)
    else t.sheaf k = some sh) ∧
  t.mem = s.mem

/-- The 64 bytes of a fault record, field by field (R271). -/
def recordBytes (f : FaultRec) (sh : Sheaf) (live : Mask) (timerDue : Bool) : List Byte :=
  let flag (b : Bool) : BitVec 1 := if b then 1 else 0
  let qlive : BitVec 16 := (List.range 16).foldl (fun m k =>
    if (maskLanes live).any (fun l => (lget Entry.dead (lget Lane.launch sh.lanes l).q k).live) then m ||| (1 <<< k) else m) 0
  let head : BitVec 32 := 0#4 ++ f.imm ++ flag sh.engine.isSome ++ flag timerDue ++ flag sh.slice ++ flag sh.preempt ++
    flag f.restore ++ BitVec.ofNat 3 f.opnd ++ BitVec.ofNat 8 f.code
  let words : List DWord := [f.word ++ head, (byteAddr f.pc).setWidth 64, f.lanes, f.addr.setWidth 64,
    f.aux ++ f.alloc ++ f.addr.extractLsb' 64 16, f.save, f.rpc, 0#32 ++ BitVec.ofNat 16 sh.ctl.restarts ++ qlive]
  words.flatMap (fun w => leBytes 8 w.toNat)

/-- A sheaf that has entered a handler (R270): the queues of its live lanes are frozen and start afresh, the control state is set
aside, and one split of the live lanes stands at the target; registers, segments and ports are as they were. -/
def Sheaf.entered (sh : Sheaf) (f : FaultRec) (no : Nat) : Sheaf :=
  let live := sh.ctl.live
  { sh with
    lanes := mapIdxFrom (fun i l => if live.getLsbD i then
      { l with frozen := l.q, q := List.replicate 16 Entry.dead } else l) 0 sh.lanes
    hand := some { glean := f.code == 0x0C, fault := f, saved := sh.ctl, site := f.site, id := f.alloc, no := no }
    pend := none
    ctl := { splits := [Split.fresh (BitVec.ofNat 78 (f.target.toNat / 4)) live], stack := [], groups := [], origin := none
             restarts := 0, cmp := sh.ctl.cmp } }

/-- The interrupted control state as a return restores it, while its splits fit in the split table (R272): lanes that left in the
handler are gone, the recorded lanes stand at RPC and every other fault-parked group at its own instruction. -/
def Ctl.returned (t : Ctl) (live : Mask) (rpc : Option (BitVec 78)) : Ctl :=
  let kept := t.splits.map (fun x => { x with mask := x.mask &&& live, stall := 0, tried := false })
  let back := t.groups.map (fun g => Split.fresh (if g.recorded then rpc.getD g.pc else g.pc) (g.mask &&& live))
  { t with
    splits := (kept ++ back).filter (fun x => x.mask ≠ 0)
    stack := (t.stack.map (fun d => { d with mask := d.mask &&& live })).filter (fun d => d.mask ≠ 0)
    groups := [] }

/-- The machine after a save's handler returns (R156, R272, R278): the sheaf is saved, its control state kept for its restore, and with
sheaf 0's the states of its workgroup's allocations are those of the save. -/
def Ctx.savedBy (s : State) (c : Ctx) (h : Handler) : State :=
  let t := s.setSheaf c.k { c.sh with ctl := h.saved.returned c.sh.ctl.live none, hand := none, saving := .saved }
  if c.sh.sidx = 0 then t.setWg c.sh.wg { c.wg with savedAllocs := some (s.entriesOf c.sh.wg c.wg.site) } else t

/-- The barrier at which a sheaf that is restored had arrived (R125). -/
def Sheaf.barrierAgain (sh : Sheaf) : Option Wait :=
  if sh.recorded = some .barWg ∨ sh.recorded = some .barGg then sh.recorded else none

/-- The sheaf that a return from a handler leaves (R272, R333): with `RESTORE` the handler's queues stay, and a wait at a barrier
and a sleep go on (R125, R127), else the frozen queues come back; a held engine fault is pending now and stops every split. -/
def Sheaf.returned (sh : Sheaf) (h : Handler) (rpc : Option (BitVec 78)) : Sheaf :=
  let live := sh.ctl.live
  let back := h.saved.returned live rpc
  { sh with
    lanes := if h.fault.restore then sh.lanes
      else mapIdxFrom (fun i l => if live.getLsbD i then { l with q := l.frozen } else l) 0 sh.lanes
    hand := none
    pend := sh.engine
    engine := none
    recorded := if h.fault.restore then none else sh.recorded
    nap := if h.fault.restore then none else sh.nap
    saving := if h.fault.restore then .none else sh.saving
    wait := if sh.engine ≠ none then none else if h.fault.restore then sh.barrierAgain else sh.wait
    sleep := if sh.engine ≠ none then none else if h.fault.restore then sh.nap else sh.sleep
    ctl := if sh.engine ≠ none then { back with splits := back.splits.map (fun x => { x with stall := 21 }) }
      else if h.fault.restore = true ∧ sh.barrierAgain ≠ none then { back with splits := back.splits.map (fun x => { x with stall := 10 }) }
      else back }

/-- Whether the interrupted splits and groups fit in the room that the split table has for the sheaf (R96). -/
def Handler.fits (h : Handler) (room : Nat) : Bool := decide (h.saved.splits.length + h.saved.groups.length ≤ room)

/-- A sheaf at the origin of its region again (R269): its queues are dead, what its loads had still to bring is undefined, its
counters are zero, one split of the origin's lanes stands at the origin, and its restart count has risen by one. -/
def Sheaf.restarted (sh : Sheaf) (free : Nat) (origin : BitVec 78) (mask : Mask) : Sheaf :=
  { sh with
    lanes := mapIdxFrom (fun i (l : Lane) => { l with
      q := List.replicate 16 Entry.dead
      n := mapIdxFrom (fun j (e : Entry) =>
        if e.rsv = none then e else { e with val := Config.undef free i (16 + j), rsv := none }) 0 l.n }) 0 sh.lanes
    ctl := { sh.ctl with splits := [Split.fresh origin mask], stack := [], groups := [], restarts := sh.ctl.restarts + 1 }
    loads := 0, stores := 0, wait := none, sleep := none, restarting := false }

/-- The record of an engine fault of an operation (R271, R333). -/
def engineRecord (sh : Sheaf) (pc : BitVec 78) (word code : Word) : FaultRec :=
  { code := 0x1F, opnd := 0, imm := 0, word := word, pc := pc, lanes := 0, addr := 0, alloc := 0, aux := code
    rpc := (byteAddr pc).setWidth 64, save := 0, restore := false, target := sh.trapEntry, site := 0 }

/-- Every split of a sheaf stops before its next instruction (R266), and a wait or sleep is over; a sheaf that waits for its own
write-back waits on at its `shadow` (R190). -/
def Sheaf.halted21 (sh : Sheaf) : Sheaf :=
  if sh.writing then
    { sh with ctl := { sh.ctl with
      splits := mapIdxFrom (fun i x => if i = sh.waiter then x else { x with stall := 21 }) 0 sh.ctl.splits } }
  else
    { sh with wait := none, sleep := none
              ctl := { sh.ctl with splits := sh.ctl.splits.map (fun x => { x with stall := 21 }) } }

/-- What an engine fault of an operation makes of its sheaf, the operation's counter already lowered (R269, R333); none where it
kills the workgroup. `task`: the sheaf runs a task. -/
def Sheaf.engineMet (sh : Sheaf) (task : Bool) (region : Option (BitVec 78 × Mask)) (byHand : Option Nat) (pc : BitVec 78) (word code : Word) :
    Option Sheaf :=
  let opened := (match sh.hand with | some h => h.saved.origin | none => sh.ctl.origin)
  let count := (match sh.hand with | some h => h.saved.restarts | none => sh.ctl.restarts)
  let ended := sh.ctl.splits = [] ∧ sh.ctl.stack = [] ∧ sh.ctl.groups = []
  if ended then some (if task = true ∧ sh.ended = false then { sh with restarting := true } else sh)
  else if sh.hand.any (fun h => byHand == some h.no) then none
  else if region ≠ none ∧ region = opened ∧ count < 16 then
    (if sh.hand = none then some { sh.halted21 with restarting := true, pend := sh.pend.filter (fun f => f.code == 0x1B || f.code == 0x1F) }
     else some { sh with restarting := true })
  else if sh.pend = none ∧ sh.hand = none then some { sh.halted21 with pend := some (engineRecord sh pc word code) }
  else if sh.engine = none then some { sh with engine := some (engineRecord sh pc word code) }
  else some sh

/-- The sheaf of a save entry, before it enters its handler (R277, R278, R280), and the record. -/
def Sheaf.saves (sh : Sheaf) : Sheaf :=
  { sh.halted21 with preempt := false, recorded := sh.wait, nap := sh.sleep, saving := .saving }

/-- The record of a save entry (R271, R277). -/
def saveRecord (sh : Sheaf) (area : DWord) : FaultRec :=
  let pc := (sh.ctl.splits.headD (Split.fresh 0 0)).pc
  { code := 0x1C, opnd := 0, imm := 0, word := 0, pc := pc, lanes := 0, addr := 0, alloc := 0, aux := 0
    rpc := (byteAddr pc).setWidth 64, save := area + 0x1000 + BitVec.ofNat 64 (sh.sidx * 0x4000), restore := false
    target := sh.trapEntry, site := 0 }

/-- The machine in which a sheaf at its save entry writes its record: sheaf 0 holds every lease of its workgroup (R278). -/
def State.savePoint (s : State) (k : Nat) (sh : Sheaf) (wg : Workgroup) : State :=
  let u := s.setSheaf k { sh.saves with pend := some (saveRecord sh wg.saveArea) }
  if sh.sidx = 0 then u.setWg sh.wg { wg with held := some wg.leases, leases := [some k, some k, some k, some k] } else u

/-- The sheaves of some workgroups are to be saved (R276 to R280): the request is pending at each that has not ended and is not in
a save already, and at one that is being restored; every other sheaf is as it was. -/
def Preempted (s t : State) (members : List Nat) : Prop :=
  ∀ k sh, s.sheaf k = some sh → t.sheaf k = some (if members.contains sh.wg && !sh.finished && !sh.ended && sh.saving != .saving && sh.saving != .saved
    then { sh with preempt := true } else sh)

/-- What `lret` makes of the allocation its handler settles (R154). -/
def Alloc.returned (a : Alloc) : Alloc :=
  if a.state = .refilling then { a with state := (if a.relit then .lit else .dark), relit := false, handSheaf := none } else a

end Sys2Proof.Machine
end

