-- ==== Sys2Proof/Safety/Copies.lean ====
section
/-! DEFINITION. The terms of the statements about copies (14 R198 to R210, 16 R246). -/

namespace Sys2Proof.Machine

/-- A descriptor's first register is even and its last one exists (R199). -/
def descOk (d : GSrc) (n : Nat) : Bool :=
  match d with
  | .g k => k.val % 2 == 0 && decide (k.val + n ≤ 32)
  | .b k => k.val % 2 == 0 && decide (k.val + n ≤ 16)
  | _ => false

/-- The registers of a descriptor as sources, a pair each (R199). -/
def descUses (d : GSrc) (n : Nat) : List GUse :=
  match d with
  | .g k => (List.range (n / 2)).map (fun i => ⟨2, .g (Fin.ofNat 32 (k.val + 2 * i)), 2⟩)
  | .b k => (List.range (n / 2)).map (fun i => ⟨2, .b (Fin.ofNat 16 (k.val + 2 * i)), 2⟩)
  | _ => []

/-- A descriptor as its registers give it (R199). -/
def descOf (s : State) (c : Ctx) (d : GSrc) (n : Nat) : Desc :=
  let v := (descUses d n).map (fun u => gRead s c 2 u.src)
  ⟨v.getD 0 0, v.getD 1 0, (v.getD 2 0).lo, (v.getD 2 0).hi, (v.getD 3 0).lo, (v.getD 3 0).hi⟩

/-- A form of `copy` or `copy2d`: descriptor, two dimensions or one, arrival word operand and its segment. -/
structure CopyForm where
  desc : GSrc
  two : Bool
  arr : Option (GSrc × Fin 8)

/-- The four forms (R246). -/
def copyForm : Instr → Option CopyForm
  | .copy d a seg => some ⟨d, false, some (a, seg)⟩
  | .copyNa d => some ⟨d, false, none⟩
  | .copy2d d a seg => some ⟨d, true, some (a, seg)⟩
  | .copy2dNa d => some ⟨d, true, none⟩
  | _ => none

/-- Registers of the descriptor. -/
def CopyForm.regs (f : CopyForm) : Nat := if f.two then 8 else 6

/-- Everything the instruction reads. -/
def CopyForm.uses (f : CopyForm) : List GUse :=
  (match f.arr with | some (a, _) => [⟨3, a, 2⟩] | none => []) ++ descUses f.desc f.regs

/-- The descriptor. -/
def CopyForm.d (f : CopyForm) (s : State) (c : Ctx) : Desc := descOf s c f.desc f.regs

/-- The descriptor's fields are as R199 asks for. -/
def CopyForm.fieldsOk (f : CopyForm) (s : State) (c : Ctx) : Bool :=
  let d := f.d s c
  decide (d.r5.toNat < 64) &&
  (if f.two then
    let len := d.r4.toNat % 65536
    let n := d.r4.toNat / 65536
    decide (1 ≤ len) && decide (1 ≤ n) && decide (len * n ≤ 16777215)
   else decide (d.r4.toNat < 2 ^ 24))

/-- The rows that move: source offset, destination offset, length (R200). -/
def CopyForm.rows (f : CopyForm) (s : State) (c : Ctx) : List (Int × Int × Nat) :=
  let d := f.d s c
  if f.two then (List.range (d.r4.toNat / 65536)).map (fun (r : Nat) =>
    ((d.src.toNat : Int) + r * d.sstr.toInt, (d.dst.toNat : Int) + r * d.dstr.toInt, d.r4.toNat % 65536))
  else [((d.src.toNat : Int), (d.dst.toNat : Int), d.r4.toNat % 2 ^ 24)]

/-- The arrival word's offset and segment: none without an operand, and for a pair of all ones (R199). -/
def CopyForm.arrival (f : CopyForm) (s : State) (c : Ctx) : Option (DWord × Fin 8) :=
  match f.arr with
  | some (a, seg) => if gRead s c 2 a = BitVec.allOnes 64 then none else some (gRead s c 2 a, seg)
  | none => none

/-- A range lies inside its segment and, where that is a segment of the granary, in one allocation that it reaches, in the window of
the member it is for and in that member's own where it has to be, which holds its bytes for the sheaf now (R201, R203, R204). -/
def rangeFine (s : State) (c : Ctx) (r : CopyRange) : Bool :=
  match c.rangeAddr r with
  | none => false
  | some ea => match s.placed c r ea with
    | .ok none => true
    | .ok (some (_, x, _)) => x.touch (some c.k) == .free
    | .error _ => false

/-- An arrival word passes checks 2, 3, 5 and 6 of R201: it is aligned, and in an allocation only where that is pinned. -/
def arrivalFine (s : State) (c : Ctx) (r : CopyRange) : Bool :=
  match c.rangeAddr r with
  | none => false
  | some ea => ea.toNat % 8 == 0 && (match s.placed c r ea with
    | .ok none => true
    | .ok (some (_, x, _)) => x.rank == 7
    | .error _ => false)

/-- The address of an offset of a segment. -/
def Ctx.at (c : Ctx) (seg : Nat) (off : Int) : Addr := (lget ⟨0, 0, false⟩ c.sh.segs seg).base + BitVec.ofInt 80 off

/-- Whether every check of R201 passes: for the rows, and for the arrival word, which is checked for a copy of no bytes too (R200). -/
def CopyForm.checked (f : CopyForm) (s : State) (c : Ctx) : Bool :=
  let d := f.d s c
  let rows := f.rows s c
  f.fieldsOk s c &&
  (rows.all (fun r => r.2.2 == 0) ||
    (d.spans d.dseg (fun r => r.2.1) rows ++ d.spans d.sseg (fun r => r.1) rows).all (rangeFine s c)) &&
  (match f.arrival s c with | some (o, seg) => arrivalFine s c ⟨seg.val, (o.toNat : Int), 8, none, false, 2⟩ | none => true)

/-- The bytes that chunks move, in order: source and destination address of each, and the arrival word that counts it. -/
def chunkBytes (l : List Chunk) : List (Addr × Addr × Option Addr) :=
  l.flatMap (fun ch => (List.range ch.len).map (fun i =>
    (ch.src + BitVec.ofNat 80 i, ch.dst + BitVec.ofNat 80 i, ch.arrive)))

/-- The bytes that rows move, in order. -/
def rowBytes (c : Ctx) (sseg dseg : Nat) (arr : Option Addr) (rows : List (Int × Int × Nat)) : List (Addr × Addr × Option Addr) :=
  rows.flatMap (fun r => (List.range r.2.2).map (fun i =>
    (c.at sseg r.1 + BitVec.ofNat 80 i, c.at dseg r.2.1 + BitVec.ofNat 80 i, arr)))

/-- A copy that its sheaf has begun (R198, R200): it stands behind every access the sheaf has issued, knows the instruction and
the region and the handler of its issue, and nothing of it has landed. -/
def Begun (s : State) (c : Ctx) (x : CopyOp) : Prop :=
  x.id = s.nextKey ∧ x.k = c.k ∧ x.wg = c.sh.wg ∧ x.site = c.wg.site ∧ x.asid = c.wg.asid ∧ x.pc = c.sp.pc ∧ x.word = s.word ∧
  x.after = s.nextKey ∧ x.region = c.sh.ctl.origin ∧ x.discard = false ∧ x.stalled = none ∧
  x.byHand = c.sh.hand.map (fun h => h.no) ∧
  (∀ ch ∈ x.chunks, 1 ≤ ch.len ∧ ch.len ≤ 64 ∧ ch.landed = false ∧ ch.lost = false ∧ ch.void = false)

/-- A group identifier lies in the issuing workgroup's partition's share and is not busy (R206). -/
def groupFree (s : State) (c : Ctx) (g : Nat) : Bool :=
  let p := s.part c.wg.part.val
  decide (p.gBase ≤ g) && decide (g < p.gBase + p.gCount) && !((kget s.groupIds g).getD (false, 0)).1

/-- The members that a mask word of `mcast` names (R203). -/
def membersOf (w : Word) : List Nat := (List.range 16).filter (fun i => w.getLsbD i)

/-- An arrival word after n bytes are counted (R208). -/
def arrivalAfter (w : DWord) (n : Nat) : DWord :=
  let target := w.toNat % 2 ^ 24
  let count := w.toNat / 2 ^ 24 % 2 ^ 24 + n
  let gen := w.toNat / 2 ^ 48
  if target = 0 then BitVec.ofNat 64 (count % 2 ^ 24 * 2 ^ 24 + gen * 2 ^ 48)
  else BitVec.ofNat 64 (target + count % target * 2 ^ 24 + (gen + count / target) % 2 ^ 16 * 2 ^ 48)

/-- One element of a reduction copy (R205): integers wrap and compare as signed; of a 16-byte element `V` adds modulo 2^112 and
the status bits are ORed. -/
def reduced (op : RedOp) (es : Nat) (old new : List Byte) : List Byte :=
  if es = 16 then
    leBytes 2 ((leNat old % 65536) ||| (leNat new % 65536)) ++ leBytes 14 (leNat old / 65536 + leNat new / 65536)
  else
    let a := BitVec.ofNat (8 * es) (leNat old)
    let b := BitVec.ofNat (8 * es) (leNat new)
    leBytes es (match op with
      | .add => a + b
      | .min => if b.toInt < a.toInt then b else a
      | .max => if a.toInt < b.toInt then b else a
      | .and => a &&& b
      | .or => a ||| b
      | .xor => a ^^^ b).toNat

/-- What lands of n source bytes over n old ones: the bytes themselves, or the elements combined (R200, R205). -/
def landing (red : Option (RedOp × Nat)) (old new : List Byte) : List Byte :=
  match red with
  | none => new
  | some (op, es) => (List.range (new.length / es)).flatMap (fun j =>
      reduced op es ((old.drop (j * es)).take es) ((new.drop (j * es)).take es))

/-- No store in a write path overlaps n bytes at a place. -/
def State.clearOver (s : State) (pl : Place) (n : Nat) : Bool :=
  s.accs.all (fun a => !(a.kind.writes && a.stage == .path && a.place.meets a.size pl n))

/-- A copy between two states when one of its chunks is over (R206, R210): the chunk is gone; with the last one the copy is gone,
its sheaf's copies counter has fallen and its group identifier is free, one generation on. -/
def ChunkOver (s t : State) (x : CopyOp) (n : Nat) : Prop :=
  if x.chunks.length = 1 then
    (∀ y ∈ t.copies, y.id ≠ x.id) ∧
    (∀ sh, s.sheaf x.k = some sh → t.sheaf x.k = some { sh with copies := sh.copies - 1 }) ∧
    (∀ g, x.group = some g → kget t.groupIds g = some (false, ((kget s.groupIds g).getD (false, 0)).2 + 1))
  else t.copies.find? (fun y => y.id == x.id) = some { x with chunks := x.chunks.eraseIdx n } ∧ t.sheaf x.k = s.sheaf x.k

end Sys2Proof.Machine
end

