-- ==== Sys2Proof/Safety/Tiles.lean ====
section
/-! DEFINITION. The terms of the statements about leases and matrix operations (14 R211 to R219, 16 R250 to R255, 03 R51 to R57). -/

namespace Sys2Proof.Machine

/-! ### Leases (R212) -/

/-- The next sheaf of the workgroup in `%sheaf` order, wrapping, that has not ended; the sheaf itself comes last (R212). -/
def Ctx.nextHolder (s : State) (c : Ctx) : Option Nat :=
  let mates := s.sheaves.filter (fun p => p.2.wg == c.sh.wg && !p.2.finished)
  let order := (List.range c.wg.k).map (fun i => (c.sh.sidx + 1 + i) % c.wg.k)
  (order.filterMap (fun n => (mates.find? (fun p => p.2.sidx == n)).map (fun p => p.1))).head?

/-- The sheaves of a workgroup that wait for a lease. -/
def State.waiting (s : State) (wg : Nat) (t : Fin 4) : List (Nat × Sheaf) :=
  s.sheaves.filter (fun p => p.2.wg == wg && p.2.wait == some (.lease t))

/-! ### What a matrix instruction reads (R251, R253 to R255) -/

/-- The tiles that an accumulator instruction names, and the lane registers it names with their fields. -/
def tileForm : Instr → Option (TileRef × List (LReg × Nat))
  | .mma r a _ f _ _ => some (r, [(a, 4), (f, 1)])
  | .accz r f => some (r, [(f, 1)])
  | .accrd r d _ f _ => some (r, [(d, 4), (f, 1)])
  | .accwr r src _ f => some (r, [(src, 4), (f, 1)])
  | _ => none

/-- Every named register lies below the declared count (R14). -/
def Ctx.within (c : Ctx) (regs : List (LReg × Nat)) : Bool :=
  regs.all (fun x => match x.1.top x.2 with | some n => decide (n < c.sh.named) | none => true)

/-- Whether the sheaf holds the lease of a thresher name (R212). -/
def Ctx.leased (c : Ctx) (t : Fin 4) : Bool := c.wg.leases[t.val]? == some (some c.k)

/-- Whether the kernel declared a tile set of a thresher name (R211). -/
def Ctx.hasSet (c : Ctx) (r : TileRef) : Bool := decide (r.set.val < lget 0 c.wg.kernel.acc r.t.val)

/-- Every lane register read is live in every active lane, or the kernel is not `.strict` (R251). -/
def Ctx.reads (s : State) (c : Ctx) (regs : List (LReg × Nat)) : Bool :=
  !c.sh.strict || regs.all (fun x => (maskLanes c.sp.mask).all (fun l => !regsDead s.free c.sh l x.1 x.2))

/-- The scale register of each active lane whose format word names one is live, where the kernel declared it (R251). -/
def Ctx.scalesLive (s : State) (c : Ctx) (a f : LReg) : Bool :=
  !c.sh.strict || (match a.top 5 with | some n => decide (c.sh.named ≤ n) | none => true) ||
  (maskLanes c.sp.mask).all (fun l => (regRead s.free c.sh l f).1.toNat / 256 % 16 != 1 || !regsDead s.free c.sh l (a.nth 4) 1)

/-- Rows 1 to 3 of R251 pass, and the counter has room (R71). -/
def Ctx.mayTake (s : State) (c : Ctx) (r : TileRef) (named read : List (LReg × Nat)) : Bool :=
  c.within named && c.leased r.t && c.hasSet r && decide (c.sh.tiles < 63) && c.reads s read

/-- A lane's format operand. -/
def Ctx.fmt (s : State) (c : Ctx) (f : LReg) (l : Nat) : Word := (regRead s.free c.sh l f).1

/-- The active lanes of an octet (R213). -/
def Ctx.octet (c : Ctx) (o : Nat) : List Nat := (maskLanes c.sp.mask).filter (fun l => l / 8 == o)

/-- The octets with an active lane, ascending. -/
def Ctx.busyOctets (c : Ctx) : List Nat := (List.range 8).filter (fun o => c.octet o != [])

/-- The format word that an octet's lanes hold; their first lane's. -/
def Ctx.octetWord (s : State) (c : Ctx) (f : LReg) (o : Nat) : Word := c.fmt s f ((c.octet o).headD 0)

/-- The A and B formats and the scale mode of a format word of assigned codes (R51, R214). -/
def formats (w : Word) : Option (ElemTy × ElemTy × Bool) :=
  if w.toNat / 256 % 256 ≤ 1 then
    (ElemTy.ofCode (w.toNat % 16)).bind (fun a => (ElemTy.ofCode (w.toNat / 16 % 16)).map (fun b => (a, b, w.getLsbD 8)))
  else none

/-- What is wrong with one octet's format words, in the order of R214. -/
def Ctx.octetFault (s : State) (c : Ctx) (r : TileRef) (f : LReg) (zero : Bool) (o : Nat) : Option Nat :=
  let w := c.octetWord s f o
  if (c.octet o).any (fun l => c.fmt s f l != w) then some 0x0D
  else if formats w = none then some 0x0E
  else if !zero && w >>> 16 != (s.anchorDue c.sh.wg r.t r.set o).setWidth 32 then some 0x0F
  else none

/-- Elements of an A fragment of 16 bytes (R213). -/
def perFragment (a : ElemTy) : Nat := 128 / elemBits a

/-- Bytes of a B tile, and of its scale row (R213). -/
def tileBytes (w : Word) : Nat :=
  match formats w with
  | some (a, b, scaled) => perFragment a * 64 * elemBits b / 8 + (if scaled then 64 else 0)
  | none => 0

/-- The bytes of B that an operation reads: the most that one of its octets needs. -/
def spanOf (fmts : List (Nat × Word)) : Nat := (fmts.map (fun p => tileBytes p.2)).foldl max 1

/-- The fragments of the active lanes in registers from n on, with their scales; 127 under scale mode 0 (R213, R217). -/
def Ctx.fragments (s : State) (c : Ctx) (n : Fin 32) (f : LReg) : List Latch :=
  (maskLanes c.sp.mask).map (fun l =>
    let scaled := (c.fmt s f l).getLsbD 8
    { lane := l, frag := regsRead s.free c.sh l (.n n) 4
      scale := if scaled then (regRead s.free c.sh l (LReg.nth (.n n) 4)).1.setWidth 8 else 127
      reg := n.val, scaled := scaled, fill := s.nextKey })

/-- A tile operation as its thresher takes it; `b`: the allocation that holds its B tile. -/
def Ctx.operation (s : State) (c : Ctx) (r : TileRef) (fn : TileFn) (b : Option (Nat × BitVec 16)) : TileOp :=
  { id := s.nextKey, k := c.k, wg := c.sh.wg, t := r.t, set := r.set, mask := c.sp.mask, fn := fn, from_ := b, lost := false
    pc := c.sp.pc, word := s.word, region := c.sh.ctl.origin, byHand := c.sh.hand.map (fun h => h.no) }

/-- The machine once a tile operation is taken: it is queued, the tile-operation counter rises, and the split goes on; the sheaf
changes further by `f`. -/
def Ctx.taken (s : State) (c : Ctx) (r : TileRef) (fn : TileFn) (b : Option (Nat × BitVec 16)) (f : Sheaf → Sheaf) : State :=
  { s with tops := s.tops ++ [c.operation s r fn b], nextKey := s.nextKey + 1 }.setSheaf c.k
    (f { c.sheafAt (c.sp.pc + 1) with tiles := c.sh.tiles + 1 })

/-- The readout code of a word and its elements per quad (R254). -/
def readoutOf (w : Word) : Option Nat :=
  match w.toNat with
  | 0 => some 4 | 1 => some 8 | 2 => some 8 | 3 => some 16 | 4 => some 16 | 5 => some 32 | 8 => some 1 | _ => none

/-- What is wrong with a readout word and a column (R254, R255): code and operand field. -/
def Ctx.readFault (s : State) (c : Ctx) (f : LReg) (c0 : Nat) (raw : Bool) : Option (Nat × Nat) :=
  let ws := (maskLanes c.sp.mask).map (c.fmt s f)
  let w := ws.headD 0
  if ws.any (· != w) then some (0x0D, 4)
  else match (if raw && w != 8 then none else readoutOf w) with
    | none => some (0x0E, 4)
    | some n => if 64 < c0 + n then some (0x11, 3) else if c0 % n ≠ 0 then some (0x07, 3) else none

/-! ### What an operation does when it is carried out (R215, R219, R253 to R255) -/

/-- The tiles that an operation touches: all eight for `accz`, those of its octets otherwise. -/
def TileOp.touches (x : TileOp) (o : Nat) : Bool :=
  match x.fn with
  | .accz _ => decide (o < 8)
  | _ => decide (o < 8) && x.mask.extractLsb' (8 * o) 8 != 0

/-- Whether an operation is an `mma`. -/
def TileOp.isMma (x : TileOp) : Bool := match x.fn with | .mma .. => true | _ => false

/-- Whether an operation taken earlier has to come first (R219): joins wait for everything on their tiles, an `mma` for joins
of its thresher name. -/
def State.ahead (s : State) (x : TileOp) : Bool :=
  s.tops.any (fun y => decide (y.id < x.id) && y.wg == x.wg && y.t == x.t &&
    (if x.isMma then !y.isMma else y.set == x.set && (List.range 8).any (fun o => x.touches o && y.touches o)))

/-- A list of fragments once operation `id` has read its own: those it fills are as it read them (R217, R218). -/
def handedOn (id : Nat) (frags l : List Latch) : List Latch :=
  l.map (fun y => if y.fill = id then (frags.find? (fun x => x.lane == y.lane)).getD y else y)

/-- The same in an operation that waits. -/
def TileOp.handedOn (id : Nat) (frags : List Latch) (y : TileOp) : TileOp :=
  match y.fn with
  | .mma b f l z => { y with fn := .mma b f (Machine.handedOn id frags l) z }
  | _ => y

/-- The machine after an operation is carried out: it is queued no longer and its sheaf's counter has fallen; the lanes of the
sheaf change by `f`, and the tiles are `ts`. -/
def TileOp.over (x : TileOp) (s : State) (sh : Sheaf) (ts : List Tile) (lanes : List Lane) : State :=
  { s with tops := s.tops.filter (fun y => y.id != x.id), tiles := ts }.setSheaf x.k { sh with tiles := sh.tiles - 1, lanes := lanes }

/-- The element of a tile after an `mma` of one octet (R215, R55): `e` before, under the count the tile had and has. -/
def mmaElem (e : A128) (before after : Nat) (anchor : Int) (fa fb : ElemTy) (scaled : Bool) (frag : Option Latch) (bytes : List Byte)
    (col : Nat) : A128 :=
  if 32768 < before then e
  else if 32768 < after then 0x40
  else match frag with
    | none => e
    | some x =>
      let size := perFragment fa * 64 * elemBits fb / 8
      let sa := if scaled then x.scale.toNat else 127
      let sb := if scaled then (bytes.getD (size + col) 0).toNat else 127
      (List.range (perFragment fa)).foldl (fun v k =>
        addTerm v (term (elemAt fa x.frag k) (elemAt fb (leWords (bytes.take size)) (k * 64 + col)) sa sb) anchor) e

/-- The registers of every fragment whose operation is not over still hold it, and its scale (R218). -/
def kept (s : State) (sh : Sheaf) (frags : List Latch) : Bool :=
  frags.all (fun x => s.tops.all (fun y => y.id != x.fill) ||
    ((List.range 4).map (fun i => (regRead s.free sh x.lane (.n (Fin.ofNat 32 (x.reg + i)))).1) == x.frag &&
     (!x.scaled || (regRead s.free sh x.lane (.n (Fin.ofNat 32 (x.reg + 4)))).1.setWidth 8 == x.scale)))

/-- The quad that `accrd` delivers for row r of a tile (R50, R57, R254). -/
def quadOf (x : Tile) (r col code : Nat) (sat : Bool) : List Word :=
  let word (v : BitVec 128) : List Word := [v.extractLsb' 0 32, v.extractLsb' 32 32, v.extractLsb' 64 32, v.extractLsb' 96 32]
  let pack (f : Fmt) (n : Nat) : List Word :=
    word (BitVec.ofNat 128 ((List.range n).foldr (fun j v =>
      readout (x.elem r (col + j)) x.anchor.toInt f sat * 2 ^ (128 / n * j) + v) 0))
  match code with
  | 0 => pack fmt32 4 | 1 => pack fmt16 8 | 2 => pack fmtB16 8 | 3 => pack fmtE4M3 16 | 4 => pack fmtE5M2 16
  | 5 => pack fmtE2M1 32 | _ => word (x.elem r col)

end Sys2Proof.Machine
end

