-- ==== Sys2Proof/Safety/Tasks.lean ====
section
/-! DEFINITION. The terms of the statements about tasks and future words (15 R228 to R235, 16 R256, R257). -/

namespace Sys2Proof.Machine

/-- Two memories hold the same bytes. -/
def sameBytes (m n : Memory) : Prop := ∀ a, m.get a = n.get a

/-- A 32-bit word of memory. -/
def wordAt (m : Memory) (a : Nat) : Word := leWord (m.read a 4)

/-- Where a structure of n bytes lies, when it lies in one piece of plain memory with no store on its way there (R245). -/
def Ctx.inMemory (s : State) (c : Ctx) (srcs : List GUse) (future : Bool) (p : DWord) (n : Nat) : Option Nat :=
  match c.shortSpot s srcs future p n n .wr with
  | some [(.hbm pa, k)] => if k = n && s.plainAt pa && s.clearOver (.hbm pa) n then some pa else none
  | _ => none

/-- Every earlier access of the issuing sheaf has performed at `.dv` (R165, R232): fences apart, and pages of kind UN. -/
def Ctx.released (s : State) (c : Ctx) : Bool :=
  s.accs.all (fun a => a.k != c.k || a.kind.isFence || a.pk == .un || a.performedAt .dv)

/-- The control word of a TCB, and its word with the successor count and `STATE` (R228). -/
structure TcbView where
  ctl : Word
  st : Word
  dep : Word
  deriving DecidableEq, Repr

/-- The words of the TCB at a place in memory that releasing looks at. -/
def tcbAt (m : Memory) (pa : Nat) : TcbView := ⟨wordAt m (pa + 0x08), wordAt m (pa + 0x18), wordAt m (pa + 0x0C)⟩

/-- `STATE`. -/
def TcbView.state (v : TcbView) : Nat := v.st.toNat / 2 ^ 16 % 8

/-- `PRIO`. -/
def TcbView.prio (v : TcbView) : Nat := v.ctl.toNat / 2 ^ 20 % 4

/-- The word with another `STATE`. -/
def TcbView.withState (v : TcbView) (n : Nat) : Word := (v.st &&& ~~~(0x00070000#32)) ||| BitVec.ofNat 32 (n * 2 ^ 16)

/-- The control word with another `DEPTH`. -/
def TcbView.withDepth (v : TcbView) (n : Nat) : Word := (v.ctl &&& ~~~(0x01C00000#32)) ||| BitVec.ofNat 32 (n * 2 ^ 22)

/-- What is wrong with a TCB that is to be spawned (R229, checks 3 to 5): its fields, then the depth, then the footprint. -/
def TcbView.spawnFault (v : TcbView) (depth : Nat) : Option Nat :=
  let gran := v.ctl.toNat / 2 ^ 8 % 512
  if v.state ∉ [0, 4, 5] ∨ 32 < v.ctl.toNat % 64 ∨ 4 < v.ctl.toNat / 2 ^ 17 % 8 ∨ v.ctl.toNat / 2 ^ 28 ≠ 0 ∨ v.st.toNat / 2 ^ 19 ≠ 0 then
    some 0x02
  else if 8 ≤ depth then some 0x14
  else if 384 < gran ∨ (v.ctl.toNat / 2 ^ 25 % 8 = 7 ∧ 16 < gran) then some 0x15
  else none

/-- The depth of a task that a sheaf spawns (R229). -/
def Ctx.childDepth (c : Ctx) : Nat := (c.wg.task.map (fun t => t.depth + 1)).getD 0

/-- A partition whose ready FIFO of a priority has one more task at its tail (R230). -/
def Partition.ready (p : Partition) (prio : Nat) (t : ReadyTask) : Partition :=
  { p with fifos := lset p.fifos prio (lget [] p.fifos prio ++ [t]) }

/-- What a future word becomes when a value is written to it (R235). -/
def filled (v : DWord) : DWord := BitVec.ofNat 64 (v.toNat * 4 + 1)

end Sys2Proof.Machine
end

