-- ==== Sys2Proof/Safety/Joins.lean ====
section
/-! DEFINITION. The terms of the statements about quorum joins (15 R236 to R244, 16 R258 to R261). -/

namespace Sys2Proof.Machine

/-! ### Where a join's structures lie -/

/-- A state in which every agent reaches memory as in another, and whose memory differs from the other's at most where `free`
holds: the same tables, registers and devices. -/
structure SameView (s u : State) (free : Nat → Bool) : Prop where
  roots : u.roots = s.roots
  tlb : u.tlb = s.tlb
  paged : u.paged = s.paged
  counter : u.free = s.free
  device : u.device = s.device
  remotes : u.remotes = s.remotes
  pages : ∀ pa, u.plainAt pa = s.plainAt pa
  mem : ∀ x, free x = false → u.mem.get x = s.mem.get x

/-- The n bytes that an address names for an address space lie at `pb`, in one piece of plain memory, and stay there while only
bytes where `free` holds are written: no page table lies among those. No store is on its way there. -/
def State.buffered (s : State) (asid : BitVec 16) (p : DWord) (n pb : Nat) (free : Nat → Bool) : Prop :=
  s.plainAt pb = true ∧ s.clearOver (.hbm pb) n = true ∧
  ∀ u, SameView s u free → ∀ a, a = .rd ∨ a = .wr → u.hwShort asid a false p n = (u, .ok [(.hbm pb, n)])

/-- Address x lies in the n bytes at a. -/
def within (a n x : Nat) : Bool := decide (a ≤ x ∧ x < a + n)

/-- Two ranges have no byte in common. -/
def apart (a n b m : Nat) : Prop := a + n ≤ b ∨ b + m ≤ a

/-- Element e of a buffer of A128 elements (R53). -/
def element (m : Memory) (base e : Nat) : BitVec 128 := BitVec.ofNat 128 (leNat (m.read (base + 16 * e) 16))

/-- V of an element (R53). -/
def valueOf (e : BitVec 128) : BitVec 112 := e.extractLsb' 16 112

/-- The status of an element (R53). -/
def statusOf (e : BitVec 128) : BitVec 16 := e.extractLsb' 0 16

/-- The join block of an entry, read from memory (R236). -/
def State.blockAt (s : State) (pa : Nat) : Block := ⟨leWords (s.mem.read pa 256)⟩

/-- What a participant's journal holds at element e: its allocation's, or that of another device as the table knows it; 0 where the
allocation is gone. -/
def State.journalElem (s : State) (m : Member) (e : Nat) : BitVec 128 :=
  match m.away with
  | some l => l.getD e 0
  | none => ((s.alloc m.jsite m.jid).map (fun a => element a.data 0 e)).getD 0

/-- Whether the journal of a participant can be read: that of another device while the link to it is up (R294). -/
def State.reachable (s : State) (m : Member) : Bool :=
  match m.dev with
  | some d => (s.remote d.toNat).any (fun r => r.up)
  | none => true

/-- Whether every earlier access of every sheaf of a workgroup has performed at `.dv` (R238): fences apart, and pages of kind UN. -/
def State.wgReleased (s : State) (wg : Nat) : Bool :=
  (s.sheaves.filter (fun p => p.2.wg == wg)).all (fun p =>
    s.accs.all (fun a => a.k != p.1 || a.kind.isFence || a.pk == .un || a.performedAt .dv))

/-- The bindings that a killed gang held to an index of a block, in generations not finalised at the kill (R281). -/
def State.recorded (s : State) (c : Ctx) (block : DWord) (i : Nat) : List Kept :=
  ((kget s.gangs c.wg.gang).elim [] (fun g => g.kept)).filter (fun k => k.block == block && k.index == i && !k.final)

/-- The generation of the settled binding that a relaunched workgroup takes (R281): that of the record where it has been finalised
since, or the current one where the index has arrived in it. -/
def settledGen (mine : List Kept) (gen : BitVec 16) (holder : Option Member) : Option (BitVec 16) :=
  match mine.find? (fun k => k.gen != gen) with
  | some k => some k.gen
  | none => if mine ≠ [] ∧ (holder.any (fun m => m.arrived)) = true then some gen else none

/-- The condemned flag set in the quorum registers that hold a participant. -/
def flagged (key index : Nat) (joins : List (Option Binding)) : List (Option Binding) :=
  joins.map (fun b => b.map (fun y =>
    if y.join = key ∧ y.index = index ∧ y.settled = false then { y with condemned := true } else y))

/-! ### Contributions (R238) -/

/-- Between two states the values of `l`, each for an element, were added to the n elements of `ABUF` at `pb` and to the
participant's journal, the status bits to the journal alone; no other byte of memory and no other allocation changed. -/
structure Contributed (s t : State) (m : Member) (pb n : Nat) (l : List (Nat × BitVec 128)) : Prop where
  buffer : ∀ e, e < n →
    statusOf (element t.mem pb e) = statusOf (element s.mem pb e) ∧
    valueOf (element t.mem pb e) = valueOf (element s.mem pb e) + (((l.filter (fun p => p.1 == e)).map (fun p => valueOf p.2)).foldl (· + ·) 0)
  rest : ∀ a, within pb (16 * n) a = false → t.mem.get a = s.mem.get a
  journal : ∀ x, s.alloc m.jsite m.jid = some x → ∃ y, t.alloc m.jsite m.jid = some { x with data := y } ∧
    (∀ e, e < n →
      valueOf (element y 0 e) = valueOf (element x.data 0 e) + (((l.filter (fun p => p.1 == e)).map (fun p => valueOf p.2)).foldl (· + ·) 0) ∧
      statusOf (element y 0 e) = ((l.filter (fun p => p.1 == e)).map (fun p => statusOf p.2)).foldl (· ||| ·) (statusOf (element x.data 0 e))) ∧
    ∀ a, 16 * n ≤ a → y.get a = x.data.get a
  others : ∀ site id, (site, id) ≠ (m.jsite, m.jid) → t.alloc site id = s.alloc site id

/-- The entry and participant of a live binding in a quorum register: bound in a generation that is not finalised, its flag not
arrived, no arrival on its way to another device's table (R237, R261, R294). -/
structure Bound (s : State) (c : Ctx) (q : Fin 4) (b : Binding) (j : Join) (m : Member) : Prop where
  bound : c.wg.joins[q.val]? = some (some b)
  fresh : b.settled = false ∧ b.condemned = false
  entry : kget s.joins b.join = some j
  unfinished : j.final = false
  member : j.members.find? (fun m => m.index == b.index) = some m
  unsent : ∀ a ∈ s.accs, a.kind ≠ .quorum b.join m.index none

/-- A live binding of a join whose block is plain memory of this device. -/
structure Live (s : State) (c : Ctx) (q : Fin 4) (b : Binding) (j : Join) (m : Member) (pa : Nat) : Prop where
  binding : Bound s c q b j m
  block : j.at_ = .hbm pa
  plain : s.plainAt pa = true

/-- The register is empty, or names a join that a partition reset has freed (R237, R296). -/
def Ctx.unbound (s : State) (c : Ctx) (q : Fin 4) : Bool :=
  match c.wg.joins[q.val]? with
  | some (some b) => !b.settled && !b.condemned && (kget s.joins b.join).isNone
  | some none => true
  | none => false

/-- The binding is of a generation that is over and its participant was not condemned (R243). -/
def Ctx.stale (s : State) (c : Ctx) (q : Fin 4) : Bool :=
  match c.wg.joins[q.val]? with
  | some (some b) => !b.settled && !b.condemned &&
    (match kget s.joins b.join with
     | none => false
     | some j => match j.members.find? (fun m => m.index == b.index) with | none => true | some m => j.final && !m.condemned)
  | _ => false

/-- The binding makes its participant's kill points kill (R240, R261): its flag has arrived, or the table still holds it
condemned in a finalised join. -/
def Ctx.doomed (s : State) (c : Ctx) (q : Fin 4) : Bool :=
  match c.wg.joins[q.val]? with
  | some (some b) => !b.settled && (b.condemned ||
    (match kget s.joins b.join with
     | none => false
     | some j => match j.members.find? (fun m => m.index == b.index) with | none => false | some m => j.final && m.condemned))
  | _ => false

/-- No other open join holds an unarrived participant of the workgroup. -/
def State.onlyJoin (s : State) (wg : Nat) : Bool :=
  s.joins.all (fun p => p.2.released || p.2.members.all (fun m => m.wg != wg || m.arrived))

/-! ### Arrival, release, finalisation (R238, R239, R242) -/

/-- Whether the arrivals meet the quorum (R239). -/
def quorumMet (b : Block) (arrw narr : Nat) : Bool :=
  if b.fill = 3 then narr == b.npart else decide (b.totw * b.qnum ≤ arrw * b.qden)

/-- The participants that a release condemns: those that have not arrived (R239). -/
def Join.late (j : Join) (but : Nat) : List Member := j.members.filter (fun m => !m.arrived && m.index != but)

/-- A participant after a release: the journal of one out of reach is retracted later (R239, R294). -/
def State.afterRelease (s : State) (m : Member) : Member :=
  if m.arrived then m else { m with condemned := true, retracted := m.retracted || s.reachable m }

/-- Bits of a destination element of a format (R51, R236). -/
def destBits (dfmt : Nat) : Nat := if dfmt = 0 then 32 else if dfmt ≤ 2 then 16 else if dfmt ≤ 4 then 8 else 4

/-- The format of a destination (R51, R236). -/
def destFormat (dfmt : Nat) : Fmt :=
  match dfmt with
  | 0 => fmt32 | 1 => fmt16 | 2 => fmtB16 | 3 => fmtE4M3 | 4 => fmtE5M2 | _ => fmtE2M1

/-- The encoding of one destination element (R242): e of `ABUF`, f of `FBUF`. -/
def finalElem (b : Block) (e f : BitVec 128) : Nat :=
  let fmt := destFormat b.dfmt
  let missing : Int := (b.totw : Int) - b.arrw
  let x := if b.fill = 1 ∧ 0 < missing then e ||| (statusOf f).setWidth 128 else e
  if statusOf x &&& 0x5F ≠ 0 then readout x b.anchor.toInt fmt b.dsat
  else
    let v := (valueOf x).toInt
    let exact (n : Int) (d : Nat) : Ext :=
      if d = 0 then .nan else if n = 0 then .zero false else scaleFin (decide (n < 0)) n.natAbs d b.anchor.toInt
    narrow fmt .rne b.dsat
      (if b.fill = 0 then exact (v * b.totw) b.arrw
       else if b.fill = 1 then exact (v + (valueOf f).toInt * missing) 1
       else exact v 1)

/-- The destination's bytes: its elements packed from the low end (R50, R242). -/
def destOf (b : Block) (e f : Nat → BitVec 128) : List Byte :=
  let bits := destBits b.dfmt
  leBytes ((b.nelem * bits + 7) / 8) ((List.range b.nelem).foldr (fun i n => finalElem b (e i) (f i) * 2 ^ (bits * i) + n) 0)

end Sys2Proof.Machine
end

