-- ==== Sys2Proof/Safety/Queues.lean ====
section
/-! DEFINITION. The terms of the statements about hardware queues, ports and records (15 R221 to R225, 16 R248, R249, 20 R297,
R298). -/

namespace Sys2Proof.Machine

/-- What a queue-map entry names with a right: bit 12 valid, bit 13 pop, bit 14 push, the rest 0 (R297). -/
def entryNames (e : Word) (push : Bool) : Option Nat :=
  let right := if push then e.getLsbD 14 else e.getLsbD 13
  if e.getLsbD 12 && right && e.toNat < 2 ^ 15 then some (e.toNat % 4096) else none

/-- An entry of a queue map, 0 where none is listed. -/
def entryAt (l : List (BitVec 12 × Word)) (i : Nat) : Word :=
  match l.find? (fun p => p.1.toNat == i) with
  | some p => p.2
  | none => 0

/-- The device queue that an identifier names in a partition: through the guest hypervisor's table in memory where there is one, then
the host's, and within the partition's share (R297). Reading the guest's table may have a page served, so the state comes with it. -/
def State.naming (s : State) (part : Fin 16) (i : Nat) (push : Bool) : State × Option Nat :=
  let p := s.part part.val
  let host (j : Nat) : Option Nat :=
    (entryNames (entryAt p.stage2 j) push).filter (fun q => decide (p.qBase ≤ q) && decide (q < p.qBase + p.qCount))
  match p.stage1 with
  | none => (s, host i)
  | some table =>
    let x := s.guestEntry p.asid table (BitVec.ofNat 12 i)
    (x.1, (entryNames x.2 push).bind host)

/-- Where record i of a ring in plain memory stands (R221). -/
def recordAt (base log2 : Nat) (i : Word) : Nat := base + i.toNat % 2 ^ log2 * 64

/-- The bytes of a pushed record: its words, with the record's number in `PSEQ` (R222). -/
def recordBytesOf (i : Word) (ws : List Word) : List Byte :=
  ((List.range 16).map (fun n => let w := lget 0 ws n
    if n = 0 then (w &&& 0xFFFF#32) ||| (i <<< 16) else w)).flatMap (fun w => leBytes 4 w.toNat)

/-- Memory after records are appended from number i on. -/
def appended (m : Memory) (base log2 : Nat) : Word → List (List Word) → Memory
  | _, [] => m
  | i, r :: rs => appended (m.write (recordAt base log2 i) (recordBytesOf i r)) base log2 (i + 1) rs

/-- The records a queue has room for (R221). -/
def Queue.free (q : Queue) : Nat := 2 ^ q.log2 - (q.tail - q.floor).toNat

/-- What is wrong with the lane registers that a record instruction names: the named registers of a record at width 8 are an even
pair; numbers lie below the declared count (R14, R249). -/
def recordFault (c : Ctx) (K : Fin 32) : Option Nat :=
  if c.sh.named ≤ K.val then some 0x04
  else if c.sh.width = 8 then (if K.val % 2 = 1 then some 0x02 else if c.sh.named ≤ K.val + 1 then some 0x04 else none)
  else none

/-- A bound port of the issuing sheaf and its queue, gone where the identifier is another queue's by now (R224, R297). -/
def Ctx.port (s : State) (c : Ctx) (h : Fin 8) : Option (Port × Queue) :=
  match c.sh.ports[h.val]? with
  | some (some p) => (kget s.queues p.q).map (fun q => (p, if q.inc = p.inc then q else { q with state := .dead }))
  | _ => none

/-- Whether words of the record at head have been popped through the port (R225, R249). -/
def popsRest (p : Port) (q : Queue) : Bool := !p.push && decide (0 < p.words) && decide (0 < q.popped) && p.slot == q.head.toNat

/-- The record at head stands whole in the ring and nobody has begun to pop it. -/
def standsWhole (q : Queue) : Bool := q.head != q.tail && q.popped == 0 && q.taken.all (fun t => t.1 != q.head)

/-- The words of the record at head that lane l receives: word l, and at width 8 word l + 8 as well (R249). -/
def headWords (s : State) (c : Ctx) (q : Queue) (l : Nat) : List Word :=
  let word (n : Nat) : Word :=
    if n < 16 then leWord (s.readPlace ((q.ring.plus (q.head.toNat % 2 ^ q.log2 * 64)).plus (4 * n)) 4) else 0
  if c.sh.width = 8 then [word l, word (l + 8)] else [word l]

/-- The lanes that take part in a record instruction: active, of the first 16 (R249). -/
def Ctx.recordLanes (c : Ctx) : List Nat := (maskLanes c.sp.mask).filter (fun l => decide (l < 16))

/-- Word n of a pushed record: of lane n modulo the width, 0 where that lane is not active (R249). -/
def pushedWord (s : State) (c : Ctx) (K : Fin 32) (n : Nat) : Word :=
  if c.sp.mask.getLsbD (n % c.sh.width) then
    (regRead s.free c.sh (n % c.sh.width) (.n (Fin.ofNat 32 (K.val + n / c.sh.width)))).1
  else 0

/-- Whether a lane register that a pushed record reads is dead, under `.strict`. -/
def pushesDead (s : State) (c : Ctx) (K : Fin 32) : Bool :=
  c.sh.strict && (List.range 16).any (fun n => c.sp.mask.getLsbD (n % c.sh.width) &&
    (regRead s.free c.sh (n % c.sh.width) (.n (Fin.ofNat 32 (K.val + n / c.sh.width)))).2)

/-- The sheaf with a port bound or unbound, its split at the next word. -/
def Ctx.withPort (s : State) (c : Ctx) (srcs : List GUse) (h : Fin 8) (p : Option Port) : Sheaf :=
  { c.sheafTo s srcs (c.sp.pc + 1) with ports := lset c.sh.ports h.val p }

/-- Whether a queue is some partition's command queue, its identifier 0 (R309). -/
def State.commandQueue (s : State) (q : Nat) : Bool := s.parts.any (fun p => (s.naming (Fin.ofNat 16 p.1) 0 true).2 == some q)

end Sys2Proof.Machine
end

