-- ==== Sys2Proof/Safety/Launch.lean ====
section
/-! DEFINITION. The terms of the statements about launches, placement and ends (06 R91, R92, R100, R109, 09 R142, R143, 15 R223 to R233,
18 R281, 23 R329). -/

namespace Sys2Proof.Machine

/-- The bytes that an address names for an address space, read by an agent: they are `bs`, whatever else of the machine than tables,
memory and devices changes. -/
def State.reads (s : State) (asid : BitVec 16) (p : DWord) (bs : List Byte) : Prop :=
  ∀ u, SameView s u (fun _ => false) → u.hwBytes asid p bs.length = (u, .ok bs)

/-- The queue after its record at head has started (R223). -/
def Queue.started (q : Queue) : Queue := { q with head := q.head + 1 }

/-- The queue after a record at head that cannot be served: it counts as started and puts the queue in ERROR (R224). -/
def Queue.refused (q : Queue) : Queue := { q with head := q.head + 1, state := .error, bad := q.head :: q.bad }

/-- Word k of a record, as a number. -/
def wordNo (ws : List Word) (k : Nat) : Nat := (lget 0 ws k).toNat

/-- A 64-bit field of a record: word k and the next. -/
def pairNo (ws : List Word) (k : Nat) : DWord := DWord.ofPair (lget 0 ws k) (lget 0 ws (k + 1))

/-- A launch record's fields lie within their ranges (R226). -/
def launchFits (ws : List Word) : Bool :=
  decide (1 ≤ wordNo ws 4 % 2 ^ 16) && decide (wordNo ws 4 < 2 ^ 28) && decide (wordNo ws 5 < 2 ^ 24) &&
  [10, 11, 12, 13, 14, 15].all (fun k => wordNo ws k == 0) && decide ((pairNo ws 2).toNat % 64 = 0)

/-- What the completion of a task has made of memory, of the tasks that wait in its partition, and which tasks it has made READY, with
their priorities, so far. -/
structure Lowering where
  mem : Memory
  waiting : List ReadyTask
  ready : List (Nat × ReadyTask)

/-- The TCB at `pa` loses one dependence (R229). -/
def Lowering.lower (x : Lowering) (pa : Nat) : Lowering :=
  let v := tcbAt x.mem pa
  if v.dep = 0 then x
  else
    let m := x.mem.write (pa + 0x0C) (leBytes 4 (v.dep.toNat - 1))
    if v.dep = 1 ∧ v.state = 1 then
      { mem := m.write (pa + 0x18) (leBytes 4 (v.withState 2).toNat)
        waiting := x.waiting.filter (fun y => y.at_ != Place.hbm pa)
        ready := match x.waiting.find? (fun u => u.at_ == Place.hbm pa) with | some u => x.ready ++ [(v.prio, u)] | none => x.ready }
    else { x with mem := m }

/-- Between two states of a partition's FIFOs the tasks `l` have entered, each that of its priority, at the tail and in ascending address of
their blocks (R230, R284). -/
def Entered (old new : List (List ReadyTask)) (l : List (Nat × ReadyTask)) : Prop :=
  new.length = old.length ∧ ∀ prio, prio < old.length → ∃ tail, lget [] new prio = lget [] old prio ++ tail ∧
    tail.Perm ((l.filter (fun p => p.1 == prio)).map (fun p => p.2)) ∧ tail.Pairwise (fun a b => a.tcb.toNat ≤ b.tcb.toNat)

/-- The queues once a record completes (R223): none for a task that a sheaf spawned, nor of a queue that has died since, whatever has its
identifier now (R224). -/
def finishRecord (qs : List (Nat × Queue)) (r : Option RecordRef) : List (Nat × Queue) :=
  match r with
  | some r => match kget qs r.q with
    | some q => if q.inc = r.inc ∧ q.state ≠ .dead then kset qs r.q (q.complete r.i) else qs
    | none => qs
  | none => qs

/-- A sheaf that has ended (R100). -/
def Sheaf.over (sh : Sheaf) : Sheaf := { sh with ended := true, wait := none, sleep := none }

/-- Nothing that a sheaf issued is outstanding (R71). -/
def State.quiet (s : State) (k : Nat) (sh : Sheaf) : Bool :=
  sh.loads == 0 && sh.stores == 0 && sh.copies == 0 && sh.tiles == 0 && s.accs.all (fun a => a.k != k) &&
  s.copies.all (fun x => x.k != k) && s.tops.all (fun x => x.k != k)

/-- A sheaf whose entries are gone and of which nothing is outstanding (R71, R100), not part of a save or a restart. -/
def State.mayEnd (s : State) (k : Nat) (sh : Sheaf) : Bool :=
  sh.finished && !sh.ended && !sh.restarting && sh.saving != .saved && s.quiet k sh

/-- A sheaf as a launch leaves it (R9, R14, R18, R71, R96, R128, R129): every register dead and zero, `g` and the block registers
zero, all lanes in one split at the kernel's entry, its counters and waits clear, nothing bound, `seg0` everything, `seg1` its core's
window, `seg3` a stack of the kernel's size, `seg4` the arguments. -/
structure Fresh (sh : Sheaf) (kr : Kernel) (wg idx site : Nat) (args : Addr) (alen : Nat) : Prop where
  belongs : sh.wg = wg ∧ sh.sidx = idx
  shape : sh.width = kr.width ∧ sh.named = kr.named ∧ sh.strict = kr.strict
  lanes : sh.lanes.length = kr.width ∧ ∀ l ∈ sh.lanes, (∀ e ∈ l.q, e.live = false) ∧ ∀ e ∈ l.n, e.live = false
  group : ∀ w ∈ sh.g, w = 0
  split : sh.ctl.splits = [Split.fresh (BitVec.ofNat 78 (kr.entry.toNat / 4)) (maskAll kr.width)] ∧ sh.ctl.stack = [] ∧ sh.ctl.groups = []
  counters : sh.loads = 0 ∧ sh.stores = 0 ∧ sh.copies = 0 ∧ sh.tiles = 0 ∧ sh.ctl.cmp = 0 ∧ sh.rdepth = 0
  clear : sh.wait = none ∧ sh.sleep = none ∧ sh.pend = none ∧ sh.hand = none ∧ sh.ended = false ∧ ∀ p ∈ sh.ports, p = none
  seg0 : sh.segs[0]? = some ⟨0, 0xFFFFFFFFFFFFFFFF, true⟩
  seg1 : sh.segs[1]? = some ⟨BitVec.ofNat 80 (0x7FFFFFFFFF * 2 ^ 40 + site * 0x800000), 0x7FFFFF, true⟩
  seg3 : ∃ b, sh.segs[3]? = some ⟨b, BitVec.ofNat 64 (kr.stack - 1), true⟩
  seg4 : ∃ last, sh.segs[4]? = some ⟨args, last, decide (0 < alen)⟩ ∧ (0 < alen → last.toNat = alen - 1)
  rest : ∀ n, 5 ≤ n → n < 8 → ∃ g, sh.segs[n]? = some g ∧ g.v = false

/-- Whether a kernel's workgroup of k sheaves fits on a core that holds nothing (R13, R92, R109, R143). -/
def fitsEmpty (s : State) (site k : Nat) (kr : Kernel) : Bool :=
  let c := s.core site
  let need (rank7 : Bool) : Nat := (kr.allocs.map (fun a => if rank7 && a.rank != 7 then 0 else granulesOf a.size)).foldl (· + ·) 0
  !c.noPlace && !c.retired && c.allocs.isEmpty && s.wgs.all (fun w => w.2.site != site) &&
  s.sheaves.all (fun p => ((s.wg p.2.wg).map (fun w => w.site)) != some site) &&
  decide (k * (kr.width * (16 + (kr.named + 7) / 8 * 8) * 4) ≤ 1572864) && decide (1 ≤ k) && decide (k ≤ 16) &&
  [8, 16, 32, 64].contains kr.width && decide (kr.acc.length = 4) && kr.acc.all (fun n => decide (n ≤ 4)) &&
  kr.allocs.all (fun a => decide (1 ≤ a.size)) &&
  decide (need false ≤ 16 * (match (s.die (site / 104)).pending with
    | some (p, _) => min (min (s.die (site / 104)).level c.usable) p | none => min (s.die (site / 104)).level c.usable)) &&
  decide (need false ≤ 512) && decide (need true ≤ 16)

end Sys2Proof.Machine
end

