-- ==== Sys2Proof/Safety/Package.lean ====
section
/-! DEFINITION. The terms of the statements about the package around the cores: firmware cores, shoot-downs, failures and
retirements, partitions, firmware hand-over, receipts, counters, samples and outside observers (10 R163, R170, 20 R285 to R305, 21
R306 to R322). -/

namespace Sys2Proof.Machine

/-! ### Firmware cores (R307, R308) -/

/-- What a register of a firmware core reads; x0 reads 0. -/
def FwCore.val (c : FwCore) (r : Fin 32) : Word := if r = 0 then 0 else lget 0 c.x r.val

/-- The core after an instruction has given v: x0 discards it, and control goes on to the next word. -/
def FwCore.wrote (c : FwCore) (rd : Fin 32) (v : Word) : FwCore :=
  { c with x := if rd = 0 then c.x else lset c.x rd.val v, pc := c.pc + 4 }

/-- An Xirbcp fault (R307): mcause 24 and the code in mtval; no register is written and no memory changes. That mepc holds the
instruction's address and the core goes on at mtvec is the base architecture's (log 19). -/
structure FwFault (c d : FwCore) (code : Nat) : Prop where
  cause : d.mcause = 24
  value : d.mtval = BitVec.ofNat 32 code
  unwritten : d.x = c.x ∧ d.mem = c.mem ∧ d.signals = c.signals
  entered : d.mepc = c.pc ∧ d.pc = c.mtvec &&& ~~~(3#32)

/-- A word of a firmware core's memory. -/
def FwCore.wordAt (c : FwCore) (a : Word) : Word := leWord (c.mem.read a.toNat 4)

/-- No part of n bytes from a can be read. -/
def FwCore.unreadable (c : FwCore) (a n : Nat) : Prop := ∀ r ∈ c.readable, r.2 ≤ a ∨ a + n ≤ r.1

/-- All of n bytes from a can be read. -/
def FwCore.canRead (c : FwCore) (a n : Nat) : Prop := ∃ r ∈ c.readable, r.1 ≤ a ∧ a + n ≤ r.2

/-! ### The routing tree of a die (R285, R288) -/

/-- Core routers k and m of a die are neighbours: beside or above one another in 13 columns (R285). -/
def meshLink (k m : Nat) : Bool :=
  (k / 13 == m / 13 && (k + 1 == m || m + 1 == k)) || k + 13 == m || m + 13 == k

/-- A list of depths is that of a breadth-first tree of the live routers from the lowest-numbered live one (R288). -/
structure Breadthfirst (dead : List Nat) (depths : List (Option Nat)) : Prop where
  size : depths.length = 104
  lost : ∀ k ∈ dead, k < 104 → depths[k]? = some none
  root : ∀ k, k < 104 → k ∉ dead → (∀ m, m < k → m ∈ dead) → depths[k]? = some (some 0)
  only : ∀ k, k < 104 → depths[k]? = some (some 0) → ∀ m, m < k → m ∈ dead
  parent : ∀ k n, depths[k]? = some (some (n + 1)) → ∃ m, m < 104 ∧ meshLink k m = true ∧ depths[m]? = some (some n)
  near : ∀ k m n, k < 104 → m < 104 → meshLink k m = true → m ∉ dead → depths[k]? = some (some n) →
    ∃ n', depths[m]? = some (some n') ∧ n' ≤ n + 1 ∧ n ≤ n' + 1

/-! ### Failures (R292, R302, R305) -/

/-- A function has retired in one update: its ready bit cleared, its retired bit set, every other bit as before (R302). -/
def Retired (s t : State) (f : Function) : Prop :=
  t.ready.has f = false ∧ t.retired.has f = true ∧ ∀ g, g ≠ f → t.ready.has g = s.ready.has g ∧ t.retired.has g = s.retired.has g

/-- A replacement request with a cause is raised if a condition holds (R305). -/
def Requested (s t : State) (now : Bool) (cause : Nat) : Prop :=
  if now = true then t.repl = true ∧ t.cause = cause else t.repl = s.repl ∧ t.cause = s.cause

/-- Whether a device has a live route: a port of its entry that has not failed (R292). -/
def routed (routes : List (Nat × List (Fin 64))) (down : List Nat) (dev : Nat) : Bool :=
  ((kget routes dev).getD []).any (fun p => !down.contains p.val)

/-- A function may set its ready bit (R7, R302): it is not retired; a core is not harvested, and fewer than 96 of its die are ready; the
storage port has an accepted device. -/
def State.comesUp (s : State) (f : Function) : Prop :=
  s.retired.has f = false ∧ (match f with
    | .core n => n < 416 ∧ n % 104 ∉ (s.die (n / 104)).dead ∧
        (n ∈ s.ready.core ∨ (s.ready.core.filter (fun m => m / 104 == n / 104)).length < 96)
    | .stor => s.nvme ≠ []
    | _ => True)

/-- The sites of a die that could be lit as spares: not in use, neither harvested nor retired, in no partition (R304). -/
def State.sparesOf (s : State) (die : Nat) : List Nat :=
  ((List.range 104).map (fun k => die * 104 + k)).filter (fun n =>
    !s.ready.core.contains n && !s.retired.core.contains n && !(s.die die).dead.contains (n % 104) &&
    s.parts.all (fun p => !p.2.cores.contains n))

/-- The spare that takes a retired core's place: the first of its die (R304; which of them is the model's choice, log 27). -/
def State.spareOf (s : State) (site : Nat) : Option Nat := ((s.sparesOf (site / 104)).filter (fun n => n != site)).head?

/-- A partition's cores after one is replaced by a spare, or lost (R304). -/
def replaced (site : Nat) (spare : Option Nat) (l : List Nat) : List Nat :=
  l.flatMap (fun c => if c = site then (match spare with | some n => [n] | none => []) else [c])

/-! ### Shoot-downs (R290) -/

/-- The holders of translations on a device: 416 core sites, and those beyond them (R290, log 9). -/
def everyHolder : List Nat := List.range 440

/-- A translation lies in a shoot-down's range. -/
def TlbEntry.shot (e : TlbEntry) (x : ShootDown) : Bool :=
  let size := 2 ^ e.reach
  e.asid == x.asid && decide (x.lo.toNat < e.page * size + size) && decide (e.page * size ≤ x.hi.toNat)

/-- An access of a holder that a shoot-down has to wait for: one in its range, or one that an entry to be removed maps. -/
def State.awaited (s : State) (a : Acc) (x : ShootDown) (holder : Nat) : Bool :=
  a.site == holder && a.asid == x.asid && !a.kind.isFence && !a.performedAt .dv &&
  ((decide (x.lo.toNat / 65536 ≤ a.va.toNat / 65536) && decide (a.va.toNat ≤ x.hi.toNat)) ||
    s.tlb.any (fun e => e.holder == holder && e.shot x && e.page == a.va.toNat / 2 ^ e.reach))

/-! ### Power (R303) -/

/-- The clocks of R303, in MHz: 1,750 lowered in steps of 125, no lower than 875. -/
def clocks : List Nat := [1750, 1625, 1500, 1375, 1250, 1125, 1000, 875]

/-- Levels that go with a budget (R303): from one lit silo a core to 24, no die's up on a lower budget and none's down on a higher one,
and the dies together, but for one whose own temperature limit holds it lower. -/
structure State.LevelsFit (s : State) (watts : Nat) (levels : List Nat) : Prop where
  dies : levels.length = 4
  some_ : ∃ n ∈ levels, 1 ≤ n ∧ n ≤ 24 ∧ (∀ m ∈ levels, m ≤ n) ∧
    ∀ d, d < 4 → levels[d]? = some (if (s.die d).limit < n then (s.die d).limit else n)
  down : watts < s.budget → ∀ d n, levels[d]? = some n → n ≤ (s.die d).level
  up : s.budget < watts → ∀ d n, levels[d]? = some n → (s.die d).level ≤ n ∨ (s.die d).limit ≤ n

/-! ### Chains, receipts, reports (R310 to R315) -/

/-- The next value of a measurement chain (R310). -/
def linked (m : List Byte) (typ : Nat) (obj : List Byte) : List Byte :=
  shake256 (m ++ leBytes 4 typ ++ leBytes 8 obj.length ++ shake256 obj)

/-- M0 of a context (R310): the eight bytes of IRBIN-MC, its number, the firmware measurement. -/
def firstLink (ctxid : DWord) (fwm : List Byte) : List Byte :=
  shake256 ([0x49, 0x52, 0x42, 0x49, 0x4E, 0x2D, 0x4D, 0x43] ++ leBytes 8 ctxid.toNat ++ fwm)

/-- The command record at the head of a partition's command queue, when a command processor can pop it: queue number, queue,
words (R309, R314). -/
def State.command (s : State) (part : Fin 16) : Option (Nat × Queue × List Word) :=
  let p := s.part part.val
  if s.firmware.hold || p.request.isSome then none
  else match (s.naming part 0 true).2 with
    | none => none
    | some n => match kget s.queues n with
      | none => none
      | some q => if q.state = .opened ∧ standsWhole q = true then some (n, q, s.headRecord q) else none

/-- A record with `KIND` 0, header [15:8] 0 and a code of R309. -/
def commandOk (ws : List Word) : Bool :=
  wordNo ws 0 % 2 ^ 16 == 0 && (wordNo ws 1 == 0x10 || wordNo ws 1 == 0x11)

/-- A 64-bit field of a request block. -/
def fieldAt (bs : List Byte) (off : Nat) : DWord := leDWord ((bs.drop off).take 8)

/-- What is wrong with a receipt request (R312, step 1): an address, then a field. -/
def receiptFault (block : DWord) (bs : List Byte) : Option Nat :=
  let nres := (fieldAt bs 0).toNat % 2 ^ 16
  if block.toNat % 16 ≠ 0 ∨ (fieldAt bs 0x10).toNat % 64 ≠ 0 ∨ (fieldAt bs 8).toNat % 8 ≠ 0 then some 0x07
  else if 2 ^ 16 ≤ (fieldAt bs 0).toNat ∨ 8 < nres ∨
      ∃ i ∈ List.range nres, (fieldAt bs (0x38 + 16 * i)).toNat = 0 ∨ 2 ^ 40 < (fieldAt bs (0x38 + 16 * i)).toNat then some 0x02
  else none

/-- The bytes of a receipt before its signature (R313): the requested buffers' digests, then the join outcomes. -/
def receiptOf (s : State) (c : Context) (bs : List Byte) (buffers : List (List Byte)) (chain : List Byte) : List Byte :=
  let flag (b : Bool) (n : Nat) : Nat := if b then 2 ^ n else 0
  leBytes 2 1 ++ leBytes 2 buffers.length ++ leBytes 4 (c.joins.length % 2 ^ 16 + flag c.norep.isSome 16 + flag c.hov 17) ++
  leBytes 8 s.devid.toNat ++ leBytes 8 c.ctxid.toNat ++ leBytes 8 (c.seq + 1).toNat ++ leBytes 8 s.tai.toNat ++
  (match c.norep with | some n => leBytes 8 n.toNat | none => List.replicate 8 0xFF) ++
  ((bs.drop 0x20).take 16) ++ s.firmware.fwm ++ chain ++ buffers.flatMap shake256 ++ c.joins.flatMap id

/-- The bytes of an attestation report before its signature (R315). -/
def reportOf (s : State) (nonce : List Byte) : List Byte :=
  let f := s.firmware
  leBytes 2 1 ++ leBytes 2 (if f.hrec then 1 else 0) ++ leBytes 4 0 ++ leBytes 8 s.devid.toNat ++ leBytes 8 s.tai.toNat ++
  (if f.hrec then leBytes 8 f.htime.toNat else List.replicate 8 0) ++ nonce ++ f.fwm ++
  (if f.hrec then f.hfwm else List.replicate 64 0) ++ List.replicate 16 0

/-- A message with the device's signature over it: by its identity key and a random string, whatever that is (R313, log 17). -/
def State.signedBytes (s : State) (msg : List Byte) : List Byte :=
  msg ++ s.firmware.idKey.sign ((List.range 32).map (Config.signRandom s.free)) msg

/-! ### Counters and samples (R316 to R320) -/

/-- A slot of a partition's counter page. -/
def Partition.slotNo (p : Partition) (n : Nat) : CtrSlot := lget ⟨0, false, 0⟩ p.slots n

/-- The reasons of R318 that hold of a sheaf that has not issued; reason 1 stands for none of the others. -/
def State.stallHolds (s : State) (sh : Sheaf) (code : Nat) : Bool :=
  let waits : Nat := match sh.wait with
    | some (.watch ..) => 11 | some (.await ..) => 12 | some .barWg => 10 | some .barGg => 10 | some (.port _) => 8
    | some (.lease _) => 13 | some (.quorum ..) => 14 | some (.loss ..) => 15 | some (.replay ..) => 16
    | some .table => 2 | some (.shadow ..) => 2 | none => 24
  let tried : Nat := match sh.ctl.splits.find? (fun x => !x.parked) with | some x => if x.tried then x.stall else 24 | none => 24
  let relocating : Bool := match s.wg sh.wg with | some w => (s.core w.site).relocating | none => (s.core 0).relocating
  code == waits || code == tried || (code == 17 && sh.sleep.isSome) || (code == 21 && sh.pend.isSome && sh.hand.isNone) ||
  (code == 22 && sh.halted) || (code == 23 && relocating)

/-- `STALL` of a sample (R318): 0 for a sheaf that issued, else the first reason that holds. -/
def State.stallOf (s : State) (sh : Sheaf) : Nat :=
  if sh.lastLane = s.cycle ∨ sh.lastGroup = s.cycle then 0
  else ((List.range 24).find? (s.stallHolds sh)).getD 1

/-- The 32 bytes of a sample (R317). -/
def State.sampleOf (s : State) (sched : Nat) (sh : Sheaf) (wg : Workgroup) : List Byte :=
  let issued : Nat := if sh.lastLane = s.cycle ∨ sh.lastGroup = s.cycle then 1 else 0
  let mark (back : Nat) : Nat := if sh.rdepth < back then 0 else if 8 + back ≤ sh.rdepth then 0xFFFF else (lget 0 sh.rmarks (sh.rdepth - back)).toNat
  leBytes 8 ((sh.ctl.splits.head?.map (fun x => (byteAddr x.pc).toNat)).getD 0) ++
  leBytes 1 (s.stallOf sh + 32 * issued + 64 * sched) ++ [0] ++ leBytes 2 (mark 1) ++
  leBytes 2 (mark 2) ++ leBytes 2 wg.gangNo ++
  leBytes 4 (wg.stage % 16 + 16 * (wg.idx % 16) + 256 * (sh.sidx % 16) + 4096 * wg.site) ++
  leBytes 2 sh.rdepth ++ [0, 0] ++ leBytes 8 s.tai.toNat

/-- The resident sheaves of an issue scheduler of a core (R91, R316). -/
def State.scheduled (s : State) (site : Nat) (sched : Fin 4) : List (Nat × Sheaf) :=
  s.sheaves.filter (fun p => !p.2.ended && p.2.slot % 4 == sched.val && (match s.wg p.2.wg with | some w => w.site == site | none => false))

/-- Where a sheaf stands in the rotation: ascending slot, then position (R316). -/
def Sheaf.turn (sh : Sheaf) : Nat := sh.slot * 64 + sh.pos

/-- The next of a scheduler's sheaves in rotation: the first at or after the last sample's, else the first of all (R316). -/
def NextInRotation (s : State) (site : Nat) (sched : Fin 4) (k : Nat) (sh : Sheaf) : Prop :=
  let from_ := lget 0 (s.core site).rotate sched.val
  let l := s.scheduled site sched
  (k, sh) ∈ l ∧
  (if from_ ≤ sh.turn then ∀ p ∈ l, from_ ≤ p.2.turn → p ≠ (k, sh) → sh.turn < p.2.turn
   else ∀ p ∈ l, p.2.turn < from_ ∧ (p ≠ (k, sh) → sh.turn < p.2.turn))

/-! ### Outside observers (R163, R170, R298 to R301) -/

/-- A load, store, atomic or fence: no part of a port's completion, of a reservation or of a join. -/
def onMemory (op : ExtOp) : Bool :=
  match op with
  | .load _ => true
  | .store _ => true
  | .amo .. => true
  | .cas .. => true
  | .fence => true
  | _ => false

/-- An outside observer's step brings an access to memory: an application core that has not failed (R170), an Ethernet port whose
addresses a port carries, with the atomics of R299, a storage controller that is attached (R301), a device that is reached, for the
address space its pod process identifier names (R293). -/
inductive Brings (s : State) : Instr → BitVec 16 → Addr → ExtOp → Prop
  | app (core : Fin 16) (asid : BitVec 16) (va : Addr) (op : ExtOp) : core.val ∉ s.appDown → (∀ w, op ≠ .lr w) → (∀ w v, op ≠ .sc w v) →
      Brings s (.applicationCoreAccess core asid va op) asid va op
  | rdma (port : Fin 2) (asid : BitVec 16) (va : Addr) (op : ExtOp) : lget port.val s.ethFor port.val ∉ s.ethDown →
      ((∃ n, op = .load n) ∨ (∃ bs, op = .store bs) ∨ (∃ v, op = .amo .add true v) ∨ ∃ v w, op = .cas true v w) →
      Brings s (.rdmaOperation port asid va op) asid va op
  | nvme (slot : Fin 8) (asid : BitVec 16) (va : Addr) (op : ExtOp) : slot.val ∈ s.nvme →
      ((∃ n, op = .load n) ∨ ∃ bs, op = .store bs) → Brings s (.nvmeDma slot asid va op) asid va op
  | pod (dev : BitVec 13) (pid : BitVec 16) (va : Addr) (op : ExtOp) (n : Nat) (p : Partition) (r : Remote) :
      s.parts.find? (fun x => x.2.pid == pid) = some (n, p) → s.remotes.find? (fun x => x.dev.toNat == dev.toNat) = some r →
      r.up = true → onMemory op = true → Brings s (.podRequestArrival dev pid va op) p.asid ((va.setWidth 66).setWidth 80) op

/-- What the LRs of application cores hold after n bytes at a place are written: nothing of those bytes (R170). -/
def State.heldAfter (s : State) (pl : Place) (n : Nat) : List (Nat × (Place × Nat)) :=
  s.appHeld.filter (fun r => !r.2.1.meets r.2.2 pl n)

/-- A port brings an operation (R170): an Ethernet port whose addresses a port carries, or an attached storage controller. -/
inductive AtPort (s : State) : Instr → Nat → BitVec 16 → Addr → ExtOp → Prop
  | rdma (port : Fin 2) (asid : BitVec 16) (va : Addr) (op : ExtOp) : lget port.val s.ethFor port.val ∉ s.ethDown →
      AtPort s (.rdmaOperation port asid va op) port.val asid va op
  | nvme (slot : Fin 8) (asid : BitVec 16) (va : Addr) (op : ExtOp) : slot.val ∈ s.nvme →
      AtPort s (.nvmeDma slot asid va op) (2 + slot.val) asid va op

/-- The n bytes at an address lie at `pb` in plain memory for an observer, with no store of a sheaf on its way there. -/
def State.observed (s : State) (asid : BitVec 16) (a : Access) (va : Addr) (n pb : Nat) : Prop :=
  s.hwRange asid a va n = (s, .ok [(.hbm pb, n)]) ∧ s.clearOver (.hbm pb) n = true ∧ s.plainAt pb = true

end Sys2Proof.Machine
end

