-- ==== Sys2Proof/Certificates/Slice0/Obligations.lean ====
section
/-! DEFINITION. The statements for the provers, each over the shared vocabulary of Sys2Proof/Safety. -/

open Sys2Proof Sys2Proof.Machine

/-- R24 to R36, R308: words that the spec's own examples write out decode to the instructions they stand for, and the words of
all zeros and all ones are no instructions. -/
def Obligations.SpecWordsDecode : Prop :=
  decodeTableWord 32 0x01596810 = some (.addR ⟨false, false⟩ false (.n 6) ⟨.n 6, true⟩ ⟨.q 0, true⟩) ∧
  decodeTableWord 32 0x1D402000 = some (.movl (.n 0) 0x2000) ∧
  decodeTableWord 32 0x03410804 = some (.addI64 (.n 0) ⟨.n 0, true⟩ 4) ∧
  decodeTableWord 32 0xB00FFF00 = some (.waitc 0 15 15 15) ∧
  decodeTableWord 32 0xA653FFFB = some (.brl (.n 4) (-5)) ∧
  decodeTableWord 32 0x43010000 = some (.ldW32 .push ⟨⟨.n 0, false⟩, 0, 0⟩) ∧
  decodeTableWord 32 0x48590000 = some (.stW32 (.n 6) ⟨⟨.n 0, false⟩, 0, 0⟩) ∧
  decodeTableWord 32 0x30554B04 = some (.cvt .e4m3 .f32 .rne true (.n 5) ⟨.n 4, true⟩) ∧
  decodeTableWord 32 0x23020D68 = some (.fma false .rne ⟨.q 0, true⟩ ⟨.q 1, true⟩ ⟨.n 6, true⟩) ∧
  decodeTableWord 32 0x38540000 = some (.laneid (.n 5)) ∧
  decodeTableWord 32 0x89136D88 = some (.gOrR true (.g 4) (.sp .cycle) (.sp .cycle)) ∧
  decodeTableWord 32 0xC0008600 = some (.copy (.g 8) (.g 24) 0) ∧
  decodeTableWord 32 0x60060E40 = some (.mma ⟨0, 0⟩ (.n 8) 1 (.g 2) false false) ∧
  decodeTableWord 32 0xD153A000 = some (.qpopRec (.n 4) 2) ∧
  decodeTableWord 32 0xDA014145 = some (.qcontribRow 1 (.g 20) (.g 5)) ∧
  decodeTableWord 32 0xE0004005 = some (.setsegBase 5 (.g 4)) ∧
  decodeTableWord 32 0xE9100003 = some (.ctrd (.g 4) 3) ∧
  decodeTableWord 32 0x00C5950B = some (.bfe 10 11 12) ∧
  decode 0 = .error .illegal ∧ decode (BitVec.allOnes 32) = .error .illegal

/-- R24 to R36, R308: the decoder and the encoder agree on every well-formed instruction that has a word, with every operand at
every value. `GRANT_RELIGHT` has the word of `GRANT` (11 R185), whose instruction the decoder gives (log 24). R24 to R36, R308:
every word that is an instruction is that instruction's only word, and the instruction is well formed. -/
def Obligations.DecodeAndEncodeAgree : Prop :=
  (∀ (i : Instr) (w : Word), i.wf = true → (∀ d c a, i ≠ .grantRelight d c a) → encode i = some w →
     decodeTableWord 32 w.toNat = some i) ∧
  ((∀ (w : Word) (i : Instr), decode w = .ok i → i.wf = true ∧ encode i = some w) ∧
   (∀ (w : Word) (i : Instr), decodeXirbcp w = some i → i.wf = true ∧ encode i = some w ∧ decode w = .error .illegal))

/-- R23, R35, R36, R106, R307: a step runs the decoded instruction. Where the word that the issuing split, or the firmware core,
fetches decodes to i, the step is what i does at that state, with what every step adds (time, reconvergence, counting; log 4,
log 6); a word that is no instruction takes its trap, a fetch that faults traps with that fault, and one outside every loaded
code object waits. A firmware core takes an interrupt first; its words of the base set change that core alone, and signals and
interrupts come to it after each (log 20). An agent's step is what that step does. During a hand-over of the memory processors a
step that needs one is not made. -/
def Obligations.StepRunsTheDecodedInstruction : Prop :=
  (∀ (s : State) (k j : Nat) (c : Ctx), s.nextMove = some (.issue k j) → s.mayIssue k j = true → s.firmware.memHold = false →
    let s0 : State := { s with cur := .sheaf k j, word := 0 }
    s0.ctx = some c →
    let after (t : State) (d : Did) : Host.Outcome State Fault Refusal :=
      .next (({ s with agenda := s.agenda.tail }).after { t with agenda := t.agenda.tail } d)
    (∀ w, s0.fetch c = .word w →
      let s1 : State := { (s0.cacheLocal (viaOf c.k c.sh c.wg 0) (byteAddr c.sp.pc)) with word := w }
      (∀ i t, decode w = .ok i → exec i s1 = .next t → step s = after t ⟨some k, w, c.active, some i⟩) ∧
      (∀ e t, decode w = .error e → exec (.wordNotInstruction w) s1 = .next t → step s = after t ⟨some k, w, c.active, none⟩)) ∧
    (s0.fetch c = .absent → step s = after (s0.stall c 9) ⟨none, 0, 0, none⟩) ∧
    (∀ code, s0.fetch c = .fault code → c.calm = true →
      step s = after (s0.setSheaf k (c.parked s0 { code := code, opnd := 0, addr := byteAddr c.sp.pc })) ⟨some k, 0, c.active, none⟩)) ∧
  (∀ (s : State) (p : Nat), s.nextMove = some (.fw p) → (s.fw p).failed = false → s.firmware.memHold = false →
    let w := s.fwWord p
    let s1 : State := { s with cur := .fw p, word := w }
    let after (t : State) : Host.Outcome State Fault Refusal :=
      .next (({ s with agenda := s.agenda.tail }).after { t.fwLater p with agenda := t.agenda.tail } ⟨none, 0, 0, none⟩)
    (∀ d, (s.fw p).interrupt = some d → step s = after (s1.setFw p d)) ∧
    ((s.fw p).interrupt = none →
      (∀ i t, w.extractLsb' 0 7 = 0x0B → decodeXirbcp w = some i → exec i s1 = .next t → step s = after t) ∧
      (w.extractLsb' 0 7 = 0x0B → decodeXirbcp w = none → ∃ d, d.mcause = 2 ∧ d.x = (s.fw p).x ∧ d.mem = (s.fw p).mem ∧
        step s = after (s1.setFw p d)) ∧
      (w.extractLsb' 0 7 ≠ 0x0B → ∃ d, step s = after (s1.setFw p d)))) ∧
  (∀ (s t : State) (i : Instr), s.nextMove = some (.event i) → s.firmware.memHold = false →
    exec i { s with cur := .none, word := 0 } = .next t →
    step s = .next (({ s with agenda := s.agenda.tail }).after { t with agenda := t.agenda.tail } ⟨none, 0, 0, some i⟩))

/-- No step of the machine faults or is refused: every instruction and every agent's step goes on, traps, waits, or is passed
over, and time passes (R115). -/
def Obligations.StepsNeverFault : Prop :=
  ∀ s : State, ∃ t, step s = .next t ∧ s.cycle < t.cycle

/-- Every step keeps every memory of the machine in its canonical form (log 1): physical memory, each allocation, each firmware
core's memory and each other device's. -/
def Obligations.MemoriesStayCanonical : Prop :=
  ∀ s t : State, s.canonical → step s = .next t → t.canonical

/-- R98: splits of one sheaf that stand at one address unite, so that after every step those of a sheaf stand at different
addresses; a split whose instruction is being replayed stays apart until it is over (log 11). -/
def Obligations.SplitsStayApart : Prop :=
  ∀ s t : State, s.apartSplits → step s = .next t → t.apartSplits

/-- R302, R319 and the rules that give a value at reset: nothing runs and nothing is ready, the clock stands at 0 and has met no
grandmaster, and every partition's counter page holds its reset values. The memories are canonical and the splits apart. What
the spec gives no value for is the model's choice (log 2), and not stated here. -/
def Obligations.ResetIsAsTheSpecSays : Prop :=
  let s := State.reset
  s.canonical ∧ s.apartSplits ∧ s.cycle = 0 ∧ s.tai = 0 ∧ s.disciplined = false ∧ s.sheaves = [] ∧ s.queues = [] ∧ s.joins = [] ∧
  (∀ f, s.ready.has f = false ∧ s.retired.has f = false) ∧ s.repl = false ∧ s.cause = 0 ∧ s.clock = 1750 ∧
  ∀ p, let x := s.part p
    x.slots = List.replicate 16 ⟨0, false, 0⟩ ∧ x.plog2 = 12 ∧ x.son = false ∧ x.rbase = 0 ∧ x.rlog2 = 7 ∧ x.rhead = 0 ∧ x.rtail = 0 ∧
      x.drops = 0

/-- R61, in full: cells 0x0C to 0x11 are the logic instructions, on two sources of the width that bit [3] gives, or on 32 bits
with the immediate sign-extended; each bit of the result is the operation on the two bits, in every active lane. R65, in full:
cells 0x0B and 0x1B compare two sources of the width that bit [3] gives, signed and unsigned; the result is one register of
every active lane, 1 where the relation holds and 0 where not; codes 6 and 7 are reserved, and equality is the same in both
cells. R66, in full: cell 0x1C with modifier 0 is `sel`, whose three sources are all read and whose marks all take effect,
whichever value is chosen; it pushes a where c is not 0 and b where c is 0. -/
def Obligations.LogicCompareAndSelect : Prop :=
  ((∀ (w : Word) (i : Instr), decode w = .ok i →
     (w.extractLsb' 24 8 = 0x0C → w.extractLsb' 0 3 = 0 ∧ ∃ d a b, i = .andR (w.getLsbD 3) d a b) ∧
     (w.extractLsb' 24 8 = 0x0D → w.extractLsb' 0 3 = 0 ∧ ∃ d a b, i = .orR (w.getLsbD 3) d a b) ∧
     (w.extractLsb' 24 8 = 0x0E → w.extractLsb' 0 3 = 0 ∧ ∃ d a b, i = .xorR (w.getLsbD 3) d a b) ∧
     (w.extractLsb' 24 8 = 0x0F → ∃ d a, i = .andI d a (w.extractLsb' 0 11)) ∧
     (w.extractLsb' 24 8 = 0x10 → ∃ d a, i = .orI d a (w.extractLsb' 0 11)) ∧
     (w.extractLsb' 24 8 = 0x11 → ∃ d a, i = .xorI d a (w.extractLsb' 0 11))) ∧
   (∀ (w64 : Bool) (d : LDst) (a b : LSrc) (op : Bool → Bool → Bool) (i : Instr),
     (i = .andR w64 d a b ∧ op = and ∨ i = .orR w64 d a b ∧ op = or ∨ i = .xorR w64 d a b ∧ op = xor) →
     ∃ f : DWord → DWord → DWord, (∀ x y n, n < (if w64 then 64 else 32) → (f x y).getLsbD n = op (x.getLsbD n) (y.getLsbD n)) ∧
       CompletesAs i (.two w64 d (regsOf w64) a b f)) ∧
   (∀ (d : LDst) (a : LSrc) (imm : BitVec 11) (op : Bool → Bool → Bool) (i : Instr),
     (i = .andI d a imm ∧ op = and ∨ i = .orI d a imm ∧ op = or ∨ i = .xorI d a imm ∧ op = xor) →
     ∃ f : DWord → DWord, (∀ x n, n < 32 → (f x).getLsbD n = op (x.getLsbD n) (imm.getLsbD (min n 10))) ∧
       CompletesAs i (.one false d 1 a f))) ∧
  ((∀ w : Word, (w.extractLsb' 24 8 = 0x0B ∨ w.extractLsb' 24 8 = 0x1B) →
     (6 ≤ (w.extractLsb' 0 3).toNat → decode w = .error .illegal) ∧
     (∀ i, decode w = .ok i → ∃ r d a b, ([Rel.eq, .ne, .lt, .le, .gt, .ge])[(w.extractLsb' 0 3).toNat]? = some r ∧
       i = if w.extractLsb' 24 8 = 0x0B then .cmpSigned r (w.getLsbD 3) d a b else .cmpUnsigned r (w.getLsbD 3) d a b)) ∧
   (∀ (uns w64 : Bool) (r : Rel) (d : LDst) (a b : LSrc) (i : Instr),
     (i = if uns then .cmpUnsigned r w64 d a b else .cmpSigned r w64 d a b) →
     let v (x : DWord) : Int := match w64, uns with
       | true, true => x.toNat
       | true, false => x.toInt
       | false, true => (x.setWidth 32).toNat
       | false, false => (x.setWidth 32).toInt
     let holds (x y : Int) : Bool := match r with
       | .eq => x = y | .ne => x ≠ y | .lt => x < y | .le => x ≤ y | .gt => x > y | .ge => x ≥ y
     CompletesAs i (.two w64 d 1 a b (fun x y => if holds (v x) (v y) then 1 else 0))) ∧
   (∀ (w64 : Bool) (r : Rel) (d : LDst) (a b : LSrc) (s : State), (r = .eq ∨ r = .ne) →
     exec (.cmpSigned r w64 d a b) s = exec (.cmpUnsigned r w64 d a b) s)) ∧
  ((∀ (w : Word) (i : Instr), w.extractLsb' 24 8 = 0x1C → decode w = .ok i → w.extractLsb' 0 3 = 0 ∧ ∃ c a b, i = .sel c a b) ∧
   (∀ c a b : LSrc, CompletesAs (.sel c a b)
     ⟨.push, 1, [⟨2, c, 1⟩, ⟨3, a, 1⟩, ⟨4, b, 1⟩], fun v => if v.getD 0 0 ≠ 0 then v.getD 1 0 else v.getD 2 0⟩))

/-- R83, in full: cell 0x27 with sub-operation 0, 1 and 2 is `abs`, `neg` and `csgn`, of the type that bits [3:2] give. `abs`
clears the sign bit of the format, `neg` inverts it, `csgn` takes that of b; every other bit of the format is copied, in every
active lane. R119, in full: cell 0x38 with every other field but the destination 0 is `laneid`. Each participant's destination
takes its own index within the sheaf, wherever the sheaf sits in its slot; lanes of other splits are not written. -/
def Obligations.SignBitAndLaneIndex : Prop :=
  ((∀ (w : Word), w.extractLsb' 24 8 = 0x27 →
     (w.extractLsb' 0 2 = 3 → decode w = .error .illegal) ∧
     (∀ i, decode w = .ok i → ∃ ty d a b sp, ([FTy.f32, .f16, .bf16])[(w.extractLsb' 2 2).toNat]? = some ty ∧
       (w.extractLsb' 0 2 = 0 ∧ i = .abs ty d a sp ∨ w.extractLsb' 0 2 = 1 ∧ i = .neg ty d a sp ∨
         w.extractLsb' 0 2 = 2 ∧ i = .csgn ty d a b))) ∧
   (∀ (ty : FTy) (d : LDst) (a b : LSrc) (sp : BitVec 7),
     let sign := if ty = .f32 then 31 else 15
     let kept (f : DWord → DWord → DWord) (bit : Bool → Bool → Bool) : Prop := ∀ x y n, n ≤ 31 →
       (f x y).getLsbD n = if n < sign then x.getLsbD n else if n = sign then bit (x.getLsbD n) (y.getLsbD n) else false
     (∃ f, kept f (fun _ _ => false) ∧ CompletesAs (.abs ty d a sp) (.one false d 1 a (fun x => f x 0))) ∧
     (∃ f, kept f (fun x _ => !x) ∧ CompletesAs (.neg ty d a sp) (.one false d 1 a (fun x => f x 0))) ∧
     (∃ f, kept f (fun _ y => y) ∧ CompletesAs (.csgn ty d a b) (.two false d 1 a b f)))) ∧
  ((∀ (w : Word) (i : Instr), w.extractLsb' 24 8 = 0x38 → decode w = .ok i → w.extractLsb' 0 18 = 0 ∧ ∃ d, i = .laneid d) ∧
   decode 0x38540000#32 = .ok (.laneid (.n 5)) ∧
   (∀ (d : LDst) (s : State) (c : Ctx), s.ctx = some c → (LaneForm.const d 0).ready s c = true →
     ∃ sh, exec (.laneid d) s = .next (s.setSheaf c.k sh) ∧ { sh with lanes := c.sh.lanes, ctl := c.sh.ctl } = c.sh ∧
       ∀ (l : Nat) (ln : Lane), c.sh.lanes[l]? = some ln → sh.lanes[l]? = some (if c.active.getLsbD l
         then ln.writeEntries d [⟨BitVec.ofNat 32 l, true, none⟩] else ln)))

/-- R59, R60, R65: integer arithmetic and comparison. Where no queue port is named, every named register is below the declared
count and, under `.strict`, nothing dead is read, the instruction completes: each active lane's destination takes the value of
the rule's table, the marked sources die, and nothing else of the machine changes but the split's address. R61 to R64, R66, R67:
logic, shifts, bit fields, selection and constants, in the same words. -/
def Obligations.IntegerLaneResults : Prop :=
  (∀ (i : Instr) (r : LaneForm) (s : State) (c : Ctx), arithForm i = some r → s.ctx = some c → r.ready s c = true →
     exec i s = .next (s.setSheaf c.k (r.sheaf s c c.active))) ∧
  (∀ (i : Instr) (r : LaneForm) (s : State) (c : Ctx), logicForm i = some r → s.ctx = some c → r.ready s c = true →
     exec i s = .next (s.setSheaf c.k (r.sheaf s c c.active)))

/-- R79 to R85: float arithmetic, extrema, comparison, signs, functions and classes, in the same words. R86 to R90: conversion,
`pack`, `unpk`, `dot`, `scale`, in the same words. -/
def Obligations.FloatAndPackedLaneResults : Prop :=
  (∀ (i : Instr) (r : LaneForm) (s : State) (c : Ctx), floatForm i = some r → s.ctx = some c → r.ready s c = true →
     exec i s = .next (s.setSheaf c.k (r.sheaf s c c.active))) ∧
  (∀ (i : Instr) (r : LaneForm) (s : State) (c : Ctx), packForm i = some r → s.ctx = some c → r.ready s c = true →
     exec i s = .next (s.setSheaf c.k (r.sheaf s c c.active)))

/-- R14: a named register from the declared count on, in a field or as the high register of a pair, traps with 0x04 and has no
effect; the operand is the first such field. R16, R22, R265: under `.strict` a lane that reads something dead leaves the split
with dead read (0x03), unchanged, and the instruction completes in the others; the record shows the field of the lowest such
lane. R118: a dead read of any participant under `.strict` is a fault of the whole split, which then has no effect in any lane.
R19, R22: an access that does not lie inside its segment faults with segment bound (0x08) and has no effect; where every active
lane's does, the whole split parks, and the record shows the address of the lowest lane. R71: with its class counter at 63 a
memory instruction that would raise it does not issue. -/
def Obligations.LaneFaultsHaveNoEffect : Prop :=
  (∀ (i : Instr) (r : LaneForm) (s : State) (c : Ctx) (f : Nat), laneForm i = some r → s.ctx = some c → c.calm = true →
     r.beyond c.sh.named = some f → exec i s = .next (s.setSheaf c.k (c.parked s { code := 0x04, opnd := f }))) ∧
  (∀ (i : Instr) (r : LaneForm) (s : State) (c : Ctx) (l f : Nat) (rest : List (Nat × Nat)), laneForm i = some r →
     s.ctx = some c → c.calm = true → c.sp.replay = none → r.portless = true → r.beyond c.sh.named = none →
     c.sh.strict = true → r.deadLanes s c = (l, f) :: rest →
     exec i s = .next (s.setSheaf c.k (c.parkSome s
       (r.sheaf s c (c.active &&& ~~~maskOf ((r.deadLanes s c).map (·.1))))
       (maskOf ((r.deadLanes s c).map (·.1))) { code := 0x03, opnd := f }))) ∧
  (∀ (i : Instr) (r : MaskForm) (s : State) (c : Ctx) (l f : Nat) (rest : List (Nat × Nat)), maskForm i = some r →
     s.ctx = some c → c.calm = true → r.fields.portless = true → r.fields.beyond c.sh.named = none →
     c.sh.strict = true → r.fields.deadLanes s c = (l, f) :: rest →
     exec i s = .next (s.setSheaf c.k (c.parked s { code := 0x03, opnd := f }))) ∧
  (∀ (i : Instr) (r : MemReq) (s : State) (c : Ctx) (l : Nat) (rest : List Nat), memForm i = some r → s.ctx = some c →
     c.calm = true → c.sp.replay = none → r.beyond c.sh.named = false →
     (match r.data with | some (v, _) => v.port.isNone | none => true) = true →
     (if r.dst.isNone then c.sh.stores else c.sh.loads) < 63 → maskLanes c.active = l :: rest →
     (∀ m ∈ maskLanes c.active, r.live s c m = true ∧ r.address s c m = none) →
     let ea : Addr := (r.segment c).base + BitVec.ofInt 80 (r.offset s c l)
     exec i s = .next { s.setSheaf c.k (c.parked s { code := 0x08, opnd := 2, addr := ea }) with nextKey := s.nextKey + 1 }) ∧
  (∀ (i : Instr) (r : MemReq) (s : State) (c : Ctx), memForm i = some r → s.ctx = some c → r.beyond c.sh.named = false →
     (c.sp.replay.bind (fun x => x.op)) = none →
     63 ≤ (if r.dst.isNone then c.sh.stores else c.sh.loads) → exec i s = .next (s.setSheaf c.k (c.stalled 7)))

/-- R68, R14: `nget` and `nset` reach the named file by an index read from source A; the lanes whose index is at or above the
declared count leave with 0x04 and no effect, the others complete. R118 to R123: the lane-mask instructions. Every participant
reads before any writes, the marks take effect in every participant, and lanes outside the split neither contribute nor change. -/
def Obligations.IndexedMovesAndLaneMasks : Prop :=
  ((∀ (d : LDst) (i : LSrc) (s : State) (c : Ctx), s.ctx = some c → c.calm = true → c.sp.replay = none →
     i.reg.port = none → d.port = none → (LaneForm.one false d 1 i id).beyond c.sh.named = none →
     liveOrLax s c (fun _ => i.reg) = true → liveOrLax s c (fun l => .n (Fin.ofNat 32 (indexIn s c i l))) = true →
     exec (.nget d i) s = .next (s.setSheaf c.k
       (c.split s (indexBeyond s c i) { code := 0x04, opnd := 2 } (ngetSheaf s c d i)))) ∧
   (∀ (i v : LSrc) (s : State) (c : Ctx), s.ctx = some c → c.calm = true → c.sp.replay = none →
     i.reg.port = none → v.reg.port = none → c.sh.named ≤ 32 →
     (LaneForm.two false .push 1 i v (fun x _ => x)).beyond c.sh.named = none →
     liveOrLax s c (fun _ => i.reg) = true → liveOrLax s c (fun _ => v.reg) = true →
     exec (.nset i v) s = .next (s.setSheaf c.k
       (c.split s (indexBeyond s c i) { code := 0x04, opnd := 2 } (nsetSheaf s c i v))))) ∧
  (∀ (i : Instr) (r : MaskForm) (s : State) (c : Ctx), maskForm i = some r → s.ctx = some c →
     r.fields.ready s c = true → exec i s = .next (s.setSheaf c.k (r.sheaf s c)))

/-- R105: queue ports as lane operands. A port that is not bound in the direction, or whose queue is not open, faults with the
first such field and nothing is popped or pushed; too few words or too little room in any queue and the instruction does not
issue; otherwise each field pops a word for each active lane in lane order, field by field, and a port destination takes a word
from each. R105, R113: queue ports as group operands, one word for the sheaf: faults, stalls, pops and pushes as for lanes. -/
def Obligations.QueuePortsPopAndPushWords : Prop :=
  (∀ (i : Instr) (r : LaneForm) (s : State) (c : Ctx), laneForm i = some r → s.ctx = some c → c.sh.strict = false →
     r.beyond c.sh.named = none →
     let us := r.ports (maskLanes c.active).length
     (∀ code f, us.findSome? (s.portFault c.sh us) = some (code, f) → c.calm = true →
       exec i s = .next (s.setSheaf c.k (c.parked s { code := code, opnd := f }))) ∧
     (us.findSome? (s.portFault c.sh us) = none → s.portsReady (s.portNeeds c.sh us) = false →
       exec i s = .next (s.setSheaf c.k (c.portStalled s (s.portNeeds c.sh us)))) ∧
     (us.findSome? (s.portFault c.sh us) = none → s.portsReady (s.portNeeds c.sh us) = true →
       exec i s = .next (r.ported s c))) ∧
  (∀ (i : Instr) (r : GroupForm) (s : State) (c : Ctx), groupForm i = some r → s.ctx = some c → mayWrite c r.dst = true →
     let us := groupUses r.srcs (some r.dst)
     (∀ code f, us.findSome? (s.portFault c.sh us) = some (code, f) → c.calm = true →
       exec i s = .next (s.setSheaf c.k (c.parked s { code := code, opnd := f }))) ∧
     (us.findSome? (s.portFault c.sh us) = none → s.portsReady (s.portNeeds c.sh us) = false →
       exec i s = .next (s.setSheaf c.k (c.portStalled s (s.portNeeds c.sh us)))) ∧
     (us.findSome? (s.portFault c.sh us) = none → s.portsReady (s.portNeeds c.sh us) = true →
       exec i s = .next (r.ported s c)))

/-- R113 to R115: the uniform ALU. Once per sheaf, from group-uniform registers, block registers or specials, to a group-uniform
register, or from sheaf 0 to a block register; nothing else of the machine changes but the split's address (and what the sheaf
has seen of the block registers it read, log 12). -/
def Obligations.GroupAluResults : Prop :=
  ∀ (i : Instr) (r : GroupForm) (s : State) (c : Ctx), groupForm i = some r → s.ctx = some c →
    portlessGroup r.srcs (some r.dst) = true → mayWrite c r.dst = true →
    exec i s = .next (groupWritten s c r.srcs r.dst (r.result (r.reads s c)))

/-- R104: a write of a block register by any sheaf but sheaf 0 of its workgroup traps with uniform-writer violation (0x05) and
has no effect. R116: `rdlane` reads a lane active or not, and 0 beyond the width; `rdfirst` the lowest active lane; `amask` the
mask. Each writes a group destination. A dead register reads 0, and under `.strict` faults the whole split. -/
def Obligations.LanesAndSheafExchange : Prop :=
  (∀ (i : Instr) (s : State) (c : Ctx) (k : Fin 16),
     ((∃ r, groupForm i = some r ∧ r.dst = .b k) ∨ (∃ a ix, i = .rdlane (.b k) a ix) ∨ (∃ a, i = .rdfirst (.b k) a) ∨
       i = .amask (.b k)) →
     (∀ a ix, i = .rdlane (.b k) a ix → a.top 1 = none ∨ ∃ n, a.top 1 = some n ∧ n < c.sh.named) →
     (∀ a, i = .rdfirst (.b k) a → a.top 1 = none ∨ ∃ n, a.top 1 = some n ∧ n < c.sh.named) →
     s.ctx = some c → c.calm = true → c.sh.sidx ≠ 0 →
     exec i s = .next (s.setSheaf c.k (c.parked s { code := 0x05, opnd := 1 }))) ∧
  ((∀ (d : GDst) (a : LReg) (x : GSrc) (s : State) (c : Ctx), s.ctx = some c →
     portlessGroup [⟨3, x, 1⟩] (some d) = true → mayWrite c d = true → (a.top 1).all (· < c.sh.named) = true →
     let n := (gRead s c 1 x).toNat
     (c.sh.width ≤ n → exec (.rdlane d a x) s = .next (groupWritten s c [⟨3, x, 1⟩] d [0])) ∧
     (n < c.sh.width → (c.sh.strict = false ∨ regsDead s.free c.sh n a 1 = false) →
       exec (.rdlane d a x) s = .next (groupWritten s c [⟨3, x, 1⟩] d [(regRead s.free c.sh n a).1])) ∧
     (n < c.sh.width → c.sh.strict = true → regsDead s.free c.sh n a 1 = true → c.calm = true →
       exec (.rdlane d a x) s = .next (s.setSheaf c.k (c.parked s { code := 0x03, opnd := 2 })))) ∧
   (∀ (d : GDst) (a : LReg) (n : Nat) (rest : List Nat) (s : State) (c : Ctx), s.ctx = some c →
     portlessGroup [] (some d) = true → mayWrite c d = true → (a.top 1).all (· < c.sh.named) = true →
     maskLanes c.sp.mask = n :: rest →
     ((c.sh.strict = false ∨ regsDead s.free c.sh n a 1 = false) →
       exec (.rdfirst d a) s = .next (groupWritten s c [] d [(regRead s.free c.sh n a).1])) ∧
     (c.sh.strict = true → regsDead s.free c.sh n a 1 = true → c.calm = true →
       exec (.rdfirst d a) s = .next (s.setSheaf c.k (c.parked s { code := 0x03, opnd := 2 })))) ∧
   (∀ (d : GDst) (s : State) (c : Ctx), s.ctx = some c → portlessGroup [] (some d) = true → mayWrite c d = true →
     exec (.amask d) s = .next (groupWritten s c [] d [DWord.lo c.sp.mask, DWord.hi c.sp.mask])))

/-- R74: the uniform branches and `nop`. The split goes to the target of R35 where the branch is taken and to the next word
otherwise; no register, no other split and no memory changes. R75: `call` puts the address of the next word in `g30` and `g31`
and goes to its target; `ret` goes to the address in `g31` and `g30`, `jmp` to that of its pair; an address whose bits [1:0] are
not 0 faults with misaligned (0x07) and the split parks where it is. R129: `enter` and `leave` move the region stack and change
nothing else; a halt request is taken before either (R324). -/
def Obligations.UniformControlFlow : Prop :=
  (∀ (s : State) (c : Ctx), s.ctx = some c →
     (∀ off, exec (.br off) s = .next (s.setSheaf c.k (c.sheafAt (c.dest off)))) ∧
     (∀ x off, x.port = none → exec (.bz x off) s = .next (s.setSheaf c.k
       (c.sheafTo s [⟨2, x, 1⟩] (if (gRead s c 1 x).lo = 0 then c.dest off else c.sp.pc + 1)))) ∧
     (∀ x off, x.port = none → exec (.bnz x off) s = .next (s.setSheaf c.k
       (c.sheafTo s [⟨2, x, 1⟩] (if (gRead s c 1 x).lo = 0 then c.sp.pc + 1 else c.dest off)))) ∧
     exec .nop s = .next (s.setSheaf c.k (c.sheafAt (c.sp.pc + 1)))) ∧
  (∀ (s : State) (c : Ctx), s.ctx = some c →
     (∀ off, exec (.call off) s = .next (s.setSheaf c.k { c.sheafAt (c.dest off) with
       g := lset (lset c.sh.g 30 ((byteAddr (c.sp.pc + 1)).setWidth 32)) 31 (((byteAddr (c.sp.pc + 1)) >>> 32).setWidth 32) })) ∧
     (let p := DWord.ofPair (lget 0 c.sh.g 30) (lget 0 c.sh.g 31)
      (p.toNat % 4 = 0 → exec .ret s = .next (s.setSheaf c.k (c.sheafAt (BitVec.ofNat 78 (p.toNat / 4))))) ∧
      (p.toNat % 4 ≠ 0 → c.calm = true →
        exec .ret s = .next (s.setSheaf c.k (c.parked s { code := 0x07, opnd := 0, addr := p.setWidth 80 })))) ∧
     (∀ x : GSrc, x.port = none →
       let p := gRead s c 2 x
       (p.toNat % 4 = 0 → exec (.jmp x) s = .next (s.setSheaf c.k (c.sheafTo s [⟨2, x, 2⟩] (BitVec.ofNat 78 (p.toNat / 4))))) ∧
       (p.toNat % 4 ≠ 0 → c.calm = true → exec (.jmp x) s = .next (s.setSheaf c.k
         { c.parked s { code := 0x07, opnd := 2, addr := p.setWidth 80 } with seen := seenAfter s c [⟨2, x, 2⟩] })))) ∧
  (∀ (s : State) (c : Ctx), s.ctx = some c →
     (c.sh.haltReq = false →
       (∀ a : GSrc, a.port = none → exec (.enter a) s = .next (s.setSheaf c.k { c.sheafTo s [⟨2, a, 1⟩] (c.sp.pc + 1) with
         rmarks := (regionEnter c.sh.rmarks c.sh.rdepth (gRead s c 1 a).lo).1
         rdepth := (regionEnter c.sh.rmarks c.sh.rdepth (gRead s c 1 a).lo).2 })) ∧
       exec .leave s = .next (s.setSheaf c.k { c.sheafAt (c.sp.pc + 1) with
         rmarks := (regionLeave c.sh.rmarks c.sh.rdepth).1, rdepth := (regionLeave c.sh.rmarks c.sh.rdepth).2 })) ∧
     (c.sh.haltReq = true → exec .leave s = .next (s.setSheaf c.k { c.stalled 22 with haltReq := false, halted := true }) ∧
       ∀ a, exec (.enter a) s = .next (s.setSheaf c.k { c.stalled 22 with haltReq := false, halted := true })))

/-- R97, R117: a lane branch. Lanes that agree go where their condition sends them; lanes that disagree divide: the fall-through
lanes keep the entry, the taken lanes get a new one where the sheaf and the slot have room and go on the stack where not. A
target of the next word divides nothing. No register changes, and no memory but the area that a twenty-ninth element and those
above it drive older ones into (R102). R117, R265, R266: under `.strict` the lanes whose condition is dead leave the split at
the branch with dead read (0x03), the other splits stop, and the remaining lanes follow their own conditions. R99: `merge`. The
only entry, with nothing deferred, goes on; otherwise the split exchanges with the top deferred element and waits in its place,
or parks at its address. R76, R100: `exit` removes the split's lanes for good; the top deferred element takes its entry; no
register and no memory changes. R266: with a fault recorded and no handler running, a split stops before `merge`, `exit`, `bar`,
`mlease`, `qwait`, `watch` and `await`. -/
def Obligations.SplitsDivideMeetAndEnd : Prop :=
  (∀ (x : LReg) (off : BitVec 18) (s : State) (c : Ctx), s.ctx = some c → x.port = none →
     (x.top 1).all (· < c.sh.named) = true → deadOf s c c.sp.mask x = 0 →
     let nz := lanesWhere s c c.sp.mask x (fun v => v != 0)
     let z := lanesWhere s c c.sp.mask x (fun v => v == 0)
     let goes (i : Instr) (taken : Mask) : Prop :=
       let ctl := c.divided c.sh.ctl c.sp.mask taken (c.dest off) (s.splitRoom c)
       (c.spills c.sp.mask taken (c.dest off) (s.splitRoom c) = false → exec i s = .next (s.setSheaf c.k { c.sh with ctl := ctl })) ∧
       ∃ t sh, exec i s = .next t ∧ t.sheaf c.k = some sh ∧ sh.ctl = ctl ∧ sh.lanes = c.sh.lanes
     goes (.brl x off) nz ∧ goes (.brlz x off) z) ∧
  (∀ (x : LReg) (off : BitVec 18) (s : State) (c : Ctx), s.ctx = some c → x.port = none → c.calm = true →
     (x.top 1).all (· < c.sh.named) = true →
     let dead := deadOf s c c.sp.mask x
     let live := c.sp.mask &&& ~~~dead
     dead ≠ 0 → live ≠ 0 → c.sh.ctl.stack.length < 28 →
     let stopped : Ctl := { c.sh.ctl with
       splits := mapIdxFrom (fun i sp => if i = c.j then { sp with mask := live } else { sp with stall := 21 }) 0 c.sh.ctl.splits
       groups := c.sh.ctl.groups ++ [⟨c.sp.pc, dead, true⟩] }
     let sh := { c.sh with pend := (c.parkSome s c.sh dead { code := 0x03, opnd := 2 }).pend }
     exec (.brl x off) s = .next (s.setSheaf c.k { sh with
       ctl := c.divided stopped live (lanesWhere s c live x (fun v => v != 0)) (c.dest off) (s.splitRoom c) }) ∧
     exec (.brlz x off) s = .next (s.setSheaf c.k { sh with
       ctl := c.divided stopped live (lanesWhere s c live x (fun v => v == 0)) (c.dest off) (s.splitRoom c) })) ∧
  (∀ (s : State) (c : Ctx), s.ctx = some c → (c.sh.pend = none ∨ c.sh.hand ≠ none) →
     exec .merge s = .next (s.setSheaf c.k (if c.only then { c.sh with ctl := c.onward } else c.meets s.free false))) ∧
  (∀ (s : State) (c : Ctx), s.ctx = some c → (c.sh.pend = none ∨ c.sh.hand ≠ none) →
     exec .exit s = .next (s.setSheaf c.k (c.exited s.free))) ∧
  (∀ (i : Instr) (s : State) (c : Ctx), s.ctx = some c → c.sh.pend ≠ none → c.sh.hand = none →
     (i = .merge ∨ i = .exit ∨ i = .barWg ∨ i = .barGg ∨ (∃ t, i = .mlease t) ∨ (∃ j, i = .qwait j) ∨
       (∃ sc g p e, i = .watch sc g p e) ∨ (∃ g p e, i = .await g p e)) →
     exec i s = .next (s.setSheaf c.k (c.stalled 21)))

/-- R69, R70, R177 to R179: loads, stores, ordered accesses, `atom`, `xchg` and `cas` at issue. Each active lane's address is
formed and its data are read; the destination is reserved and live, a marked base dies, the class counter rises by one; the
parts of the accesses are outstanding in lane order; no byte of memory has changed yet. The core may keep the translations it
used (R137), and nothing else of the machine changes. -/
def Obligations.LaneAccessesAreIssued : Prop :=
  ∀ (i : Instr) (r : MemReq) (s : State) (c : Ctx), memForm i = some r → s.ctx = some c → r.ready s c = true →
    ∃ tlb, exec i s = .next { s.setSheaf c.k (r.sheaf s c) with
      accs := s.accs ++ r.accesses s c, nextKey := s.nextKey + 1 + (r.parts s c).length, tlb := tlb }

/-- R22, R69, R71, R72: a load's data arrive. Loads end in the order of their issue: with the last lane's data of the oldest
one, every lane's reserved entries, wherever they stand by then, take the bytes read, extended to whole registers, and the loads
counter falls; until then no register changes. No byte of memory changes. -/
def Obligations.LoadDataReachTheReservedEntries : Prop :=
  ∀ (id total : Nat) (sx fresh : Bool) (a : Acc) (s : State) (sh : Sheaf), s.acc id = some a → a.kind = .load total 0 sx →
    (total = 1 ∨ total = 2 ∨ total = 4 ∨ total = 8) → a.stage = .issued → s.mayPerform a = true → s.Orderly a → s.sheaf a.k = some sh →
    (∀ b ∈ s.sameOp a, b.kind = .load total 0 sx ∧ b.size = total ∧ (b.id = a.id ∨ b.data.length = total)) →
    let bytes := (s.loadBytes a.site a.place total (!fresh && a.pk != .so)).1
    bytes.length = total →
    ∃ t, exec (.loadDataArrival id fresh) s = .next t ∧
      t.sheaf a.k = some (s.loaded a sh (fun b => extended total sx (if b.id = a.id then bytes else b.data))) ∧
      (∀ k, k ≠ a.k → t.sheaf k = s.sheaf k) ∧ (∀ pl n, t.readPlace pl n = s.readPlace pl n)

/-- R70, R102, R164: a store performs, first into its core's write path, where the stores counter falls once no lane's is left
and no replay holds its operation open, then at its place: there the bytes stored to hold its data, and every other byte of
memory is as before. R178, R179: an atomic performs in one lane. The word takes the value of the operation on the old value and
the operand (a `cas` that finds a different value writes nothing), every other byte of memory is as before, and the old value
comes to the lane, as a load's data do. -/
def Obligations.StoresAndAtomicsPerform : Prop :=
  (∀ (id pa : Nat) (a : Acc) (s : State) (sh : Sheaf), s.acc id = some a → a.kind = .store → a.place = .hbm pa →
     s.idsDistinct = true → s.mates a = [a] → a.size = a.data.length → s.sheaf a.k = some sh →
     (a.stage = .issued → s.mayPerform a = true →
       ∃ t, exec (.storePerform id) s = .next t ∧ (∀ pl n, t.readPlace pl n = s.readPlace pl n) ∧
         t.acc id = some { a with stage := .path } ∧
         t.sheaf a.k = some { sh with
           smashed := sh.smashed || s.overSpill a sh
           stores := if s.accs.any (fun b => b.id != id && b.op == a.op && b.k == a.k && b.stage == .issued) ||
               sh.openOps.any (fun o => o.op == a.op) then sh.stores else sh.stores - 1 }) ∧
     (a.stage = .path → s.drainBlocked a = false → s.plainAt pa = true → s.mem.wf = true →
       ∃ t, exec (.storePerform id) s = .next t ∧ t.acc id = none ∧ t.sheaf a.k = some sh ∧
         ∀ x, t.mem.get x = if pa ≤ x ∧ x < pa + a.size then a.data.getD (x - pa) 0 else s.mem.get x)) ∧
  (∀ (id pa : Nat) (a : Acc) (fn : AtomFn) (w64 : Bool) (v : DWord) (s : State) (sh : Sheaf), s.acc id = some a →
     a.kind = .atom fn w64 v → a.place = .hbm pa → a.stage = .issued → s.mayPerform a = true →
     (s.path a.site).any (fun b => a.place.meets a.size b.place b.size) = false → s.plainAt pa = true → s.mem.wf = true →
     s.sheaf a.k = some sh → s.Orderly a → (∀ b ∈ s.sameOp a, ∃ f w x, b.kind = .atom f w x) →
     let n := if w64 then 8 else 4
     let old := leDWord (s.mem.read pa n)
     let new := atomicResult fn w64 old v
     ∃ t, exec (.atomicPerform id) s = .next t ∧
       (∀ x, t.mem.get x = if pa ≤ x ∧ x < pa + n then BitVec.ofNat 8 (new.toNat / 256 ^ (x - pa)) else s.mem.get x) ∧
       t.sheaf a.k = some { s.loaded a sh (fun b => leWords (if b.id = a.id then s.mem.read pa n else b.data)) with
         smashed := sh.smashed || s.overSpill a sh })

/-- R181: `fence` stands in sheaf order among the accesses, reads no register and is counted in no class. While an earlier
access of the sheaf is outstanding the fence is outstanding too, and a later store waits for a release fence. R165: the local
edges. An access does not perform while an earlier access of its sheaf is outstanding that touches one of its bytes in the same
lane, or is an acquiring read of a wider page, or that the access releases. -/
def Obligations.FencesAndLocalEdgesOrderAccesses : Prop :=
  (∀ (ord : Ord) (scope : Scope) (s : State) (c : Ctx), s.ctx = some c →
     ∃ t, exec (.fence ord scope) s = .next t ∧ t.sheaf c.k = some (c.sheafAt (c.sp.pc + 1)) ∧
       (∀ k, k ≠ c.k → t.sheaf k = s.sheaf k) ∧ (∀ pl n, t.readPlace pl n = s.readPlace pl n) ∧
       (∀ x ∈ s.accs, x.kind.isFence = false → x ∈ t.accs) ∧
       (∀ x ∈ s.accs, x.k = c.k → x.kind.isFence = false → x.id < s.nextKey →
         ∃ f ∈ t.accs, f.id = s.nextKey ∧ f.k = c.k ∧ f.kind = .fence ∧ f.ord = ord ∧ f.scope = scope)) ∧
  (∀ (s : State) (x y : Acc), x ∈ s.accs → y ∈ s.accs → x.k = y.k → x.id < y.id → x.iss ≠ y.iss → x.kind.isFence = false →
     x.stage = .issued →
     ((x.lane = y.lane ∧ x.place.meets x.size y.place y.size = true) ∨
      (x.ord.acquires = true ∧ x.kind.reads = true ∧ y.pk ≠ .un) ∨
      (y.ord.releases = true ∧ y.kind.writes = true ∧ x.pk ≠ .un) ∨
      (x.pk = .so ∧ y.pk = .so) ∨
      (∃ f ∈ s.accs, f.kind = .fence ∧ f.k = x.k ∧ x.id < f.id ∧ f.id < y.id ∧
        ((f.ord.acquires = true ∧ x.kind.reads = true) ∨ (f.ord.releases = true ∧ y.kind.writes = true) ∨
         (f.ord = .ar ∧ x.kind.writes = true ∧ y.kind.reads = true)))) →
     s.mayPerform y = false ∧
     (y.stage = .issued → s.acc y.id = some y → (y.kind = .store ∨ (∃ n o b, y.kind = .load n o b) ∨ ∃ f w v, y.kind = .atom f w v) →
       (∀ fresh, exec (.loadDataArrival y.id fresh) s = .next s) ∧ (y.kind = .store → exec (.storePerform y.id) s = .next s) ∧
       exec (.atomicPerform y.id) s = .next s))

/-- R22, R72: `waitc` goes on when every counter is at or below its limit, and with a limit on loads it covers those that are
over: their data may be read. Otherwise its split stalls, with the reason of the first class that is above. Nothing else
changes. R218, R252: `mfence` goes on when the sheaf's loads and accumulator reads have delivered and its stores to the granary
have performed; until then it stalls, and nothing else changes. R126 to R128: `yield` and `sleep #0` end the sheaf's greedy run;
`sleep #n` makes it sleep for 16 × n cycles, after which it wakes; `tmset` sets the comparator; the timer trap is taken once the
cycle count reaches an armed comparator, and disarms it. R105, R107: a sheaf that has stalled on its ports for 256 cycles is
descheduled until the words or the room are there; a sheaf that has not issued on a pipe for 4,096 cycles goes first there.
Nothing else changes. -/
def Obligations.WaitsOfASheaf : Prop :=
  (∀ (lds sts cps tls : WaitLim) (s : State) (c : Ctx), s.ctx = some c →
     (waitcHeld c lds sts cps tls = none → exec (.waitc lds sts cps tls) s = .next (s.setSheaf c.k { c.sheafAt (c.sp.pc + 1) with
       lanes := if lds = 15 then c.sh.lanes else c.sh.lanes.map (Lane.mapEntries Entry.cover) })) ∧
     (∀ n, waitcHeld c lds sts cps tls = some n → exec (.waitc lds sts cps tls) s = .next (s.setSheaf c.k (c.stalled n)))) ∧
  (∀ (s : State) (c : Ctx), s.ctx = some c →
     let pending := c.sh.loads ≠ 0 ∨ (∃ a ∈ s.accs, a.k = c.k ∧ a.kind.writes = true ∧ ∃ site id off, a.place = .gran site id off) ∨
       ∃ x ∈ s.tops, x.k = c.k ∧ ∃ col code sat, x.fn = .accrd col code sat
     (¬pending → exec .mfence s = .next (s.setSheaf c.k (c.sheafAt (c.sp.pc + 1)))) ∧
     (pending → exec .mfence s = .next (s.setSheaf c.k (c.stalled 18)))) ∧
  ((∀ (s : State) (c : Ctx), s.ctx = some c →
     exec .yield s = .next (c.gaveWay s) ∧ exec (.sleep 0) s = .next (c.gaveWay s) ∧
     (∀ n, n ≠ 0 → exec (.sleep n) s =
       .next (s.setSheaf c.k { c.sheafAt (c.sp.pc + 1) with sleep := some (s.cycle + 16 * n.toNat) })) ∧
     (∀ p : GSrc, p.port = none →
       let sh := c.sheafTo s [⟨2, p, 2⟩] (c.sp.pc + 1)
       exec (.tmset p) s = .next (s.setSheaf c.k { sh with ctl := { sh.ctl with cmp := gRead s c 2 p } }))) ∧
   (∀ (k : Nat) (s : State) (sh : Sheaf), s.sheaf k = some sh →
     (∀ t, sh.sleep = some t → exec (.sleepWake k) s = .next (if s.cycle < t then s else s.setSheaf k { sh with sleep := none })) ∧
     (sh.timerFree = true → s.haltNow k sh = false → sh.ctl.cmp ≠ 0 → exec (.timerTrap k) s =
       .next (if s.cycle < sh.ctl.cmp.toNat then s else s.setSheaf k sh.timed)))) ∧
  (∀ (k : Nat) (s : State) (sh : Sheaf), s.sheaf k = some sh →
     (∀ x, sh.ctl.splits.find? (fun x => x.stall == 8 && !x.parked) = some x → sh.wait = none →
       exec (.queuePortDeschedule k) s =
         .next (s.setSheaf k { sh with wait := if x.since + 256 ≤ s.cycle then some (.port x.needs) else none })) ∧
     (∀ group, let due := decide ((if group then sh.lastGroup else sh.lastLane) + 4096 ≤ s.cycle)
       exec (.starvationGuard k group) s = .next (s.setSheaf k
         { sh with nextFirst := sh.nextFirst || (!group && due), nextFirstG := sh.nextFirstG || (group && due) })))

/-- R124, R125: `bar.wg` and `bar.gg`. A split that is not its sheaf's only entry meets the others first and issues the `bar`
again. Otherwise the sheaf waits while a sheaf of the workgroup, or gang, that has not ended does not wait at the same barrier,
nor did when a save met it; the last to arrive, once their accesses have performed, releases them all behind their `bar`, and
each then sees the workgroup's block registers. No register and no byte of memory changes. -/
def Obligations.BarriersWaitForEverySheaf : Prop :=
  ∀ (gg : Bool) (s : State) (c : Ctx), s.ctx = some c → (c.sh.pend = none ∨ c.sh.hand ≠ none) →
    c.held s gg c.sh = true →
    let i : Instr := if gg then .barGg else .barWg
    let w : Wait := if gg then .barGg else .barWg
    (c.only = false → exec i s = .next (s.setSheaf c.k (c.meets s.free true))) ∧
    (c.only = true →
      ∃ t, exec i s = .next t ∧ (∀ pl n, t.readPlace pl n = s.readPlace pl n) ∧
        (∀ p ∈ s.sheaves, p.1 ≠ c.k → c.held s gg p.2 = true → p.2.finished = false → ¬p.2.atBar w →
          t.sheaf c.k = some (c.waiting w) ∧ ∀ k, k ≠ c.k → t.sheaf k = s.sheaf k) ∧
        (∀ before after, s.sheaves = before ++ (c.k, c.sh) :: after →
          (∀ p ∈ before ++ after, p.1 ≠ c.k ∧ (c.held s gg p.2 = true → p.2.finished = true ∨ p.2.atBar w)) →
          c.drained s gg = true →
          (gg = false → t.wg c.sh.wg = some { c.wg with barGen := c.wg.barGen + 1, bpast := [] }) ∧
          t.sheaf c.k = some { (c.waiting w).behindBar w with seen := if gg then c.sh.seen else List.replicate 16 0 } ∧
          ∀ k sh, k ≠ c.k → s.sheaf k = some sh →
            t.sheaf k = some (if c.held s gg sh && !sh.finished
              then { sh.behindBar w with seen := if gg then sh.seen else List.replicate 16 0 } else sh)))

/-- R144, R161, R182, R183, R197, R247: `watch` and `await`. Where the word no longer holds the value, or the generation, that
the instruction names, and the order of R165 lets the sheaf read it, the instruction is over; until then the sheaf waits, and it
reads the word again later, by its address: where that leads nowhere now, the instruction issues again. An `await` on a word of
an allocation that is not pinned faults. A wide acquire drops the core's L1 copies; no register and no byte of memory changes. -/
def Obligations.WatchAndAwaitCompleteOnChange : Prop :=
  (∀ (scope : Scope) (seg : Fin 8) (p e : GSrc) (s : State) (c : Ctx) (ea : Addr) (pl : Place) (n : Nat) (rest : List (Place × Nat)),
    s.ctx = some c → (c.sh.pend = none ∨ c.sh.hand ≠ none) → c.sp.replay = none → p.port = none → e.port = none →
    let srcs : List GUse := [⟨2, p, 2⟩, ⟨3, e, 1⟩]
    c.spot s srcs seg (gRead s c 2 p) 4 4 .rd = some (ea, (pl, n) :: rest) →
    let v := (gRead s c 1 e).lo
    let pk := s.kindAt c seg.val ea
    let sc := scope.onPage pk
    ∃ t, exec (.watch scope seg p e) s = .next t ∧ (∀ q m, t.readPlace q m = s.readPlace q m) ∧
      (∀ k, k ≠ c.k → t.sheaf k = s.sheaf k) ∧
      t.sheaf c.k = some (if (s.watchRead c.wg.site pl 4 sc).lo ≠ v ∧ s.watchDue c.k c.wg.site pl 4 sc pk = true
        then c.sheafTo s srcs (c.sp.pc + 1)
        else { c.waiting (.watch seg ea pl scope v s.cycle) with seen := seenAfter s c srcs })) ∧
  (∀ (seg : Fin 8) (p g : GSrc) (s : State) (c : Ctx), s.ctx = some c → p.port = none → g.port = none → c.sp.replay = none →
    let srcs : List GUse := [⟨2, p, 2⟩, ⟨3, g, 1⟩]
    let gen : BitVec 16 := (gRead s c 1 g).setWidth 16
    (∀ ea, c.calm = true → c.address seg (gRead s c 2 p) 8 = some ea → ea.toNat % 8 = 0 →
      s.unpinned (viaOf c.k c.sh c.wg seg.val) ea 8 = true →
      exec (.await seg p g) s = .next (s.setSheaf c.k (c.parked s { code := 0x1E, opnd := 2, addr := ea }))) ∧
    (∀ (ea : Addr) (pl : Place) (n : Nat) (rest : List (Place × Nat)), (c.sh.pend = none ∨ c.sh.hand ≠ none) →
      c.spot s srcs seg (gRead s c 2 p) 8 8 .rd = some (ea, (pl, n) :: rest) →
      s.unpinned (viaOf c.k c.sh c.wg seg.val) ea 8 = false →
      let pk := s.kindAt c seg.val ea
      ∃ t, exec (.await seg p g) s = .next t ∧ (∀ q m, t.readPlace q m = s.readPlace q m) ∧
        (∀ k, k ≠ c.k → t.sheaf k = s.sheaf k) ∧
        t.sheaf c.k = some (if (s.watchRead c.wg.site pl 8 .dv).toNat / 2 ^ 48 ≠ gen.toNat ∧
            s.watchDue c.k c.wg.site pl 8 .dv pk = true
          then c.sheafTo s srcs (c.sp.pc + 1)
          else { c.waiting (.await seg ea pl gen s.cycle) with seen := seenAfter s c srcs }))) ∧
  (∀ (k : Nat) (s : State) (sh : Sheaf) (wg : Workgroup) (seg : Fin 8) (ea : Addr) (old : Place) (since : Nat),
    s.sheaf k = some sh → s.wg sh.wg = some wg →
    let still := if since + 65536 ≤ s.cycle then s.cycle else since
    let lost (i : Instr) (n : Nat) : Prop := (∀ pl pk, s.reach (viaOf k sh wg seg.val) ea n .rd ≠ .ok pl pk) →
      exec i s = .next (s.setSheaf k { sh with wait := none })
    (∀ scope e, sh.wait = some (.watch seg ea old scope e since) → lost (.watchReread k) 4 ∧
      ∀ pl pk, s.reach (viaOf k sh wg seg.val) ea 4 .rd = .ok pl pk →
        let sc := scope.onPage pk
        ∃ t, exec (.watchReread k) s = .next t ∧ (∀ q m, t.readPlace q m = s.readPlace q m) ∧
          t.sheaf k = some (if (s.watchRead wg.site pl 4 sc).lo ≠ e ∧ s.watchDue k wg.site pl 4 sc pk = true
            then sh.pastWait sh.waiter
            else { sh with wait := some (.watch seg ea pl scope e still) })) ∧
    (∀ gen, sh.wait = some (.await seg ea old gen since) → lost (.awaitReread k) 8 ∧
      ∀ pl pk, s.reach (viaOf k sh wg seg.val) ea 8 .rd = .ok pl pk →
        ∃ t, exec (.awaitReread k) s = .next t ∧ (∀ q m, t.readPlace q m = s.readPlace q m) ∧
          t.sheaf k = some (if (s.watchRead wg.site pl 8 .dv).toNat / 2 ^ 48 ≠ gen.toNat ∧
              s.watchDue k wg.site pl 8 .dv pk = true
            then sh.pastWait sh.waiter
            else { sh with wait := some (.await seg ea pl gen still) })))

/-- R184: `setseg` writes a part of `seg5` to `seg7` and nothing else; a segment below 5 is an illegal operand (0x02). R184,
R191, R321, R323: `getseg`, `gstat`, `ctrd` and `tsread` write a pair and nothing else: a descriptor's field; the die's level,
its pending level, the core's usable silos and the cycles to the loss point; an allocation's entry, or zeros where the operand
names none; a counter slot of the sheaf's partition; the nanosecond clock. -/
def Obligations.SegmentsAndReadings : Prop :=
  (∀ (seg : Fin 8) (x : GSrc) (s : State) (c : Ctx), s.ctx = some c → x.port = none →
     let v := gRead s c 2 x
     let g := lget ⟨0, 0, false⟩ c.sh.segs seg.val
     let srcs : List GUse := [⟨2, x, 2⟩]
     (5 ≤ seg.val →
       exec (.setsegBase seg x) s = .next (s.setSheaf c.k
         (c.withSegment s srcs seg { g with base := (g.base >>> 64 <<< 64) ||| v.setWidth 80, v := true })) ∧
       exec (.setsegLast seg x) s = .next (s.setSheaf c.k (c.withSegment s srcs seg { g with last := v, v := true })) ∧
       exec (.setsegHi seg x) s = .next (s.setSheaf c.k
         (c.withSegment s srcs seg { g with base := (v.setWidth 80 <<< 64) ||| (g.base.setWidth 64).setWidth 80, v := true })) ∧
       exec (.setsegClr seg) s = .next (s.setSheaf c.k (c.withSegment s [] seg { g with v := false }))) ∧
     (seg.val < 5 → c.calm = true → ∀ i, (i = .setsegBase seg x ∨ i = .setsegLast seg x ∨ i = .setsegHi seg x ∨ i = .setsegClr seg) →
       exec i s = .next (s.setSheaf c.k (c.parked s { code := 0x02, opnd := 0 })))) ∧
  (∀ (d : GDst) (s : State) (c : Ctx), s.ctx = some c → d.port = none → mayWrite c d = true →
     (∀ part seg, exec (.getseg part seg d) s =
       .next (groupWritten s c [] d (pairWords (segmentField (lget ⟨0, 0, false⟩ c.sh.segs seg.val) part)))) ∧
     (let x := s.die (c.wg.site / 104)
      x.level < 256 → (∀ p t, x.pending = some (p, t) → p < 256) → (s.core c.wg.site).usable < 256 →
       exec (.gstatLevel d) s = .next (groupWritten s c [] d
         [BitVec.ofNat 8 (s.core c.wg.site).usable ++ BitVec.ofNat 8 ((x.pending.map (fun p => p.1)).getD x.level) ++
             BitVec.ofNat 8 x.level |>.setWidth 32,
          BitVec.ofNat 32 ((x.pending.map (fun p => p.2 - s.cycle)).getD 0)])) ∧
     (∀ a : GSrc, a.port = none → exec (.gstatAlloc d a) s = .next (groupWritten s c [⟨2, a, 1⟩] d
       (match c.allocNamed s (gRead s c 1 a).lo with
        | some x => if x.rank < 8 then [entryWord x, BitVec.ofNat 32 x.woff] else [x.word0, BitVec.ofNat 32 x.woff]
        | none => [0, 0]))) ∧
     (∀ slot : Fin 16, exec (.ctrd d slot) s = .next (groupWritten s c [] d (pairWords
       (let p := s.part c.wg.part.val
        let x := lget ⟨0, false, 0⟩ p.slots slot.val
        if eventKnown x.event && p.allowed.contains x.event then x.val else 0)))) ∧
     exec (.tsread d) s = .next (groupWritten s c [] d (pairWords s.tai)))

/-- R186: `grant` creates an allocation where the core has the granules and a window range for it: lit, with the rank, handler
and backing given, the size rounded up to granules, in a range no other allocation uses, its bytes zero, and the destination
receives its identifier; otherwise the destination receives 0 and nothing is created. R187: with bit 31 of the control word set,
the sheaf that runs the glean handler of a refilling allocation without storage gives it storage again. Wrong operands are
illegal (0x02). R185, R188 to R190: an operand that names no allocation of the workgroup faults with protection (0x0A). `gfree`
frees the allocation and wakes the sheaves that wait for it; `grank` changes its rank, to 7 only where it is lit and fits in
silo 0; `shadow` begins the write-back of a lit allocation, which the sheaf waits for, gives up a refilling one's storage at
once, and does nothing to others. R190: a write-back completes. The allocation is shadowed and holds no storage, its bytes stand
at the backing copy, and the sheaf that waited goes on behind its `shadow`. Where the backing copy can no longer be reached,
nothing is written back and the sheaf's `shadow` issues again. -/
def Obligations.AllocationsLiveAndAreWrittenBack : Prop :=
  (∀ (i : Instr) (d : GDst) (ctl attr : GSrc) (s : State) (c : Ctx), s.ctx = some c →
     (i = .grant d ctl attr ∨ i = .grantRelight d ctl attr) →
     d.port = none → mayWrite c d = true → ctl.port = none → attr.port = none →
     let srcs : List GUse := [⟨2, ctl, 1⟩, ⟨3, attr, 2⟩, ⟨3, pairAfter attr, 2⟩]
     let w := (gRead s c 1 ctl).lo
     let handler := gRead s c 2 attr
     let backing := gRead s c 2 (pairAfter attr)
     let size := w.toNat % 2 ^ 24
     let rank := w.toNat / 2 ^ 24 % 8
     let n := granulesOf size
     (pairAfter attr).port = none →
     (w.getLsbD 31 = false →
       ((w.toNat / 2 ^ 27 ≠ 0 ∨ size = 0 ∨ 6291456 < size) → c.calm = true →
         exec i s = .next (s.setSheaf c.k (c.parked s { code := 0x02, opnd := 2 }))) ∧
       (w.toNat / 2 ^ 27 = 0 → size ≠ 0 → size ≤ 6291456 →
         (handler.toNat % 4 ≠ 0 → c.calm = true →
           exec i s = .next (s.setSheaf c.k (c.parked s { code := 0x02, opnd := 3 }))) ∧
         (handler.toNat % 4 = 0 →
           ((s.granulesFit c.wg.site n rank = false ∨ s.windowRoom c.wg.site n = false) →
             exec i s = .next (groupWritten s c srcs d [0])) ∧
           (s.granulesFit c.wg.site n rank = true → s.windowRoom c.wg.site n = true →
             ∃ t a, exec i s = .next t ∧
               (t.core c.wg.site).allocs = (s.core c.wg.site).allocs ++ [a] ∧
               a.state = .lit ∧ a.rank = rank ∧ a.size = n ∧ a.handler = handler ∧ a.backing = backing ∧ a.decl = false ∧
               a.wg = c.sh.wg ∧ a.data = [] ∧ a.seq = (s.core c.wg.site).nextSeq ∧
               (t.core c.wg.site).nextSeq = (s.core c.wg.site).nextSeq + 1 ∧
               a.woff % 16384 = 0 ∧ a.woff + n * 16384 ≤ 0x800000 ∧
               windowFree (s.core c.wg.site).allocs (a.woff / 16384) n = true ∧
               (let next := (s.core c.wg.site).nextId
                next ≠ 0 → (∀ b ∈ (s.core c.wg.site).allocs, b.id ≠ next) → a.id = next) ∧
               t.sheaves = (groupWritten s c srcs d [a.id.setWidth 32]).sheaves ∧
               t.wgs = (groupWritten s c srcs d [a.id.setWidth 32]).wgs ∧ t.mem = s.mem)))) ∧
     (w.getLsbD 31 = true → w.toNat / 2 ^ 16 = 0x8000 → attr = .g 0 →
       let id : BitVec 16 := w.setWidth 16
       exec i s = .next (match c.relights s id with
         | some site => (groupWritten s c srcs d [id.setWidth 32]).modAlloc site id (fun x => { x with relit := true, data := [] })
         | none => groupWritten s c srcs d [0])) ∧
     (w.getLsbD 31 = true → w.toNat / 2 ^ 16 ≠ 0x8000 → c.calm = true →
       exec i s = .next (s.setSheaf c.k (c.parked s { code := 0x02, opnd := 2 })))) ∧
  (∀ (a r : GSrc) (s : State) (c : Ctx), s.ctx = some c → a.port = none → r.port = none →
     let one : List GUse := [⟨2, a, 1⟩]
     let two : List GUse := [⟨2, a, 1⟩, ⟨3, r, 1⟩]
     let rank := (gRead s c 1 r).lo.toNat
     let on (srcs : List GUse) : State := s.setSheaf c.k (c.sheafTo s srcs (c.sp.pc + 1))
     let bad (code opnd : Nat) : State := s.setSheaf c.k (c.parked s { code := code, opnd := opnd })
     (c.allocNamed s (gRead s c 1 a).lo = none → c.calm = true →
       exec (.gfree a) s = .next (bad 0x0A 2) ∧ exec (.grank a r) s = .next (bad 0x0A 2) ∧
       (c.sp.replay = none → exec (.shadow a) s = .next (bad 0x0A 2))) ∧
     (∀ x, c.allocNamed s (gRead s c 1 a).lo = some x →
       (∃ t, exec (.gfree a) s = .next t ∧ t.alloc c.wg.site x.id = none ∧
         (∃ sh, t.sheaf c.k = some sh ∧ sh.ctl = c.onward) ∧
         (∀ k sh, k ≠ c.k → s.sheaf k = some sh → sh.wait = some (.loss c.wg.site x.id) →
           ∃ sh', t.sheaf k = some sh' ∧ sh'.wait = none)) ∧
       (8 ≤ rank → c.calm = true → exec (.grank a r) s = .next (bad 0x02 3)) ∧
       (rank < 7 → exec (.grank a r) s = .next ((on two).modAlloc c.wg.site x.id (fun y => { y with rank := rank }))) ∧
       (rank = 7 →
         let others := (s.core c.wg.site).allocs.filter (fun y => y.id != x.id)
         exec (.grank a r) s = .next (if x.state = .lit ∧ pinnedGranules others + x.size ≤ 16
           then (on two).modAlloc c.wg.site x.id (fun y => { y with rank := 7 }) else on two)) ∧
       (x.backing = 0 → c.calm = true → c.sp.replay = none → exec (.shadow a) s = .next (bad 0x02 2)) ∧
       (x.backing ≠ 0 →
         (∀ ps, x.state = .lit → x.writeback = none → c.sp.replay = none → (c.sh.pend = none ∨ c.sh.hand ≠ none) → c.backingSpot s one x = some ps →
           exec (.shadow a) s = .next ((s.setSheaf c.k
             { c.waiting (.shadow c.wg.site x.id) with seen := seenAfter s c one }).modAlloc c.wg.site x.id
               (fun y => { y with writeback := some c.k }))) ∧
         (x.state = .refilling → c.sp.replay = none → s.untouched c.wg.site x.id = true → exec (.shadow a) s = .next ((on one).modAlloc c.wg.site x.id
           (fun y => { y with state := .shadowed, relit := false, handSheaf := none, data := [] }))) ∧
         (c.sp.replay = none → (x.state = .dark ∨ x.state = .shadowed) → exec (.shadow a) s = .next (on one))))) ∧
  (∀ (site : Nat) (id : BitVec 16) (s : State) (a : Alloc) (k : Nat) (c : Ctx) (u : State) (ps : List (Place × Nat)),
     s.alloc site id = some a → a.writeback = some k → s.waiterCtx k = some c → s.untouched site id = true →
     u.accs = [] → u.sheaf k = some c.sh → u.alloc site id = some a →
     let reached := s.hwPages (viaOf k c.sh c.wg 0) .wr (a.size * 16384 / 65536 + 2) (a.backing.setWidth 80) (a.size * 16384)
     (reached = (u, .ok ps) → (∀ p ∈ ps, ∀ t i o, p.1 ≠ .gran t i o) →
       ∃ t, exec (.shadowWritebackComplete site id) s = .next t ∧
         t.alloc site id = some { a with state := .shadowed, writeback := none, data := [] } ∧
         t.sheaf k = some c.sh.writtenBack ∧ t.mem = (u.writePieces ps (a.data.read 0 (a.size * 16384))).mem) ∧
     (∀ code, reached = (u, .error code) →
       ∃ t, exec (.shadowWritebackComplete site id) s = .next t ∧ t.alloc site id = some { a with writeback := none } ∧
         t.sheaf k = some { c.sh with wait := none }))

/-- R149, R151, R152, R158, R183, R220, R303, R305: `LOSS_POINT` completes once its die has a pending level whose cycle has come
and no write-back is in progress there: the level becomes the pending one, and the clock is restored when no fall is pending. On
every core of the die the granules still held then fit in it; an allocation that is pinned or holds nothing is as it was, and
every other is as it was or lost: dark, or refilling without storage. A sheaf may stop watching a word that is lost. Survivors
are relocated, during which accesses to the core's granary stall, and `RELOCATION_COMPLETE` ends that. `SILO_RETIREMENT`
completes for a core of more than one usable silo with no write-back in progress: such a loss point on its own core, with a silo
fewer. -/
def Obligations.LossPointsKeepWhatFits : Prop :=
  (∀ (die : Fin 4) (s : State) (p at_ : Nat), (s.die die.val).pending = some (p, at_) → at_ ≤ s.cycle →
    (∀ x ∈ s.cores, x.1 / 104 = die.val → ∀ a ∈ x.2.allocs, a.writeback = none) →
    ∃ t, exec (.lossPoint die) s = .next t ∧ t.die die.val = { s.die die.val with level := p, pending := none } ∧
      (∀ n, n ≠ die.val → t.die n = s.die n) ∧
      t.clock = (if (∀ n ∈ List.range 4, n ≠ die.val → (s.die n).pending = none) then s.floorClock else s.clock) ∧
      (s.accs = [] → 1 ≤ p → (∀ x ∈ s.cores, x.1 / 104 = die.val → pinnedGranules x.2.allocs ≤ 16 ∧ 1 ≤ x.2.usable ∧
          ∀ a ∈ x.2.allocs, a.rank ≤ 7) →
        t.mem = s.mem ∧ (∀ k sh, s.sheaf k = some sh → ∃ w, t.sheaf k = some { sh with wait := w } ∧ (w = sh.wait ∨ w = none)) ∧
        ∀ site core, kget s.cores site = some core →
          (site / 104 ≠ die.val → t.core site = core) ∧
          (site / 104 = die.val → heldGranules (t.core site).allocs ≤ 16 * min p core.usable ∧
            (t.core site).allocs.length = core.allocs.length ∧
            ∀ (n : Nat) (a b : Alloc), core.allocs[n]? = some a → (t.core site).allocs[n]? = some b →
              (a.safe = true → (∀ x ∈ core.allocs, x.id = a.id → x = a) → b = a) ∧ (b = a ∨ b = a.lost)))) ∧
  (∀ (site : Nat) (s : State), site < 416 → 1 < (s.core site).usable → s.writingBack site = false →
    ∃ t, exec (.siloRetirement site) s = .next t ∧ (t.core site).usable = (s.core site).usable - 1 ∧ t.dies = s.dies ∧
      ((s.core site).usable ≤ 21 → t.repl = true ∧ t.cause = 2) ∧
      (s.accs = [] → pinnedGranules (s.core site).allocs ≤ 16 → (∀ a ∈ (s.core site).allocs, a.rank ≤ 7) →
        1 ≤ (s.die (site / 104)).level →
        heldGranules (t.core site).allocs ≤ 16 * min (s.die (site / 104)).level ((s.core site).usable - 1) ∧
        (∀ n, n ≠ site → t.core n = s.core n) ∧ t.mem = s.mem)) ∧
  (∀ (site : Nat) (s : State), (s.core site).relocating = true →
    exec (.relocationComplete site) s = .next (s.setCore site { s.core site with relocating := false }))

/-- R132, R149, R303: a posted level. A rise takes effect at once and ends a notice, and placement is retried; a fall becomes
pending, and its loss point comes 35,000 cycles after the notice, or after a lower one posted later. A die's own level, of its
temperature, is not posted while the package is below its floor. Nothing else of the machine changes. R132, R149, R300, R303: a
package budget from 1,100 W to 3,400 W sets each die's level, a higher one at once, with placement retried, and a lower one as a
pending level. The arithmetic clock, one of those R303 allows, is lowered only while a fall is pending, or where one lit silo a
core is too much, to a floor that stays. Anything else is not taken. What level and clock fit is the power model's (log 26). A
clock correction is slewed, in or out. -/
def Obligations.LevelsAndClockFollowTheBudget : Prop :=
  (∀ (die : Fin 4) (level : Nat) (s : State), 1 ≤ level → level ≤ 24 →
     (1750 ≤ s.floorClock → exec (.levelNotice die level) s = .next (s.limited die.val level) ∧
       ((s.die die.val).level < level → exec (.levelRise die level) s = .next (s.limited die.val level))) ∧
     (s.floorClock < 1750 → exec (.levelNotice die level) s = .next s ∧ exec (.levelRise die level) s = .next s) ∧
     (level ≤ (s.die die.val).level → exec (.levelRise die level) s = .next s)) ∧
  ((∀ (watts clock floor : Nat) (levels : List Nat) (s : State),
     let posted (d n : Nat) : Die := if n = 0 then s.die d else levelAfter (s.die d) n s.cycle
     let falls := ∃ d n, levels[d]? = some n ∧ (posted d n).pending ≠ none
     let fits := 1100 ≤ watts ∧ watts ≤ 3400 ∧ s.LevelsFit watts levels ∧ clock ∈ clocks ∧ floor ∈ clocks ∧
       (floor = 1750 ∨ ∀ n ∈ levels, n = 1) ∧ (clock = floor ∨ falls)
     (¬fits → exec (.budgetChange watts levels ⟨clock, floor⟩) s = .next s) ∧
     (fits → ∃ t, exec (.budgetChange watts levels ⟨clock, floor⟩) s = .next t ∧ t.budget = watts ∧ t.clock = clock ∧ t.floorClock = floor ∧
       (∀ d n, levels[d]? = some n → t.die d = posted d n) ∧
       ((∀ d n, levels[d]? = some n → n ≤ (s.die d).level) →
         t = { s with budget := watts, clock := clock, floorClock := floor, dies := t.dies }))) ∧
   (∀ (ns : Int) (s : State), exec (.ptpCorrection ns) s = .next { s with disciplined := true, slew := s.slew + ns }))

/-- R275, R36, R264, R265: `trap`, `syscall` and `brk` park their split with 0x18, 0x19 and 0x1A, the code in `IMM` and `RPC` at
the next word; a word that is no instruction parks it with illegal instruction or illegal operand; a debugger that holds the
sheaf takes it before a `brk`. While another fault is pending the split stops before them (R266). R270, R272, R192: a fault
raised in a handler is a double fault and kills the workgroup; so does `tret` outside a trap handler, `lret` in a trap handler,
and entry to a handler that the sheaf does not have. -/
def Obligations.TrapsParkAndDoubleFaultsKill : Prop :=
  (∀ (n : BitVec 12) (s : State) (c : Ctx), s.ctx = some c →
     (c.calm = true →
       exec (.trap n) s = .next (s.setSheaf c.k (c.parked s { code := 0x18, opnd := 0, imm := n })) ∧
       exec (.syscall n) s = .next (s.setSheaf c.k (c.parked s { code := 0x19, opnd := 0, imm := n })) ∧
       (c.sh.haltReq = false → exec (.brk n) s = .next (s.setSheaf c.k (c.parked s { code := 0x1A, opnd := 0, imm := n }))) ∧
       (∀ w, decode w = .error .illegal → exec (.wordNotInstruction w) s =
         .next ({ s with word := w }.setSheaf c.k (c.parked { s with word := w } { code := 0x01, opnd := 0 }))) ∧
       (∀ w f, decode w = .error (.operand f) → exec (.wordNotInstruction w) s =
         .next ({ s with word := w }.setSheaf c.k (c.parked { s with word := w } { code := 0x02, opnd := f })))) ∧
     (c.sh.haltReq = true → exec (.brk n) s = .next (s.setSheaf c.k { c.stalled 22 with haltReq := false, halted := true })) ∧
     (c.halts = true → exec (.trap n) s = .next (s.setSheaf c.k (c.stalled 21)) ∧
       exec (.syscall n) s = .next (s.setSheaf c.k (c.stalled 21)) ∧
       (c.sh.haltReq = false → exec (.brk n) s = .next (s.setSheaf c.k (c.stalled 21))))) ∧
  ((∀ (i : Instr) (n : BitVec 12) (s : State) (c : Ctx), s.ctx = some c → c.sh.haltReq = false →
     (c.sh.hand ≠ none ∧ (i = .trap n ∨ i = .syscall n ∨ i = .brk n) ∨
      i = .tret ∧ (∀ h, c.sh.hand = some h → h.glean = true) ∨
      i = .lret ∧ (∃ h, c.sh.hand = some h ∧ h.glean = false)) →
     ∃ t, exec i s = .next t ∧ Killed s t c.sh.wg) ∧
   (∀ (k : Nat) (s : State) (sh : Sheaf) (wg : Workgroup) (f : FaultRec), s.sheaf k = some sh → s.wg sh.wg = some wg →
     sh.pend = some f → sh.hand = none → sh.ended = false → sh.restarting = false → sh.halted = false → sh.haltReq = false →
     sh.wait = none → sh.stopped = true → sh.openOps = [] → f.target = 0 → f.code ≠ 0x0C →
     ∃ t, exec (.trapEntry k) s = .next t ∧ Killed s t sh.wg))

/-- R266, R270, R271, R277: once its splits have stopped and its loads are in, a sheaf enters the handler of its pending fault:
the record is written at `seg3`, the queues are frozen, the control state is set aside and the live lanes start at the target. A
pre-emption that meets no pending fault enters likewise with code 0x1C, once the workgroup's engines have drained. -/
def Obligations.HandlerEntryWritesTheRecord : Prop :=
  ∀ (k pa : Nat) (s : State) (sh : Sheaf) (wg : Workgroup), s.sheaf k = some sh → s.wg sh.wg = some wg →
    sh.hand = none → sh.ended = false → sh.restarting = false → sh.halted = false → sh.loads = 0 → sh.openOps = [] →
    s.clearOver (.hbm pa) 64 = true → s.plainAt pa = true →
    let base := (lget ⟨0, 0, false⟩ sh.segs 3).base
    (∀ f, sh.pend = some f → sh.haltReq = false → sh.wait = none → (∀ x ∈ sh.ctl.splits, x.parked = true ∨ x.stall = 21) →
      (f.target ≠ 0 ∨ f.code = 0x0C) → f.code < 256 → f.opnd < 8 →
      s.reachRange (viaOf k sh wg 3) base 64 .wr = .ok [(.hbm pa, 64)] →
      ∃ t, exec (.trapEntry k) s = .next t ∧ t.sheaf k = some (sh.entered f s.nextKey) ∧
        t.mem = s.mem.write pa (recordBytes f sh sh.ctl.live (s.timerDue sh)) ∧ ∀ n, n ≠ k → t.sheaf n = s.sheaf n) ∧
    (sh.pend = none → sh.preempt = true → sh.finished = false → sh.saving = .none → s.drained sh.wg = true →
      s.haltNow k sh = false → sh.writing = false → sh.trapEntry ≠ 0 →
      let u := s.savePoint k sh wg
      let f := saveRecord sh wg.saveArea
      u.reachRange (viaOf k sh wg 3) base 64 .wr = .ok [(.hbm pa, 64)] →
      ∃ t, exec (.trapEntry k) s = .next t ∧ t.sheaf k = some (sh.saves.entered f s.nextKey) ∧
        t.mem = s.mem.write pa (recordBytes f sh.saves sh.ctl.live (s.timerDue sh)) ∧ ∀ n, n ≠ k → t.sheaf n = s.sheaf n)

/-- R125, R127, R154, R156, R192, R194, R272, R278, R279: `tret` ends a trap handler once its stores have performed: the
recorded lanes stand at the `RPC` the handler left, every other fault-parked group at its own instruction, and the queues come
back; the handler of a save leaves the sheaf saved. `lret` ends a glean handler likewise, once what its loads, stores and
atomics saw and left has performed at `.gg`, settles its allocation and wakes the sheaves that wait for it; outside a handler it
is illegal (0x01). The case in which more splits come back than the table has room for is not stated here (log 22). -/
def Obligations.ReturnsRestoreTheInterruptedSheaf : Prop :=
  (∀ (s : State) (c : Ctx), s.ctx = some c → c.calm = true →
    exec .lret s = .next (s.setSheaf c.k (c.parked s { code := 0x01, opnd := 0 }))) ∧
  (∀ (s : State) (c : Ctx) (h : Handler), s.ctx = some c → c.sh.hand = some h → c.sh.slice = false →
    let save : Bool := h.fault.code == 0x1C && !h.fault.restore
    (h.glean = false → c.sh.stores ≠ 0 → exec .tret s = .next (s.setSheaf c.k (c.stalled 4))) ∧
    (∀ ea ps, h.glean = false → c.sh.stores = 0 → c.address 3 0x30 8 = some ea →
      h.fits (if save then 4 else s.entryRoom c.k c.sh) = true →
      s.reachRange (viaOf c.k c.sh c.wg 3) ea 8 .rd = .ok ps →
      let rpc : BitVec 78 := BitVec.ofNat 78 ((leDWord (s.readPieces c.wg.site ps)).toNat / 4)
      exec .tret s = .next (if save then c.savedBy s h else s.setSheaf c.k (c.sh.returned h (some rpc)))) ∧
    (h.glean = true → (∃ a ∈ s.accs, a.k = c.k ∧ (a.kind.writes = true ∨ a.kind.reads = true) ∧ a.performedAt .gg = false) →
      exec .lret s = .next (s.setSheaf c.k (c.stalled 4))) ∧
    (h.glean = true → c.sh.wait = none → h.fits (s.entryRoom c.k c.sh) = true →
      (∀ a ∈ s.accs, a.k = c.k → (a.kind.writes = true ∨ a.kind.reads = true) → a.performedAt .gg = true) →
      ∃ t, exec .lret s = .next t ∧ t.sheaf c.k = some (c.sh.returned h none) ∧ t.mem = s.mem ∧
        t.alloc h.site h.id = (s.alloc h.site h.id).map Alloc.returned ∧
        ∀ k sh, k ≠ c.k → s.sheaf k = some sh →
          t.sheaf k = some (if sh.wait = some (.loss h.site h.id) then { sh with wait := none } else sh)))

/-- R267, R269, R333: regions. `rgn.begin` brings the splits together and records its origin, `rgn.end` waits for the sheaf's
engines and closes the region; either is illegal in a task, and where a region is open, or none is, and a split stops before
either with a fault recorded. A restart puts the sheaf at the origin, with its queues dead and its unperformed accesses
discarded. R202, R269, R333: an engine fault of a copy or of a matrix operation. The operation is over and its counter falls; in
the open region that issued it the sheaf is to restart, below the restart limit; otherwise it is the sheaf's pending fault, or
held behind one, or dropped where one is held; of an operation that the running handler issued it is a double fault; a task
whose lanes have all exited is to be aborted, and any other sheaf of which that is so goes on to its end. -/
def Obligations.RegionsRestartOnEngineFaults : Prop :=
  ((∀ (s : State) (c : Ctx), s.ctx = some c → c.sh.haltReq = false →
     (c.calm = true → (c.wg.task ≠ none ∨ c.sh.ctl.origin ≠ none) →
       exec .rgnBegin s = .next (s.setSheaf c.k (c.parked s { code := 0x01, opnd := 0 }))) ∧
     (c.calm = true → (c.wg.task ≠ none ∨ c.sh.ctl.origin = none) →
       exec .rgnEnd s = .next (s.setSheaf c.k (c.parked s { code := 0x01, opnd := 0 }))) ∧
     (c.halts = true → exec .rgnBegin s = .next (s.setSheaf c.k (c.stalled 21)) ∧
       exec .rgnEnd s = .next (s.setSheaf c.k (c.stalled 21))) ∧
     (c.wg.task = none → c.sh.ctl.origin = none → c.halts = false →
       exec .rgnBegin s = .next (s.setSheaf c.k (if c.only then
         { c.sh with ctl := { c.onward with origin := some (c.sp.pc + 1, c.sh.ctl.live), restarts := 0 } } else c.meets s.free true))) ∧
     (c.wg.task = none → c.sh.ctl.origin ≠ none → c.halts = false →
       exec .rgnEnd s = .next (s.setSheaf c.k
         (if c.sh.copies ≠ 0 then c.stalled 5 else if c.sh.tiles ≠ 0 then c.stalled 6
          else { c.sh with ctl := { c.onward with origin := none } })))) ∧
   (∀ (k : Nat) (s : State) (sh : Sheaf) (wg : Workgroup) (origin : BitVec 78) (mask : Mask), s.sheaf k = some sh →
     s.wg sh.wg = some wg → sh.ctl.origin = some (origin, mask) → sh.restarting = true → sh.hand = none → sh.writing = false →
     wg.task = none → sh.copies = 0 → sh.tiles = 0 →
     ∃ t, exec (.regionRestart k) s = .next t ∧ t.mem = s.mem ∧ (∀ n, n ≠ k → t.sheaf n = s.sheaf n) ∧
       (∀ a ∈ t.accs, a.k = k → a.stage = .path) ∧
       (∀ a ∈ s.accs, a.stage ≠ .done → (a.k ≠ k ∨ a.stage = .path) → a ∈ t.accs) ∧
       (sh.pend = none → t.sheaf k = some (sh.restarted s.free origin mask)) ∧
       (∀ f, sh.pend = some f → t.sheaf k = some { (sh.restarted s.free origin mask).halted21 with
         pend := some (if f.code = 0x1B then { f with pc := origin, rpc := (byteAddr origin).setWidth 64 } else f) }))) ∧
  ((∀ (id : Nat) (code : Word) (s : State) (x : CopyOp) (sh : Sheaf) (wg : Workgroup),
     s.copies.find? (fun y => y.id == id) = some x → x.discard = false → x.chunks.all (fun y => !y.landed) = true →
     s.sheaf x.k = some sh → s.wg sh.wg = some wg →
     let u : Sheaf := { sh with copies := sh.copies - 1 }
     ∃ t, exec (.engineFault (.copy id) code) s = .next t ∧
       (match u.engineMet (wg.task.isSome && !wg.ended) x.region x.byHand x.pc x.word code with
        | some v => t.sheaf x.k = some v ∧ (t.copies.all (fun y => y.id != id)) = true
        | none => ∃ w, t.wg sh.wg = some w ∧ w.killed = true)) ∧
   (∀ (id : Nat) (code : Word) (s : State) (x : TileOp) (sh : Sheaf) (wg : Workgroup),
     s.tops.find? (fun y => y.id == id) = some x → (∃ b f l r, x.fn = .mma b f l r) →
     s.sheaf x.k = some sh → s.wg sh.wg = some wg →
     let u : Sheaf := { sh with tiles := sh.tiles - 1 }
     ∃ t, exec (.engineFault (.tile id) code) s = .next t ∧
       (match u.engineMet (wg.task.isSome && !wg.ended) x.region x.byHand x.pc x.word code with
        | some v => t.sheaf x.k = some v ∧ (t.tops.all (fun y => y.id != id)) = true
        | none => ∃ w, t.wg sh.wg = some w ∧ w.killed = true)))

/-- R273, R274: in a handler, `qfrd` gives every active lane its frozen entry with its liveness; `saveopq` stores 512 bytes that
stand for the interrupted control state, counted once among the stores; `loadopq` of such bytes puts that state in place.
Outside a handler they are illegal instructions (0x01). What the bytes are is the implementation's (log 18). -/
def Obligations.HandlersReachTheInterruptedState : Prop :=
  (∀ (d : LDst) (n : Fin 16) (s : State) (c : Ctx), s.ctx = some c → d.port = none → (d.top 1).all (· < c.sh.named) = true →
    (c.sh.hand ≠ none → exec (.qfrd d n) s = .next (s.setSheaf c.k { c.sh with
      lanes := mapIdxFrom (fun l ln => if c.sp.mask.getLsbD l then
        let e := lget Entry.dead ln.frozen n.val
        ln.writeEntries d [if e.live then ⟨e.val, true, none⟩ else ⟨0, false, none⟩] else ln) 0 c.sh.lanes
      ctl := c.onward })) ∧
    (c.calm = true → exec (.qfrd d n) s = .next (s.setSheaf c.k (c.parked s { code := 0x01, opnd := 0 })))) ∧
  (∀ (p : GSrc) (seg : Fin 8) (s : State) (c : Ctx), s.ctx = some c → p.port = none →
    let srcs : List GUse := [⟨2, p, 2⟩]
    let off := gRead s c 2 p
    (c.calm = true → exec (.saveopq p seg) s = .next (s.setSheaf c.k (c.parked s { code := 0x01, opnd := 0 })) ∧
      exec (.loadopq p seg) s = .next (s.setSheaf c.k (c.parked s { code := 0x01, opnd := 0 }))) ∧
    (∀ h ea ps, c.sh.hand = some h → c.sh.stores < 63 → c.sp.replay = none → off.toNat % 64 = 0 →
      c.spot s srcs seg off 512 1 .wr = some (ea, ps) → (ps.map (fun x => x.2)).sum = 512 →
      ∃ t bytes, exec (.saveopq p seg) s = .next t ∧ t.mem = s.mem ∧
        t.sheaf c.k = some { c.sheafTo s srcs (c.sp.pc + 1) with stores := c.sh.stores + 1 } ∧
        bytes.length = 512 ∧ t.opq.find? (fun x => x.1 == bytes) = some (bytes, h.saved) ∧
        ∃ new, t.accs = s.accs ++ new ∧ new.map (fun a => (a.place, a.size)) = ps ∧ new.flatMap (fun a => a.data) = bytes ∧
          ∀ a ∈ new, a.kind = .store ∧ a.k = c.k ∧ a.stage = .issued) ∧
    (∀ h ea ps, c.sh.hand = some h → c.sp.replay = none → off.toNat % 64 = 0 →
      c.spot s srcs seg off 512 1 .rd = some (ea, ps) → s.accs = [] →
      (∀ saved, s.opaqueCtl c.sh.width (s.readPieces c.wg.site ps) = some saved → exec (.loadopq p seg) s =
        .next (s.setSheaf c.k { c.sheafTo s srcs (c.sp.pc + 1) with hand := some { h with saved := saved } })) ∧
      (s.opaqueCtl c.sh.width (s.readPieces c.wg.site ps) = none →
        ∃ t, exec (.loadopq p seg) s = .next t ∧ Killed s t c.sh.wg)))

/-- R276, R280, R324: requests at a sheaf. A debugger's halt is taken at the next region edge, or at once with a fault pending,
and a resumed sheaf goes on; a pre-emption request is pending at every sheaf of the gang; a time slice that expires behind a
fault or a halt is deferred, and else is a pre-emption. Vacating cores stops placement there and pre-empts every gang with a
workgroup on them; wait-eviction pre-empts its victim. -/
def Obligations.RequestsReachTheirSheaves : Prop :=
  (∀ (k : Nat) (s : State) (sh : Sheaf), s.sheaf k = some sh →
    (sh.ended = false → sh.finished = false → sh.halted = false → exec (.debuggerHalt k) s = .next (s.setSheaf k
      (if sh.pend = none then { sh with haltReq := true } else { sh with haltReq := false, halted := true }))) ∧
    (sh.halted = true → sh.slice = false → exec (.debuggerResume k) s = .next (s.setSheaf k { sh with halted := false })) ∧
    (∀ wg g, s.wg sh.wg = some wg → kget s.gangs wg.gang = some g →
      ∃ t, exec (.preemptionRequest k) s = .next t ∧ Preempted s t g.members ∧ t.mem = s.mem ∧
        ((sh.pend = none ∧ sh.hand = none ∧ sh.haltReq = false ∧ sh.halted = false ∧ sh.restarting = false ∧ sh.preempt = false) →
          exec (.timeSliceExpiry k) s = .next t)) ∧
    ((sh.pend ≠ none ∨ sh.hand ≠ none ∨ sh.haltReq = true ∨ sh.halted = true ∨ sh.restarting = true ∨ sh.preempt = true) →
      exec (.timeSliceExpiry k) s = .next (s.setSheaf k { sh with slice := true }))) ∧
  (∀ (part : Fin 16) (n : Nat) (s : State), (∀ g ∈ s.gangs, kget s.gangs g.1 = some g.2) →
    let busy := (s.part part.val).cores.filter (fun x => !(s.workgroupsOn x).isEmpty)
    let sites := busy.drop (busy.length - n)
    ∃ t, exec (.spatialPreemption part n) s = .next t ∧ t.mem = s.mem ∧ (∀ x ∈ sites, (t.core x).noPlace = true) ∧
      Preempted s t ((s.gangs.filter (fun g => g.2.members.any (fun w => match s.wg w with
        | some x => sites.contains x.site && !x.ended
        | none => false))).flatMap (fun g => g.2.members))) ∧
  (∀ (part : Fin 16) (s : State) (k : Nat) (g : Gang),
    (s.grids.filter (fun x => x.2.part == part)).findSome? (fun x => s.victim x.1 x.2) = some k → kget s.gangs k = some g →
    ∃ t, exec (.waitEviction part) s = .next t ∧ Preempted s t g.members ∧ t.mem = s.mem ∧
      kget t.gangs k = some { g with evict := true })

/-- R199 to R201, R246: `copy` and `copy2d`. A wrong descriptor field is an illegal operand (0x02). A copy that passes every
check begins: it stands behind the sheaf's earlier accesses, its chunks of up to 64 bytes move exactly the bytes of its rows,
each counted in the arrival word that it names, and the copies counter rises by one; at 63 the instruction stalls. A copy of no
bytes is over at once. No byte of memory has moved yet. R199, R201, R203 to R206: `mcast` and `cred`. A wrong field is an
illegal operand (0x02); a member beyond the gang, or a group identifier outside the partition's share, is outside partition
(0x16); a misaligned reduction is misaligned (0x07). Where the checks pass, an instruction that names a busy identifier stalls,
and a full counter stalls too. With the identifier free the copy begins and holds it: `mcast` moves its source to the window of
every member named, each counted in that member's arrival word; `cred` combines elements of 4, 8 or 16 bytes. An empty mask is
over at once, and so is a copy of no bytes. That the field `ELEM` must be 0 in `mcast`, and that the alignment is looked at for
no bytes too, are the model's choices (log 32). -/
def Obligations.CopiesAndMulticastsBegin : Prop :=
  (∀ (i : Instr) (f : CopyForm) (s : State) (c : Ctx), copyForm i = some f → s.ctx = some c →
     descOk f.desc f.regs = true → (∀ a seg, f.arr = some (a, seg) → a.port = none) →
     let d := f.d s c
     let rows := f.rows s c
     let arr := (f.arrival s c).map (fun p => c.at p.2.val p.1.toNat)
     let moves := rows.any (fun r => r.2.2 != 0)
     (f.fieldsOk s c = false → c.calm = true →
       exec i s = .next (s.setSheaf c.k (c.parked s { code := 0x02, opnd := 2 }))) ∧
     (f.checked s c = true → moves = false → exec i s = .next (s.setSheaf c.k (c.sheafTo s f.uses (c.sp.pc + 1)))) ∧
     (f.checked s c = true → moves = true → 63 ≤ c.sh.copies → exec i s = .next (s.setSheaf c.k (c.stalled 7))) ∧
     (f.checked s c = true → moves = true → c.sh.copies < 63 →
       ∃ t x, exec i s = .next t ∧ t.copies = s.copies ++ [x] ∧ Begun s c x ∧ x.red = none ∧ x.group = none ∧
         chunkBytes x.chunks = rowBytes c d.sseg d.dseg arr rows ∧
         t.sheaf c.k = some { c.sheafTo s f.uses (c.sp.pc + 1) with copies := c.sh.copies + 1 } ∧
         (∀ k, k ≠ c.k → t.sheaf k = s.sheaf k) ∧ t.mem = s.mem ∧ t.cores = s.cores)) ∧
  ((∀ (desc m : GSrc) (s : State) (c : Ctx), s.ctx = some c → descOk desc 6 = true → m.port = none →
     let d := descOf s c desc 6
     let w := (gRead s c 1 m).lo
     let g := w.toNat / 65536 % 4096
     let members := membersOf w
     let srcs : List GUse := ⟨3, m, 1⟩ :: descUses desc 6
     let len := d.r4.toNat
     let share := let p := s.part c.wg.part.val; p.gBase ≤ g ∧ g < p.gBase + p.gCount
     let counts := d.r5.toNat / 4096 ≠ 0xFFFFF
     let arrOff := d.r5.toNat / 4096 * 8
     let arr (i : Nat) : Option Addr := if counts then some (c.at 2 (i * 0x800000 + arrOff : Nat)) else none
     ((len ≥ 2 ^ 24 ∨ d.dseg ≠ 2 ∨ d.r5.toNat / 64 % 64 ≠ 0) → c.calm = true →
       exec (.mcast desc m) s = .next (s.setSheaf c.k (c.parked s { code := 0x02, opnd := 2 }))) ∧
     (len < 2 ^ 24 → d.dseg = 2 → d.r5.toNat / 64 % 64 = 0 →
       (w.toNat / 2 ^ 28 ≠ 0 → c.calm = true →
         exec (.mcast desc m) s = .next (s.setSheaf c.k (c.parked s { code := 0x02, opnd := 3 }))) ∧
       (w.toNat / 2 ^ 28 = 0 →
         (members = [] → exec (.mcast desc m) s = .next (s.setSheaf c.k (c.sheafTo s srcs (c.sp.pc + 1)))) ∧
         (members ≠ [] → ((∃ i ∈ members, c.wg.m ≤ i) ∨ ¬share) → c.calm = true →
           exec (.mcast desc m) s = .next (s.setSheaf c.k (c.parked s { code := 0x16, opnd := 3 }))) ∧
         (members ≠ [] → (∀ i ∈ members, i < c.wg.m) → share →
           (len ≠ 0 → rangeFine s c ⟨d.sseg, (d.src.toNat : Int), len, none, false, 2⟩ = true) →
           (len ≠ 0 → ∀ i ∈ members,
             rangeFine s c ⟨2, (i * 0x800000 + d.dst.toNat : Nat), len, some i, false, 2⟩ = true) →
           (counts → ∀ i ∈ members, arrivalFine s c ⟨2, (i * 0x800000 + arrOff : Nat), 8, some i, true, 2⟩ = true) →
           (groupFree s c g = false → exec (.mcast desc m) s = .next (s.setSheaf c.k (c.stalled 20))) ∧
           (groupFree s c g = true → len = 0 →
             exec (.mcast desc m) s = .next (s.setSheaf c.k (c.sheafTo s srcs (c.sp.pc + 1)))) ∧
           (groupFree s c g = true → len ≠ 0 → 63 ≤ c.sh.copies →
             exec (.mcast desc m) s = .next (s.setSheaf c.k (c.stalled 7))) ∧
           (groupFree s c g = true → len ≠ 0 → c.sh.copies < 63 →
             ∃ t x, exec (.mcast desc m) s = .next t ∧ t.copies = s.copies ++ [x] ∧ Begun s c x ∧ x.red = none ∧ x.group = some g ∧
               chunkBytes x.chunks = members.flatMap (fun i =>
                 rowBytes c d.sseg 2 (arr i) [((d.src.toNat : Int), ((i * 0x800000 + d.dst.toNat : Nat) : Int), len)]) ∧
               (kget t.groupIds g).map (fun p => p.1) = some true ∧
               t.sheaf c.k = some { c.sheafTo s srcs (c.sp.pc + 1) with copies := c.sh.copies + 1 } ∧ t.mem = s.mem))))) ∧
   (∀ (op : RedOp) (desc id : GSrc) (s : State) (c : Ctx), s.ctx = some c → descOk desc 6 = true → id.port = none →
     let d := descOf s c desc 6
     let w := (gRead s c 1 id).lo
     let g := w.toNat
     let elem := d.r5.toNat / 64 % 4
     let es := if elem = 0 then 4 else if elem = 1 then 8 else 16
     let srcs : List GUse := ⟨3, id, 1⟩ :: descUses desc 6
     let len := d.r4.toNat
     let share := let p := s.part c.wg.part.val; p.gBase ≤ g ∧ g < p.gBase + p.gCount
     let counts := d.r5.toNat / 4096 ≠ 0xFFFFF
     let arrOff := d.r5.toNat / 4096 * 8
     let arr : Option Addr := if counts then some (c.at d.dseg (arrOff : Nat)) else none
     let word : CopyRange := ⟨d.dseg, (arrOff : Nat), 8, none, false, 2⟩
     let wrong := len ≥ 2 ^ 24 ∨ elem = 3 ∨ d.r5.toNat / 256 % 16 ≠ 0 ∨ (elem = 2 ∧ op ≠ .add)
     let aligned := len % es = 0 ∧ d.src.toNat % es = 0 ∧ d.dst.toNat % es = 0
     (wrong → c.calm = true → exec (.cred op desc id) s = .next (s.setSheaf c.k (c.parked s { code := 0x02, opnd := 2 }))) ∧
     (¬wrong → 4096 ≤ w.toNat → c.calm = true →
       exec (.cred op desc id) s = .next (s.setSheaf c.k (c.parked s { code := 0x02, opnd := 3 }))) ∧
     (¬wrong → w.toNat < 4096 → ¬share → c.calm = true →
       exec (.cred op desc id) s = .next (s.setSheaf c.k (c.parked s { code := 0x16, opnd := 3 }))) ∧
     (¬wrong → w.toNat < 4096 → share →
       (len ≠ 0 → rangeFine s c ⟨d.sseg, (d.src.toNat : Int), len, none, false, 2⟩ = true) →
       (len ≠ 0 → rangeFine s c ⟨d.dseg, (d.dst.toNat : Int), len, none, false, 2⟩ = true) →
       (counts → arrivalFine s c word = true) →
       (¬aligned → c.calm = true →
         exec (.cred op desc id) s = .next (s.setSheaf c.k (c.parked s
           { code := 0x07, opnd := 2, addr := if len = 0 then 0 else c.at d.sseg d.src.toNat }))) ∧
       (aligned →
         (groupFree s c g = false → exec (.cred op desc id) s = .next (s.setSheaf c.k (c.stalled 20))) ∧
         (groupFree s c g = true → len = 0 →
           exec (.cred op desc id) s = .next (s.setSheaf c.k (c.sheafTo s srcs (c.sp.pc + 1)))) ∧
         (groupFree s c g = true → len ≠ 0 → 63 ≤ c.sh.copies →
           exec (.cred op desc id) s = .next (s.setSheaf c.k (c.stalled 7))) ∧
         (groupFree s c g = true → len ≠ 0 → c.sh.copies < 63 →
           ∃ t x, exec (.cred op desc id) s = .next t ∧ t.copies = s.copies ++ [x] ∧ Begun s c x ∧ x.red = some (op, es) ∧
             x.group = some g ∧
             chunkBytes x.chunks = rowBytes c d.sseg d.dseg arr [((d.src.toNat : Int), (d.dst.toNat : Int), len)] ∧
             (kget t.groupIds g).map (fun p => p.1) = some true ∧
             t.sheaf c.k = some { c.sheafTo s srcs (c.sp.pc + 1) with copies := c.sh.copies + 1 } ∧ t.mem = s.mem)))))

/-- R152, R188, R200, R202, R205, R208, R210: a chunk of a copy lands: its bytes, or the elements they are combined into, stand
at the destination, but for those that are bytes of the copy's own source, which the rule leaves undefined; no other byte of
memory changes. Then it is counted in its arrival word, and only then is it over. With its last chunk a copy is over: the copies
counter falls and its group identifier is free. A chunk whose destination was lost after the issue moves nothing and is counted
all the same; one whose source was lost is an engine fault of the copy; a discarded copy moves and counts nothing. -/
def Obligations.CopyChunksLandThenCount : Prop :=
  ∀ (id n : Nat) (s : State) (x : CopyOp) (ch : Chunk), s.copies.find? (fun y => y.id == id) = some x →
    x.chunks[n]? = some ch → x.stalled = none → s.copyMay x = true →
    let counted (t : State) : Prop :=
      (ch.arrive = none → ChunkOver s t x n) ∧
      (ch.arrive ≠ none → t.copies.find? (fun y => y.id == id) = some { x with chunks := lset x.chunks n { ch with landed := true } } ∧
        t.sheaf x.k = s.sheaf x.k)
    (x.discard = true → ∃ t, exec (.copyChunkLand id n) s = .next t ∧ t.mem = s.mem ∧ ChunkOver s t x n) ∧
    (x.discard = false → ch.landed = false → ch.lost = true →
      exec (.copyChunkLand id n) s = exec (.engineFault (.copy id) (Config.engineCode s.free)) s) ∧
    (∀ (ss : List (Place × Nat)), x.discard = false → ch.landed = false → ch.lost = false → ch.void = true →
      s.reachRange x.via ch.src ch.len .rd = .ok ss →
      ∃ t, exec (.copyChunkLand id n) s = .next t ∧ t.mem = s.mem ∧ counted t) ∧
    (∀ (ss : List (Place × Nat)) (pa : Nat), x.discard = false → ch.landed = false → ch.lost = false → ch.void = false →
      (∀ op es, x.red = some (op, es) → (es = 4 ∨ es = 8 ∨ es = 16) ∧ ch.len % es = 0) →
      s.reachRange x.via ch.src ch.len .rd = .ok ss → s.reachRange x.via ch.dst ch.len .wr = .ok [(.hbm pa, ch.len)] →
      s.plainAt pa = true → s.clearOver (.hbm pa) ch.len = true → (s.sliceBytes ss).length = ch.len →
      ∃ t bs, exec (.copyChunkLand id n) s = .next t ∧ t.mem = s.mem.write pa bs ∧ bs.length = ch.len ∧ counted t ∧
        ∀ i < ch.len, (∀ q ∈ s.sourcePlaces x, q.1.meets q.2 (.hbm (pa + i)) 1 = false) →
          bs[i]? = (landing x.red (s.mem.read pa ch.len) (s.sliceBytes ss))[i]?) ∧
    (∀ (ea : Addr) (pa : Nat), x.discard = false → ch.landed = true → ch.arrive = some ea →
      s.reachRange x.via ea 8 .wr = .ok [(.hbm pa, 8)] → s.plainAt pa = true → s.clearOver (.hbm pa) 8 = true →
      ∃ t, exec (.copyChunkLand id n) s = .next t ∧ ChunkOver s t x n ∧
        t.mem = s.mem.write pa (leBytes 8 (arrivalAfter (s.mem.dword pa) ch.len).toNat))

/-- R211, R212, R250: `mlease` takes a free lease, does nothing for its holder, and waits otherwise. `mpass` gives the lease to
the workgroup's next sheaf, which holds it without issuing anything; `mfree` frees it, or gives it to a sheaf that waits, the
oldest; both release the holder's reuse latch. A name that the kernel did not declare traps with tile out of range (0x11), and
`mpass` or `mfree` of a sheaf without the lease with lease not held (0x10). -/
def Obligations.LeasesAreTakenPassedAndFreed : Prop :=
  ∀ (t : Fin 4) (s : State) (c : Ctx), s.ctx = some c →
    let bad (code : Nat) : State := s.setSheaf c.k (c.parked s { code := code, opnd := 0 })
    let dropped : Sheaf := { c.sheafAt (c.sp.pc + 1) with latches := lset c.sh.latches t.val [] }
    let given (k : Option Nat) : Workgroup := { c.wg with leases := lset c.wg.leases t.val k }
    let on : State := s.setSheaf c.k (c.sheafAt (c.sp.pc + 1))
    (lget 0 c.wg.kernel.acc t.val = 0 → c.calm = true → ∀ i ∈ [Instr.mlease t, .mpass t, .mfree t], exec i s = .next (bad 0x11)) ∧
    (lget 0 c.wg.kernel.acc t.val ≠ 0 → t.val < c.wg.leases.length →
      ((c.sh.pend = none ∨ c.sh.hand ≠ none) →
        (c.leased t = true → exec (.mlease t) s = .next on) ∧
        (c.wg.leases[t.val]? = some none → exec (.mlease t) s = .next (on.setWg c.sh.wg (given (some c.k)))) ∧
        (∀ k, c.wg.leases[t.val]? = some (some k) → k ≠ c.k →
          exec (.mlease t) s = .next (s.setSheaf c.k (c.waiting (.lease t))))) ∧
      (c.leased t = false → c.calm = true → ∀ i ∈ [Instr.mpass t, .mfree t], exec i s = .next (bad 0x10)) ∧
      (c.leased t = true →
        (∀ k sh, c.nextHolder s = some k → s.sheaf k = some sh →
          exec (.mpass t) s = .next (
            let u := (s.setWg c.sh.wg (given (some k))).setSheaf c.k dropped
            if k ≠ c.k ∧ sh.wait = some (.lease t) then u.setSheaf k (sh.pastWait sh.waiter) else u)) ∧
        (s.waiting c.sh.wg t = [] → exec (.mfree t) s = .next ((s.setWg c.sh.wg (given none)).setSheaf c.k dropped)) ∧
        (∀ k sh, (k, sh) ∈ s.waiting c.sh.wg t → k ≠ c.k → (s.sheaves.map (·.1)).Nodup →
          (∀ p ∈ s.waiting c.sh.wg t, p.1 ≠ k → sh.age < p.2.age) →
          exec (.mfree t) s = .next (((s.setWg c.sh.wg (given (some k))).setSheaf c.k dropped).setSheaf k
            (sh.pastWait sh.waiter)))))

/-- R213, R214, R217, R220, R251, R253 to R255: the accumulator instructions check their operands in order and then are taken by
their thresher: the operation is queued with what it read at issue, the tile-operation counter rises by one and the split goes
on; no tile changes yet. `mma` fills, reuses or releases the reuse latch; `accrd` reserves its destination quad. -/
def Obligations.MatrixInstructionsAreChecked : Prop :=
  ∀ (r : TileRef) (s : State) (c : Ctx), s.ctx = some c →
    let bad (e : Exc) : Host.Outcome State Fault Refusal := .next (s.setSheaf c.k (c.parked s e))
    (∀ i named, tileForm i = some (r, named) → c.within named = true →
      (c.leased r.t = false → c.calm = true → exec i s = bad { code := 0x10, opnd := 0 }) ∧
      (c.leased r.t = true → c.hasSet r = false → c.calm = true → exec i s = bad { code := 0x11, opnd := 0 }) ∧
      (c.leased r.t = true → c.hasSet r = true → 63 ≤ c.sh.tiles → exec i s = .next (s.setSheaf c.k (c.stalled 7)))) ∧
    (∀ (a f : XReg) (bg : Fin 8) (reuse zero : Bool),
      let i : Instr := .mma r a bg f reuse zero
      let latch := lget [] c.sh.latches r.t.val
      let full := reuse && latch != []
      let scaled := c.busyOctets.any (fun o => (c.octetWord s f o).getLsbD 8)
      let read := (if full then [] else [(a, 4)]) ++ [(f, 1)]
      let fmts := c.busyOctets.map (fun o => (o, c.octetWord s f o))
      let off := lget 0 c.sh.g bg.val
      let ea := (lget ⟨0, 0, false⟩ c.sh.segs 1).base + off.setWidth 80
      let reach := s.reachIssue (viaOf c.k c.sh c.wg 1) ea (spanOf fmts) .rd
      c.mayTake s r [(a, 4), (f, 1)] read = true → (full = true ∨ c.scalesLive s a f = true) →
      (∀ code, (c.busyOctets.map (c.octetFault s r f zero)).findSome? id = some code → c.calm = true →
        exec i s = bad { code := code, opnd := 4 }) ∧
      ((∀ o ∈ c.busyOctets, c.octetFault s r f zero o = none) →
        (scaled = true → c.within [(a, 5)] = false → c.calm = true → exec i s = bad { code := 0x04, opnd := 2 }) ∧
        ((scaled = false ∨ c.within [(a, 5)] = true) →
          (off.toNat % 64 ≠ 0 → c.calm = true → exec i s = bad { code := 0x07, opnd := 3, addr := ea }) ∧
          (off.toNat % 64 = 0 →
            (c.address 1 (off.setWidth 64) (spanOf fmts) = none → c.calm = true →
              exec i s = bad { code := 0x08, opnd := 3, addr := ea }) ∧
            (c.address 1 (off.setWidth 64) (spanOf fmts) ≠ none →
              (∀ code alloc, reach = .fault code alloc → c.calm = true →
                exec i s = bad { code := code, opnd := 3, addr := ea, alloc := alloc }) ∧
              (∀ pl pk, reach = .ok pl pk → ∀ K : Fin 32, a = .n K →
                let frags := if full then latch.filter (fun x => c.sp.mask.getLsbD x.lane) else c.fragments s K f
                (∀ x ∈ latch, x.lane < 64) →
                exec i s = .next (c.taken s r (.mma off fmts frags zero) (placeAlloc pl)
                  (fun sh => { sh with latches :=
                    if full then sh.latches else lset sh.latches r.t.val (if reuse then frags else []) })))))))) ∧
    (∀ f : XReg, c.mayTake s r [(f, 1)] [(f, 1)] = true →
      let hi (l : Nat) : Word := c.fmt s f l >>> 16
      let l0 := (maskLanes c.sp.mask).headD 0
      (((maskLanes c.sp.mask).any (fun l => hi l != hi l0)) = true → c.calm = true →
        exec (.accz r f) s = bad { code := 0x0D, opnd := 4 }) ∧
      ((∀ l ∈ maskLanes c.sp.mask, hi l = hi l0) → c.sp.mask ≠ 0 →
        exec (.accz r f) s = .next (c.taken s r (.accz ((hi l0).setWidth 16)) none id))) ∧
    (∀ (K : Fin 32) (f : XReg) (col : Fin 8) (sat : Bool),
      let q : XReg := .n K
      let c0 := (lget 0 c.sh.g col.val).toNat
      let w := c.fmt s f ((maskLanes c.sp.mask).headD 0)
      c.sp.mask ≠ 0 →
      (c.mayTake s r [(q, 4), (f, 1)] [(f, 1)] = true →
        (∀ code opnd, c.readFault s f c0 false = some (code, opnd) → c.calm = true →
          exec (.accrd r q col f sat) s = bad { code := code, opnd := opnd }) ∧
        (c.readFault s f c0 false = none →
          exec (.accrd r q col f sat) s = .next (c.taken s r (.accrd c0 w.toNat sat) none (fun sh => { sh with
            lanes := mapIdxFrom (fun l ln => if c.sp.mask.getLsbD l then
              { ln with n := lsets ln.n K.val ((List.range 4).map (fun i => ⟨0, true, some ⟨s.nextKey, i, false⟩⟩)) } else ln) 0 sh.lanes })))) ∧
      (c.mayTake s r [(q, 4), (f, 1)] [(q, 4), (f, 1)] = true →
        (∀ code opnd, c.readFault s f c0 true = some (code, opnd) → c.calm = true →
          exec (.accwr r q col f) s = bad { code := code, opnd := opnd }) ∧
        (c.readFault s f c0 true = none →
          exec (.accwr r q col f) s = .next (c.taken s r
            (.accwr K.val c0 ((maskLanes c.sp.mask).map (fun l => (l, regsRead s.free c.sh l q 4)))
              (c.sh.hand.any (fun h => h.fault.restore))) none id))))

/-- R55, R57, R215, R217 to R220, R253 to R255, R279: a tile operation is carried out once those taken earlier that it follows
are. An `mma` adds the product terms of each active row to the tile's elements and charges its terms to the tile's count, and
what it has read of its registers stands from then on in the latch it fills; where its B tile was lost after the issue it is an
engine fault instead. `accz` zeroes the eight tiles of the set at its anchor; `accrd` delivers the readouts of its lanes' rows
to the registers reserved for it; `accwr` writes an element of each of its rows, and changes the count but for one issued in a
restore. The sheaf's counter then falls. Other tiles are unchanged. That `accwr` writes to a tile whose budget is exceeded is
the model's choice (log 32). -/
def Obligations.TileOperationsAreCarriedOut : Prop :=
  ∀ (id : Nat) (s : State) (x : TileOp) (sh : Sheaf), s.tops.find? (fun y => y.id == id) = some x → s.sheaf x.k = some sh →
    (s.ahead x = true → exec (.tileOperationComplete id) s = .next s) ∧
    (s.ahead x = false →
      let other (t : State) : Prop := ∀ wg th set o, (wg, th, set) ≠ (x.wg, x.t, x.set) ∨ x.touches o = false →
        t.tile wg th set o = s.tile wg th set o
      let old (o : Nat) : Tile := s.tile x.wg x.t x.set o
      (∀ off fmts frags zero wg, x.fn = .mma off fmts frags zero → s.wg x.wg = some wg →
        (x.lost = true →
          exec (.tileOperationComplete id) s = exec (.engineFault (.tile id) (Config.engineCode s.free)) s) ∧
        (x.lost = false →
          let via := viaOf x.k sh wg 1
          let ea := (lget ⟨0, 0, false⟩ sh.segs 1).base + off.setWidth 80
          let span := spanOf fmts
          ∀ pl pk u ps v, s.reachIssue via ea span .rd = .ok pl pk →
            s.hwPages via .rd (span / 65536 + 2) ea span = (u, .ok ps) → u.sheaf x.k = some v →
            (fmts.map (·.1)).Nodup → (∀ p ∈ fmts, p.1 < 8 ∧ formats p.2 ≠ none ∧ x.touches p.1 = true) →
            (frags.map (·.lane)).Nodup → kept u v frags = true →
            let bytes := u.sliceBytes ps
            ∃ t, exec (.tileOperationComplete id) s = .next t ∧ other t ∧
              t = x.over { u with tops := u.tops.map (TileOp.handedOn x.id frags) }
                { v with latches := v.latches.map (handedOn x.id frags) } t.tiles v.lanes ∧
              ∀ p ∈ fmts, ∀ fa fb scaled, formats p.2 = some (fa, fb, scaled) →
                let before := if zero then 0 else (old p.1).count
                let anchor := if zero then p.2.extractLsb' 16 16 else (old p.1).anchor
                let now := t.tile x.wg x.t x.set p.1
                now.anchor = anchor ∧ now.count = before + perFragment fa ∧
                ∀ row col, row < 8 → col < 64 → now.elem row col =
                  mmaElem (if zero then 0 else (old p.1).elem row col) before (before + perFragment fa) anchor.toInt fa fb scaled
                    (frags.find? (fun f => f.lane == 8 * p.1 + row)) bytes col)) ∧
      (∀ anchor, x.fn = .accz anchor →
        ∃ t, exec (.tileOperationComplete id) s = .next t ∧ other t ∧ t = x.over s sh t.tiles sh.lanes ∧
          ∀ o, o < 8 → t.tile x.wg x.t x.set o = ⟨x.wg, x.t, x.set, o, anchor, 0, []⟩) ∧
      (∀ col code sat, x.fn = .accrd col code sat →
        exec (.tileOperationComplete id) s = .next (x.over s sh s.tiles (mapIdxFrom (fun l ln =>
          if x.mask.getLsbD l then ln.mapEntries (Entry.fillNow x.id (quadOf (old (l / 8)) (l % 8) col code sat)) else ln) 0 sh.lanes))) ∧
      (∀ src col vals restoring, x.fn = .accwr src col vals restoring → col < 64 → (vals.map (·.1)).Nodup →
        (∀ p ∈ vals, x.mask.getLsbD p.1 = true) →
        (∀ p ∈ vals, regsRead s.free sh p.1 (.n (Fin.ofNat 32 src)) 4 = p.2) →
        ∃ t, exec (.tileOperationComplete id) s = .next t ∧ other t ∧ t = x.over s sh t.tiles sh.lanes ∧
          ∀ o, x.touches o = true →
            let now := t.tile x.wg x.t x.set o
            now.anchor = (old o).anchor ∧
            (∀ row col', row < 8 → col' < 64 → now.elem row col' =
              if col' = col then ((vals.find? (fun p => p.1 == 8 * o + row)).map (fun p => A128.ofWords p.2)).getD ((old o).elem row col)
              else (old o).elem row col') ∧
            (restoring = true → now.count = (old o).count) ∧
            (restoring = false →
              now.count = if vals.any (fun p => p.1 / 8 == o && decide (2 ^ 110 ≤ (A128.v (A128.ofWords p.2)).natAbs)) then 32768
                else max (old o).count 16384)))

/-- R229, R230, R256: `spawn` of a task control block sets its `DEPTH` and makes it READY at the tail of its priority's FIFO, or
WAITING while `DEP` is not 0, once the sheaf's earlier accesses have performed; a wrong block faults, in the order of R229.
`depset` writes `DEP` of a block that is not WAITING, READY or RUNNING. `depdec` lowers `DEP`, does nothing at 0, and makes a
WAITING task READY when it reaches 0. R234, R235, R257: `fread` and `fwrite` return the future word as it stood. `fread` of an
EMPTY word links the continuation at the head of its list; `fwrite` of an EMPTY word makes it FULL with the value, once the
sheaf's earlier accesses have performed; of any other word both change nothing in memory. Wrong operands are misaligned (0x07)
or illegal (0x02). -/
def Obligations.TasksAndFuturesAreKept : Prop :=
  (∀ (p n : GSrc) (s : State) (c : Ctx) (pa : Nat), s.ctx = some c → c.sp.replay = none → p.port = none → n.port = none →
     s.mem.wf = true →
     let one : List GUse := [⟨2, p, 2⟩]
     let two : List GUse := [⟨2, p, 2⟩, ⟨3, n, 1⟩]
     let ptr := gRead s c 2 p
     let v := tcbAt s.mem pa
     let part := c.wg.part.val
     let x := s.part part
     let bad (code : Nat) : Host.Outcome State Fault Refusal := .next (s.setSheaf c.k (c.parked s { code := code, opnd := 2 }))
     let on (srcs : List GUse) (m : Memory) (ps : List (Nat × Partition)) (t : State) : Prop :=
       t.sheaves = (s.setSheaf c.k (c.sheafTo s srcs (c.sp.pc + 1))).sheaves ∧ sameBytes t.mem m ∧ t.parts = ps ∧ t.wgs = s.wgs
     (ptr.toNat % 64 ≠ 0 → c.calm = true → ∀ i ∈ [Instr.spawn p, .depset p n, .depdec p],
       exec i s = .next (s.setSheaf c.k (c.parked s { code := 0x07, opnd := 2, addr := (shortAddr ptr).va }))) ∧
     (c.inMemory s one false ptr 64 = some pa →
       (c.released s = false → exec (.spawn p) s = .next (s.setSheaf c.k (c.stalled 2)) ∧
         exec (.depdec p) s = .next (s.setSheaf c.k (c.stalled 2))) ∧
       (c.released s = true →
         (∀ code, v.spawnFault c.childDepth = some code → c.calm = true → exec (.spawn p) s = bad code) ∧
         (v.spawnFault c.childDepth = none →
           let task : ReadyTask := ⟨(shortAddr ptr).va, c.wg.asid, c.childDepth, c.wg.stage, .hbm pa, none⟩
           let m (st : Nat) : Memory := (s.mem.write (pa + 0x08) (leBytes 4 (v.withDepth c.childDepth).toNat)).write (pa + 0x18)
             (leBytes 4 (v.withState st).toNat)
           (v.dep = 0 → ∃ t, exec (.spawn p) s = .next t ∧ on one (m 2) (kset s.parts part (x.ready v.prio task)) t) ∧
           (v.dep ≠ 0 → ∃ t, exec (.spawn p) s = .next t ∧
             on one (m 1) (kset s.parts part { x with waiting := x.waiting ++ [task] }) t)) ∧
         (v.dep = 0 → exec (.depdec p) s = .next (s.setSheaf c.k (c.sheafTo s one (c.sp.pc + 1)))) ∧
         (v.dep ≠ 0 →
           let m : Memory := s.mem.write (pa + 0x0C) (leBytes 4 (v.dep.toNat - 1))
           ((v.dep ≠ 1 ∨ v.state ≠ 1) → ∃ t, exec (.depdec p) s = .next t ∧ on one m s.parts t) ∧
           (∀ u, v.dep = 1 → v.state = 1 → x.waiting.find? (fun u => u.at_ == .hbm pa) = some u →
             (∀ q ∈ s.parts, q.1 = part ∨ ∀ u ∈ q.2.waiting, u.at_ ≠ Place.hbm pa) →
             ∃ t, exec (.depdec p) s = .next t ∧
               on one (m.write (pa + 0x18) (leBytes 4 (v.withState 2).toNat))
                 (kset s.parts part ({ x with waiting := x.waiting.filter (fun y => y.at_ != Place.hbm pa) }.ready v.prio u)) t)))) ∧
     (c.inMemory s two false ptr 64 = some pa →
       ((v.state = 1 ∨ v.state = 2 ∨ v.state = 3) → c.calm = true → exec (.depset p n) s = bad 0x02) ∧
       (v.state ≠ 1 → v.state ≠ 2 → v.state ≠ 3 → ∃ t, exec (.depset p n) s = .next t ∧
         on two (s.mem.write (pa + 0x0C) (leBytes 4 (gRead s c 1 n).lo.toNat)) s.parts t))) ∧
  (∀ (d : GDst) (p x : GSrc) (s : State) (c : Ctx) (pa pk : Nat), s.ctx = some c → c.sp.replay = none → p.port = none →
     x.port = none → d.port = none → mayWrite c d = true → s.mem.wf = true →
     let srcs : List GUse := [⟨2, p, 2⟩, ⟨3, x, 2⟩]
     let ptr := gRead s c 2 p
     let v := gRead s c 2 x
     let old := s.mem.dword pa
     let gives (i : Instr) (m : Memory) : Prop := ∃ t, exec i s = .next t ∧
       t.sheaves = (groupWritten s c srcs d [old.lo, old.hi]).sheaves ∧ t.wgs = (groupWritten s c srcs d [old.lo, old.hi]).wgs ∧
       sameBytes t.mem m
     (ptr.toNat % 8 = 0 → c.calm = true →
       (v.toNat % 64 ≠ 0 → exec (.fread d p x) s =
         .next (s.setSheaf c.k (c.parked s { code := 0x07, opnd := 3, addr := (shortAddr v).va }))) ∧
       (2 ^ 62 ≤ v.toNat → exec (.fwrite d p x) s = .next (s.setSheaf c.k (c.parked s { code := 0x02, opnd := 3 })))) ∧
     (ptr.toNat % 8 ≠ 0 → c.calm = true → ∀ i ∈ [Instr.fread d p x, .fwrite d p x],
       exec i s = .next (s.setSheaf c.k (c.parked s { code := 0x07, opnd := 2, addr := (shortAddr ptr).va }))) ∧
     (c.inMemory s srcs true ptr 8 = some pa →
       (v.toNat % 64 = 0 → c.inMemory s srcs false v 64 = some pk →
         (old.toNat % 4 = 0 → gives (.fread d p x)
           ((s.mem.write (pk + 0x38) (leBytes 8 old.toNat)).write pa (leBytes 8 v.toNat))) ∧
         (old.toNat % 4 ≠ 0 → gives (.fread d p x) s.mem)) ∧
       (v.toNat < 2 ^ 62 →
         (c.released s = false → exec (.fwrite d p x) s = .next (s.setSheaf c.k (c.stalled 2))) ∧
         (c.released s = true →
           (old.toNat % 4 = 0 → gives (.fwrite d p x) (s.mem.write pa (leBytes 8 (filled v).toNat))) ∧
           (old.toNat % 4 ≠ 0 → gives (.fwrite d p x) s.mem)))))

/-- R237, R244, R258, R281: `jbind`. A block that is not aligned is misaligned (0x07), and a participant word, journal or block
that R237 rules out faults with the code of its row. A first bind of a generation takes an entry of the quorum table, for which
it waits while the block's die holds 256; a later one joins the entry. The participant's journal is zeroed, its weight read, and
the quorum register holds the binding, condemned at once where the block is RELEASED. A relaunched workgroup takes the binding
that its gang's record gives it: settled where the index has arrived or its generation is over, condemned where it was. R237,
R238, R240, R243, R260, R261, R281, R294, R296: what the quorum instructions do by the binding they name. An empty register, a
binding of a join that a partition reset has freed, and `qcontrib` or `qarrive` of an older generation or by a participant that
has arrived, fault with join not bound (0x12), but a second `qarrive` does nothing. A settled binding makes every one of them
nothing. The kill points kill a condemned participant's workgroup. `qkpt` does nothing otherwise, and `qwait` waits until the
generation is finalised. `qarrive` waits for the earlier accesses of every sheaf of its workgroup; to a join of another device
it goes as a message that counts in the stores class. -/
def Obligations.JoinsAreBoundAndFollowed : Prop :=
  (∀ (q : Fin 4) (p w : GSrc) (s : State) (c : Ctx) (pa : Nat), s.ctx = some c → (c.sh.pend = none ∨ c.sh.hand ≠ none) →
     c.sp.replay = none → p.port = none → w.port = none → s.mem.wf = true →
     let srcs : List GUse := [⟨2, p, 2⟩, ⟨3, w, 1⟩]
     let ptr := gRead s c 2 p
     let word := (gRead s c 1 w).lo.toNat
     let i := word % 2 ^ 13
     let jid : BitVec 16 := BitVec.ofNat 16 (word / 2 ^ 16)
     let b := s.blockAt pa
     let exe : Host.Outcome State Fault Refusal := exec (.jbind q p w) s
     let bad (e : Exc) : Host.Outcome State Fault Refusal := .next (s.setSheaf c.k (c.parked s e))
     let on (t : State) (x : Binding) : Prop := t.sheaf c.k = some (c.sheafTo s srcs (c.sp.pc + 1)) ∧
       t.wg c.sh.wg = some { c.wg with joins := lset c.wg.joins q.val (some x) }
     let entry := s.joins.find? (fun e => e.2.at_ == .hbm pa && e.2.gen == b.gen && !e.2.final)
     let holder := entry.bind (fun e => e.2.members.find? (fun m => m.index == i))
     let mine := s.recorded c ptr i
     let settled := settledGen mine b.gen holder
     let lost := settled = none ∧ (∃ k ∈ mine, k.condemned = true) ∧ ∃ m, holder = some m ∧ m.condemned = true
     let held (x : Binding) : Bool := match kget s.joins x.join with | some j => !j.final | none => false
     let usesJournal (x : Binding) : Prop := ∃ j, kget s.joins x.join = some j ∧ j.final = false ∧
       ∃ m, j.members.find? (fun m => m.index == x.index) = some m ∧ m.wg = c.sh.wg ∧ m.jid = jid ∧ ¬(lost ∧ x.index = i)
     let wrong := word / 2 ^ 13 % 8 ≠ 0 ∨ b.npart ≤ i ∨ b.bad = true ∨ (∃ x, c.wg.joins[q.val]? = some (some x) ∧ held x = true) ∨
       (∃ x ∈ c.wg.joins, ∃ y, x = some y ∧ usesJournal y) ∨ (holder ≠ none ∧ settled = none ∧ ¬lost)
     let journal := (s.alloc c.wg.site jid).filter (fun a => a.wg == c.sh.wg && !a.journal)
     (ptr.toNat % 256 ≠ 0 → c.calm = true → exe = bad { code := 0x07, opnd := 2, addr := (shortAddr ptr).va }) ∧
     (c.inMemory s srcs false ptr 256 = some pa →
       (wrong → c.calm = true → exe = bad { code := 0x02, opnd := 3 }) ∧
       (¬wrong →
         (journal = none → c.calm = true → exe = bad { code := 0x0A, opnd := 3 }) ∧
         (∀ a, journal = some a →
           (a.rank ≠ 7 → c.calm = true → exe = bad { code := 0x1E, opnd := 3 }) ∧
           (a.rank = 7 → a.size * 16384 < 16 * b.nelem → c.calm = true → exe = bad { code := 0x0A, opnd := 3 }) ∧
           (a.rank = 7 → 16 * b.nelem ≤ a.size * 16384 → b.state = 2 → settled = none → c.calm = true →
             exe = bad { code := 0x02, opnd := 3 }) ∧
           (a.rank = 7 → 16 * b.nelem ≤ a.size * 16384 → (c.looked s srcs).blockReach c (.hbm pa) b = .ok () →
             (∀ g, settled = some g → ∃ t key, exe = .next t ∧ on t ⟨key, ptr, g, i, false, true⟩ ∧ t.joins = s.joins ∧ t.mem = s.mem ∧
               ∀ site id, t.alloc site id = s.alloc site id) ∧
             (∀ e, b.state ≠ 2 → lost → entry = some e → ∃ t, exe = .next t ∧ on t ⟨e.1, ptr, b.gen, i, true, false⟩ ∧ t.joins = s.joins ∧
               t.mem = s.mem ∧ ∀ site id, t.alloc site id = s.alloc site id) ∧
             (∀ pw, b.state ≤ 1 → settled = none → ¬lost → a.state = .lit → a.data.wf = true →
               (c.looked s srcs).buffered ((entry.map (fun e => e.2.asid)).getD c.wg.asid) (b.warr + BitVec.ofNat 64 (4 * i)) 4 pw
                 (fun _ => false) →
               let die := homeDie (.hbm pa)
               let taken := (s.joins.filter (fun e => e.2.die == die && deviceOf e.2.at_ == none && !e.2.final)).length
               (entry = none → 256 ≤ taken → exe = .next (s.setSheaf c.k (c.waiting .table))) ∧
               ((entry ≠ none ∨ taken < 256) →
                 ∃ t, exe = .next t ∧
                   let late := b.state = 1
                   let key := (entry.map (fun e => e.1)).getD s.nextKey
                   let m : Member := { index := i, wg := c.sh.wg, dev := none, weight := (wordAt s.mem pw).toNat, jsite := c.wg.site
                                       jid := jid, arrived := false, condemned := late, flagSent := late, gone := false
                                       retracted := late, away := none }
                   on t ⟨key, ptr, b.gen, i, late, false⟩ ∧
                   (∃ j, kget t.joins key = some j ∧ j.members = (entry.map (fun e => e.2.members)).getD [] ++ [m] ∧
                     j.at_ = .hbm pa ∧ j.gen = b.gen ∧ j.final = false) ∧
                   (∀ x, within (pa + 0x54) 4 x = false → t.mem.get x = s.mem.get x) ∧
                   (wordAt t.mem (pa + 0x54)).toNat = (b.ncond + (if late then 1 else 0)) % 2 ^ 32 ∧
                   (∃ y, t.alloc c.wg.site jid = some { a with data := y } ∧ (∀ x, x < 16 * b.nelem → y.get x = 0) ∧
                     ∀ x, 16 * b.nelem ≤ x → y.get x = a.data.get x)))))))) ∧
  (∀ (q : Fin 4) (K : Fin 32) (e ctl : GSrc) (s : State) (c : Ctx), s.ctx = some c → e.port = none → ctl.port = none →
     c.within [(.n K, 4)] = true →
     let contribs : List Instr := [.qcontrib q (.n K) e, .qcontribRow q ctl e]
     let uses (i : Instr) : List GUse := match i with
       | .qcontrib .. => [⟨3, e, 1⟩] | .qcontribRow .. => [⟨2, ctl, 1⟩, ⟨3, e, 1⟩] | _ => []
     let on (i : Instr) : State := s.setSheaf c.k (c.sheafTo s (uses i) (c.sp.pc + 1))
     let unbound : State := s.setSheaf c.k (c.parked s { code := 0x12, opnd := 0 })
     let calmWait := c.sh.pend = none ∨ c.sh.hand ≠ none
     let killPoints := Instr.qarrive q :: .qkpt q :: contribs
     (c.unbound s q = true → c.calm = true → ∀ i ∈ Instr.qwait q :: killPoints, exec i s = .next unbound) ∧
     ((∃ b, c.wg.joins[q.val]? = some (some b) ∧ b.settled = true) →
       (∀ i ∈ killPoints, exec i s = .next (on i)) ∧ (calmWait → exec (.qwait q) s = .next (on (.qwait q)))) ∧
     (c.stale s q = true →
       exec (.qkpt q) s = .next (on (.qkpt q)) ∧ (c.calm = true → ∀ i ∈ Instr.qarrive q :: contribs, exec i s = .next unbound)) ∧
     (c.doomed s q = true → s.onlyJoin c.sh.wg = true → ∀ i ∈ killPoints, ∃ t, exec i s = .next t ∧ Killed s t c.sh.wg) ∧
     (∀ b j m, Bound s c q b j m →
       exec (.qkpt q) s = .next (on (.qkpt q)) ∧
       (calmWait → exec (.qwait q) s = .next (s.setSheaf c.k (c.waiting (.quorum b.join b.gen)))) ∧
       (m.arrived = true → exec (.qarrive q) s = .next (on (.qarrive q)) ∧
         (c.calm = true → ∀ i ∈ contribs, exec i s = .next unbound)) ∧
       (m.arrived = false → 63 ≤ c.sh.stores → ∀ i ∈ Instr.qarrive q :: contribs, exec i s = .next (s.setSheaf c.k (c.stalled 7))) ∧
       (m.arrived = false → c.sh.stores < 63 → ∀ pa, j.at_ = .hbm pa →
         (s.wgReleased c.sh.wg = false → exec (.qarrive q) s = .next (s.setSheaf c.k (c.stalled 2))) ∧
         (s.wgReleased c.sh.wg = true → m.condemned = true → s.onlyJoin c.sh.wg = true →
           ∃ t, exec (.qarrive q) s = .next t ∧ Killed s t c.sh.wg)) ∧
       (m.arrived = false → c.sh.stores < 63 → ∀ dev off, j.at_ = .pod dev off →
         ∃ t a, exec (.qarrive q) s = .next t ∧ t.accs = s.accs ++ [a] ∧ a.kind = .quorum b.join m.index none ∧ a.k = c.k ∧
           t.sheaf c.k = some { c.sheafAt (c.sp.pc + 1) with stores := c.sh.stores + 1 } ∧ t.mem = s.mem ∧ t.joins = s.joins)) ∧
     (∀ b j, calmWait → c.wg.joins[q.val]? = some (some b) → b.settled = false → kget s.joins b.join = some j → j.final = true →
       ∃ t, exec (.qwait q) s = .next t ∧ t.sheaf c.k = some (c.sheafAt (c.sp.pc + 1)) ∧ (t.core c.wg.site).l1 = [] ∧ t.mem = s.mem))

/-- R53, R238, R260: a contribution of a live binding adds the lanes' quads, or the elements of a tile row, to the join's
elements from e on, in `ABUF` and in the journal, exactly; the status bits go to the journal alone. An element at or beyond
`NELEM`, a count or column out of range, or a tile of another anchor faults and adds nothing. -/
def Obligations.ContributionsAreAddedExactly : Prop :=
  ∀ (q : Fin 4) (K : Fin 32) (e ctl : GSrc) (s : State) (c : Ctx) (b : Binding) (j : Join) (m : Member) (a : Alloc) (pa pb : Nat),
    s.ctx = some c → e.port = none → ctl.port = none → Live s c q b j m pa → m.arrived = false → m.condemned = false →
    c.sh.stores < 63 → s.mem.wf = true →
    let bl := s.blockAt pa
    let n := bl.nelem
    let e0 := (gRead s c 1 e).lo.toNat
    let lanes := maskLanes c.sp.mask
    m.away = none → s.alloc m.jsite m.jid = some a → a.wg = m.wg → a.state = .lit → a.data.wf = true →
    (c.within [(.n K, 4)] = true → c.reads s [(.n K, 4)] = true →
      ((∃ l ∈ lanes, n ≤ e0 + l) → c.calm = true →
        exec (.qcontrib q (.n K) e) s = .next (s.setSheaf c.k (c.parked s { code := 0x11, opnd := 3 }))) ∧
      ((∀ l ∈ lanes, e0 + l < n) → (c.looked s [⟨3, e, 1⟩]).buffered j.asid bl.abuf (16 * n) pb (fun _ => false) →
        ∃ t, exec (.qcontrib q (.n K) e) s = .next t ∧ t.sheaf c.k = some (c.sheafTo s [⟨3, e, 1⟩] (c.sp.pc + 1)) ∧
          Contributed s t m pb n (lanes.map (fun l => (e0 + l, A128.ofWords (regsRead s.free c.sh l (.n K) 4)))))) ∧
    (let w := (gRead s c 1 ctl).lo.toNat
     let count := w / 2 ^ 16 % 128
     let c0 := w / 2 ^ 10 % 64
     let row := w / 2 ^ 7 % 8
     let set : Fin 4 := Fin.ofNat 4 (w / 4)
     let th : Fin 4 := Fin.ofNat 4 w
     let tile := s.tile c.sh.wg th set (w / 2 ^ 4 % 8)
     let uses : List GUse := [⟨2, ctl, 1⟩, ⟨3, e, 1⟩]
     let wrong : Option (Nat × Nat) :=
       if w / 2 ^ 23 ≠ 0 then some (0x02, 2)
       else if count = 0 ∨ 64 < c0 + count ∨ lget 0 c.wg.kernel.acc th.val ≤ set.val then some (0x11, 2)
       else if n < e0 + count then some (0x11, 3)
       else if s.tops.any (fun x => x.wg == c.sh.wg && x.t == th && x.set == set) then none
       else if tile.anchor ≠ bl.anchor then some (0x0F, 2)
       else none
     (∀ x, wrong = some x → c.calm = true →
       exec (.qcontribRow q ctl e) s = .next (s.setSheaf c.k (c.parked s { code := x.1, opnd := x.2 }))) ∧
     (wrong = none → s.tops.any (fun x => x.wg == c.sh.wg && x.t == th && x.set == set) = true →
       exec (.qcontribRow q ctl e) s = .next (s.setSheaf c.k (c.stalled 2))) ∧
     (wrong = none → s.tops.all (fun x => x.wg != c.sh.wg || x.t != th || x.set != set) = true →
       (c.looked s uses).buffered j.asid bl.abuf (16 * n) pb (fun _ => false) →
       ∃ t, exec (.qcontribRow q ctl e) s = .next t ∧ t.sheaf c.k = some (c.sheafTo s uses (c.sp.pc + 1)) ∧
         Contributed s t m pb n ((List.range count).map (fun i => (e0 + i, tile.elem row (c0 + i))))))

/-- R238, R239, R294: an arrival of a live binding, once the earlier accesses of every sheaf of its workgroup have performed:
its bit is set in the bitmap, its weight added to `ARRW`, 1 to `NARR`, and its journal's status bits ORed into `ABUF`. Where the
arrivals then meet the quorum the join releases: `STATE` becomes RELEASED, every participant that has not arrived is condemned
and counted in `NCOND`, and its journal is subtracted from `ABUF` exactly, but for that of a participant of a device out of
reach, which is retracted later. -/
def Obligations.ArrivalsReleaseTheJoin : Prop :=
  ∀ (q : Fin 4) (s : State) (c : Ctx) (b : Binding) (j : Join) (m : Member) (pa pb pm : Nat), s.ctx = some c → Live s c q b j m pa →
    m.arrived = false → m.condemned = false → c.sh.stores < 63 → s.wgReleased c.sh.wg = true → s.mem.wf = true →
    s.clearOver (.hbm pa) 256 = true →
    (∀ x, s.context j.part j.asid = some x → x.logLen = 0 ∧ x.logSeq ≠ BitVec.allOnes 64) →
    let bl := s.blockAt pa
    let n := bl.nelem
    let free (x : Nat) : Bool := within pa 256 x || within pb (16 * n) x || within pm 1 x
    s.buffered j.asid bl.abuf (16 * n) pb free → s.buffered j.asid (bl.bmap + BitVec.ofNat 64 (m.index / 8)) 1 pm free →
    apart pa 256 pb (16 * n) → apart pa 256 pm 1 → apart pm 1 pb (16 * n) →
    bl.arrw + m.weight < 2 ^ 64 → bl.narr + 1 < 2 ^ 32 → (j.members.map (fun m => m.index)).Nodup →
    (∀ x ∈ j.members, x.away = none → ∃ a, s.alloc x.jsite x.jid = some a ∧ a.wg = x.wg) →
    let met := !j.released && quorumMet bl (bl.arrw + m.weight) (bl.narr + 1)
    let late := (j.late m.index).filter (fun x => !x.retracted && s.reachable x)
    ∃ t, exec (.qarrive q) s = .next t ∧
      t.sheaf c.k = some (c.sheafAt (c.sp.pc + 1)) ∧
      (∃ j', kget t.joins b.join = some j' ∧ j'.released = (j.released || met) ∧
        j'.members = j.members.map (fun x => let y := if x.index = m.index then { x with arrived := true } else x
          if met then s.afterRelease y else y)) ∧
      (∀ e, e < n →
        statusOf (element t.mem pb e) = statusOf (element s.mem pb e) ||| statusOf (s.journalElem m e) ∧
        valueOf (element t.mem pb e) = valueOf (element s.mem pb e) -
          (if met then ((late.map (fun x => valueOf (s.journalElem x e))).foldl (· + ·) 0) else 0)) ∧
      t.mem.get pm = (s.mem.get pm ||| (1#8 <<< (m.index % 8))) ∧
      (let u := t.blockAt pa
       u.arrw = bl.arrw + m.weight ∧ u.narr = bl.narr + 1 ∧ u.state = (if met then 1 else bl.state) ∧
       u.ncond = (if met then (bl.ncond + (j.late m.index).length) % 2 ^ 32 else bl.ncond)) ∧
      (∀ x, free x = false → t.mem.get x = s.mem.get x)

/-- R242, R261, R294: the finaliser of a released join, once every retraction has been made, writes every destination element
with one rounding, then `STATE` and `GEN`; every sheaf that waits for the join goes on. While a participant to be retracted is
out of reach the join stays as it is. A condemned flag that reaches its participant's core marks the binding there, or the one
that a save has kept. -/
def Obligations.ReleasedJoinsAreFinalised : Prop :=
  (∀ (key : Nat) (s : State) (j : Join) (pa pb pf pd pm : Nat), kget s.joins key = some j → j.released = true → j.final = false →
    j.at_ = .hbm pa → s.plainAt pa = true → s.clearOver (.hbm pa) 256 = true → s.mem.wf = true →
    ((∃ m ∈ j.members, m.condemned = true ∧ m.retracted = false ∧ s.reachable m = false) →
      ∃ t j', exec (.joinFinalise key) s = .next t ∧ kget t.joins key = some j' ∧ j'.final = false) ∧
    ((∀ m ∈ j.members, m.condemned = true → m.retracted = true) →
    let bl := s.blockAt pa
    let n := bl.nelem
    let len := (n * destBits bl.dfmt + 7) / 8
    let free (x : Nat) : Bool := within pa 256 x || within pd len x
    bl.dfmt < 6 →
    s.buffered j.asid bl.abuf (16 * n) pb free → (bl.fill = 1 → s.buffered j.asid bl.fbuf (16 * n) pf free) →
    s.buffered j.asid bl.dest len pd free → s.buffered j.asid bl.bmap ((bl.npart + 7) / 8) pm free → apart pa 256 pd len →
    ∃ t, exec (.joinFinalise key) s = .next t ∧
      t.mem.read pd len = destOf bl (element s.mem pb) (fun e => if bl.fill = 1 then element s.mem pf e else 0) ∧
      (let u := t.blockAt pa
       u.state = 2 ∧ u.gen = bl.gen + 1 ∧ ∀ i, i < 64 → i ≠ 0 → i ≠ 1 → u.w i = bl.w i) ∧
      (∀ x, free x = false → t.mem.get x = s.mem.get x) ∧
      (∃ j', kget t.joins key = some j' ∧ j'.final = true ∧ j'.members = j.members) ∧
      (∀ k sh, s.sheaf k = some sh →
        (∀ g, sh.wait = some (.quorum key g) → t.sheaf k = some (sh.pastWait sh.waiter)) ∧
        (sh.wait = some .table → t.sheaf k = some { sh with wait := none }) ∧
        (sh.wait = none → t.sheaf k = some sh)))) ∧
  (∀ (key index : Nat) (s : State) (j : Join) (m : Member), kget s.joins key = some j →
    j.members.find? (fun m => m.index == index) = some m →
    ((m.condemned = false ∨ m.flagSent = true) → exec (.condemnedFlag key index) s = .next s) ∧
    (m.condemned = true → m.flagSent = false →
      ∃ t, exec (.condemnedFlag key index) s = .next t ∧
        kget t.joins key = some { j with
          members := j.members.map (fun x => if x.index = index then { x with flagSent := true } else x) } ∧
        (∀ w, s.wg m.wg = some w → t.wg m.wg = some { w with joins := flagged key index w.joins }) ∧
        t.grids = s.grids.map (fun g => (g.1, { g.2 with pending := g.2.pending.map (fun p => { p with
          saved := p.saved.map (fun v => if v.key = m.wg then { v with wg := { v.wg with joins := flagged key index v.wg.joins } }
            else v) }) })) ∧
        t.sheaves = s.sheaves ∧ t.mem = s.mem ∧ t.cores = s.cores))

/-- R248, R297: `qbind` binds a free port to the queue that an identifier names in the partition, for pushes or pops; a wrong
identifier is illegal (0x02), one that names nothing outside partition (0x16), a queue that is not OPEN is gone (0x17).
`qunbind` frees the port, and changes nothing of a queue that is DEAD; the rest of a record popped in part is discarded and it
completes, and one pushed in part is completed with zero words. R222 to R225, R249: `qpop.rec` pops the record at head whole:
head moves on, the record completes, and its words are on their way to the registers of the first 16 lanes, which are reserved;
`qpush.rec` pushes a record of the lanes' words with its number in `PSEQ`. Both wait for a whole record or for room, and fault
on a port that is unbound, of the other direction (0x06) or of a queue that is not OPEN (0x17), or through which a record was
moved in part (0x02). -/
def Obligations.PortsMoveWholeRecords : Prop :=
  (∀ (push : Bool) (h : Fin 8) (x : GSrc) (s : State) (c : Ctx), s.ctx = some c → x.port = none →
     let a := (gRead s c 1 x).lo.toNat
     let i : Instr := .qbind push h x
     let found := (c.looked s [⟨2, x, 1⟩]).naming c.wg.part a push
     let named := found.2
     let bad (code opnd : Nat) : Host.Outcome State Fault Refusal := .next (s.setSheaf c.k (c.parked s { code := code, opnd := opnd }))
     (4096 ≤ a → c.calm = true → exec i s = bad 0x02 2) ∧
     (a < 4096 →
       (named = none → c.calm = true → exec i s = bad 0x16 2) ∧
       (∀ q, named = some q →
         ((∀ y, kget s.queues q = some y → y.state ≠ .opened) → c.calm = true → exec i s = bad 0x17 2) ∧
         (∀ y, kget s.queues q = some y → y.state = .opened →
           (c.port s h ≠ none → c.calm = true → exec i s = bad 0x02 1) ∧
           (c.port s h = none → exec i s = .next (found.1.modSheaf c.k (fun sh => { sh with
             ports := lset sh.ports h.val (some ⟨q, y.inc, push, 0, 0⟩)
             ctl := { sh.ctl with splits := lset sh.ctl.splits c.j (c.sp.at (c.sp.pc + 1)) } })))))) ∧
     (∀ p q, c.port s h = some (p, q) →
       ((p.push = true ∧ p.words = 0 ∨ p.push = false ∧ popsRest p q = false ∨ q.state = .dead) →
         exec (.qunbind h) s = .next (s.setSheaf c.k (c.withPort s [] h none))) ∧
       (p.push = false → popsRest p q = true → q.state ≠ .dead →
         exec (.qunbind h) s = .next ((s.setSheaf c.k (c.withPort s [] h none)).setQueue p.q
           ({ q with popped := 0, head := q.head + 1 }.complete q.head))) ∧
       (∀ base, p.push = true → q.state ≠ .dead → 1 ≤ p.words → p.words ≤ 15 → q.ring = .hbm base → p.slot < 2 ^ 32 →
         let at_ := recordAt base q.log2 (BitVec.ofNat 32 p.slot)
         (∀ n, n < 64 → s.plainAt (at_ + n) = true) →
         ∃ held, exec (.qunbind h) s = .next ({ (s.setSheaf c.k (c.withPort s [] h none)).setQueue p.q
             { q with taken := q.taken.filter (fun t => t.1 != BitVec.ofNat 32 p.slot) } with
           mem := s.mem.write (at_ + 4 * p.words) (List.replicate (64 - 4 * p.words) 0), appHeld := held }))) ∧
     (c.sh.ports[h.val]? = some none → exec (.qunbind h) s = .next (s.setSheaf c.k (c.withPort s [] h none)))) ∧
  (∀ (K : Fin 32) (h : Fin 8) (s : State) (c : Ctx), s.ctx = some c →
     let pop : Instr := .qpopRec (.n K) h
     let push : Instr := .qpushRec (.n K) h
     let bad (code opnd : Nat) : Host.Outcome State Fault Refusal := .next (s.setSheaf c.k (c.parked s { code := code, opnd := opnd }))
     let waits (q : Nat) (push : Bool) (n : Nat) : Host.Outcome State Fault Refusal :=
       .next (s.setSheaf c.k (c.portStalled s [⟨q, push, n⟩]))
     (∀ code, recordFault c K = some code → c.calm = true → exec pop s = bad code 1 ∧ exec push s = bad code 2) ∧
     (recordFault c K = none →
       (c.port s h = none → c.calm = true → exec pop s = bad 0x06 2 ∧ exec push s = bad 0x06 3) ∧
       (∀ p q, c.port s h = some (p, q) →
         (p.push = true → c.calm = true → exec pop s = bad 0x06 2) ∧ (p.push = false → c.calm = true → exec push s = bad 0x06 3) ∧
         (q.state ≠ .opened → c.calm = true → (p.push = false → exec pop s = bad 0x17 2) ∧ (p.push = true → exec push s = bad 0x17 3)) ∧
         (q.state = .opened → p.push = false →
           (popsRest p q = true → c.calm = true → exec pop s = bad 0x02 2) ∧
           (popsRest p q = false →
             (63 ≤ c.sh.loads → exec pop s = .next (s.setSheaf c.k (c.stalled 7))) ∧
             (c.sh.loads < 63 → standsWhole q = false → exec pop s = waits p.q false 16) ∧
             (c.sh.loads < 63 → standsWhole q = true → c.recordLanes = [] →
               (∀ x, s.context c.wg.part c.wg.asid = some x → x.logLen = 0 ∧ x.logSeq ≠ BitVec.allOnes 64) →
               exec pop s = .next ((s.setSheaf c.k (c.sheafAt (c.sp.pc + 1))).setQueue p.q
                 ({ q with head := q.head + 1 }.complete q.head))) ∧
             (c.sh.loads < 63 → standsWhole q = true → c.recordLanes ≠ [] →
               (∀ x, s.context c.wg.part c.wg.asid = some x → x.logLen = 0 ∧ x.logSeq ≠ BitVec.allOnes 64) →
               ∃ t, exec pop s = .next t ∧ t.mem = s.mem ∧
                 t.sheaf c.k = some { c.sheafAt (c.sp.pc + 1) with
                   loads := c.sh.loads + 1
                   lanes := mapIdxFrom (fun l ln => if c.sp.mask.getLsbD l && decide (l < 16) then
                     { ln with n := lsets ln.n K.val ((List.range (headWords s c q l).length).map (fun i => ⟨0, true, some ⟨s.nextKey, i, false⟩⟩)) }
                     else ln) 0 c.sh.lanes } ∧
                 t.queues = kset s.queues p.q ({ q with head := q.head + 1 }.complete q.head) ∧
                 ∃ new, t.accs = s.accs ++ new ∧ new.map (fun a => (a.lane, a.data)) =
                     c.recordLanes.map (fun l => (l, (headWords s c q l).flatMap (fun w => leBytes 4 w.toNat))) ∧
                   ∀ a ∈ new, a.op = s.nextKey ∧ a.k = c.k ∧ a.kind = .word ∧ a.stage = .issued))) ∧
         (q.state = .opened → p.push = true →
           (p.words ≠ 0 → c.calm = true → exec push s = bad 0x02 3) ∧
           (p.words = 0 →
             (pushesDead s c K = true → c.calm = true → exec push s = bad 0x03 2) ∧
             (pushesDead s c K = false →
               (63 ≤ c.sh.stores → exec push s = .next (s.setSheaf c.k (c.stalled 7))) ∧
               (c.sh.stores < 63 → q.free = 0 → exec push s = waits p.q true 1) ∧
               (c.sh.stores < 63 → q.free ≠ 0 → s.commandQueue p.q = true → s.drainedFor c.k false = false →
                 exec push s = .next (s.setSheaf c.k (c.stalled 2))) ∧
               (∀ base, c.sh.stores < 63 → q.free ≠ 0 → (s.commandQueue p.q = false ∨ s.drainedFor c.k false = true) →
                 q.ring = .hbm base → (∀ n, n < 64 → s.plainAt (recordAt base q.log2 q.tail + n) = true) →
                 (c.sh.width = 8 ∨ 16 ≤ c.sh.width) →
                 ∃ held, exec push s = .next { (s.setSheaf c.k (c.sheafAt (c.sp.pc + 1))).setQueue p.q { q with tail := q.tail + 1 } with
                   mem := s.mem.write (recordAt base q.log2 q.tail) (recordBytesOf q.tail ((List.range 16).map (pushedWord s c K))), appHeld := held })))))))

/-- R221, R224, R227, R295, R297, R298: the life of a queue. Creation in the partition's share gives an OPEN queue without
records; a destroy, or the removal of the last host entry that names it, makes it DRAINING, and DEAD once every started record
has completed; a reset opens a queue in ERROR again, past its bad record. A feed and a push window append records at the tail,
all or nothing, and say whether they were appended (0), found no room (1) or no queue (2). -/
def Obligations.QueuesLiveAndDie : Prop :=
  (∀ (n : Nat) (ring : Place) (log2 : Nat) (part : Fin 16) (owner : Fin 8) (dispatch : Bool) (map : List (BitVec 12 × Word)) (s : State),
    let p := s.part part.val
    (kget s.queues n = none ∨ ∃ q, kget s.queues n = some q ∧ q.state = .dead) → 4 ≤ log2 → log2 ≤ 16 →
    s.ringOk ring part (64 * 2 ^ log2) = true →
    p.qBase ≤ n → n < p.qBase + p.qCount → n < 4096 →
    ∃ q l, exec (.queueCreate n ring log2 part owner ⟨dispatch, map⟩) s =
        .next ({ s.setPart part.val { p with stage2 := l } with nextKey := s.nextKey + 1 }.setQueue n q) ∧
      (∀ j, entryAt l j = ((map.reverse.find? (fun e => e.1.toNat == j)).map (fun e => e.2)).getD (entryAt p.stage2 j)) ∧
      q.ring = ring ∧ q.inc = s.nextKey ∧ q.log2 = log2 ∧ q.part = part ∧ q.owner = owner ∧ q.dispatch = dispatch ∧ q.state = .opened ∧
      q.head = 0 ∧ q.tail = 0 ∧ q.floor = 0 ∧ q.free = 2 ^ log2) ∧
  (∀ (n : Nat) (s : State) (q : Queue), kget s.queues n = some q →
    (q.state = .opened → q.bad = [] → exec (.queueDestroy n) s = .next (s.setQueue n { q with state := .draining })) ∧
    (∀ i, q.state = .error → q.bad = [i] →
      exec (.queueDestroy n) s = .next (s.setQueue n { { q with bad := [] }.complete i with state := .draining }) ∧
      exec (.queueReset n) s = .next (s.setQueue n { { q with bad := [] }.complete i with state := .opened })) ∧
    (q.state = .draining → exec (.queueDead n) s =
      .next (s.setQueue n (if q.floor = q.head ∧ q.popped = 0 then { q with state := .dead } else q)))) ∧
  (∀ (part : Fin 16) (id : BitVec 12) (s : State),
    let p := s.part part.val
    let e := entryAt p.stage2 id.toNat
    let n := e.toNat % 4096
    let rest : State := s.setPart part.val { p with stage2 := p.stage2.filter (fun x => x.1 != id) }
    let named := rest.parts.any (fun p => p.2.stage2.any (fun x => x.2.getLsbD 12 && x.2.toNat % 4096 == n))
    e.getLsbD 12 = true →
      (named = true → exec (.queueUnmap part id) s = .next rest) ∧
      (∀ q, named = false → kget s.queues n = some q → q.state = .opened → q.bad = [] →
        exec (.queueUnmap part id) s = .next (rest.setQueue n { q with state := .draining }))) ∧
  (∀ (part : Fin 16) (id : BitVec 12) (rs : List (List Word)) (s : State), s.firmware.hold = false →
    let found := s.naming part id.toNat true
    let u := found.1
    let status (n : Nat) (t : State) : State := t.setPart part.val { t.part part.val with feed := n }
    (found.2 = none → exec (.feed part id rs) s = .next (status 2 u)) ∧
    (∀ n q, found.2 = some n → kget u.queues n = some q →
      (q.state ≠ .opened → exec (.feed part id rs) s = .next (status 2 u)) ∧
      (q.state = .opened → q.free < rs.length → exec (.feed part id rs) s = .next (status 1 u)) ∧
      (∀ base, q.state = .opened → rs.length ≤ q.free → rs ≠ [] → q.ring = .hbm base →
        (∀ a, base ≤ a → a < base + 2 ^ q.log2 * 64 → u.plainAt a = true) →
        ∃ held, exec (.feed part id rs) s = .next (status 0
          { u.setQueue n { q with tail := q.tail + BitVec.ofNat 32 rs.length } with
            mem := appended u.mem base q.log2 q.tail rs, appHeld := held })))) ∧
  (∀ (app : Fin 16) (n : Nat) (s : State) (w : Window) (q : Queue), s.windows.find? (fun w => w.app == app && w.q == n) = some w →
    kget s.queues n = some q →
    let res (r : BitVec 2) (t : State) : State :=
      { t with windows := s.windows.map (fun x => if x.app = app ∧ x.q = n then { x with res := r } else x) }
    (q.state ≠ .opened → exec (.pushWindowBell app n) s = .next (res 2 s)) ∧
    (q.state = .opened → q.free = 0 → exec (.pushWindowBell app n) s = .next (res 1 s)) ∧
    (∀ base, q.state = .opened → q.free ≠ 0 → q.ring = .hbm base → (∀ a, base ≤ a → a < base + 2 ^ q.log2 * 64 → s.plainAt a = true) →
      ∃ held, exec (.pushWindowBell app n) s = .next (res 0 { s.setQueue n { q with tail := q.tail + 1 } with
        mem := s.mem.write (recordAt base q.log2 q.tail) (recordBytesOf q.tail (leWords w.stage)), appHeld := held })))

/-- R223, R224, R226, R229: a distributor pops the record at the head of a dispatch queue. A task record spawns its TCB with
depth 0 and stage 0; a launch record starts a grid once its descriptor and arguments are read. A reserved kind, a field out of
range, a descriptor or a TCB that cannot be used puts the queue in ERROR; a kernel that fits no empty core places nothing,
POISONs `DONEF` with footprint unplaceable (0x15), and the record completes. -/
def Obligations.RecordsAreDispatched : Prop :=
  ∀ (n : Nat) (s : State) (q : Queue), kget s.queues n = some q → q.dispatch = true → q.state = .opened → standsWhole q = true →
    s.mem.wf = true →
    let ws := s.headRecord q
    let kind := wordNo ws 0 % 2 ^ 8
    let asid := (s.part q.part.val).asid
    let part := q.part.val
    let x := s.part part
    let refused := s.setQueue n q.refused
    let ptr := pairNo ws 2
    ((kind ≠ 1 ∧ kind ≠ 2 ∨ wordNo ws 0 / 2 ^ 8 % 2 ^ 8 ≠ 0) →
      exec (.taskRecordPop n) s = .next refused ∧ exec (.launchRecordPop n) s = .next refused) ∧
    (wordNo ws 0 / 2 ^ 8 % 2 ^ 8 = 0 → kind = 1 →
      exec (.launchRecordPop n) s = .next s ∧
      ((ws.drop 4).any (· != 0) = true → exec (.taskRecordPop n) s = .next refused) ∧
      ((ws.drop 4).any (· != 0) = false → ptr.toNat % 64 ≠ 0 → exec (.taskRecordPop n) s = .next refused) ∧
      (∀ pa, (ws.drop 4).any (· != 0) = false → ptr.toNat % 64 = 0 → s.buffered asid ptr 64 pa (fun _ => false) →
        let v := tcbAt s.mem pa
        (v.spawnFault 0 ≠ none → exec (.taskRecordPop n) s = .next refused) ∧
        (v.spawnFault 0 = none → ∃ t, exec (.taskRecordPop n) s = .next t ∧ t.queues = kset s.queues n q.started ∧
          (let task : ReadyTask := ⟨(shortAddr ptr).va, asid, 0, 0, .hbm pa, some ⟨n, q.head, q.inc⟩⟩
           t.parts = kset s.parts part (if v.dep = 0 then x.ready v.prio task else { x with waiting := x.waiting ++ [task] })) ∧
          sameBytes t.mem ((s.mem.write (pa + 0x08) (leBytes 4 (v.withDepth 0).toNat)).write (pa + 0x18)
            (leBytes 4 (v.withState (if v.dep = 0 then 2 else 1)).toNat))))) ∧
    (wordNo ws 0 / 2 ^ 8 % 2 ^ 8 = 0 → kind = 2 →
      exec (.taskRecordPop n) s = .next s ∧
      (launchFits ws = false → exec (.launchRecordPop n) s = .next refused) ∧
      (∀ bytes, launchFits ws = true → bytes.length = 576 → s.reads asid ptr bytes →
        let kernel := Kernel.ofWords (leWords bytes) (wordNo ws 4 / 2 ^ 24 % 16)
        (kernel = none → exec (.launchRecordPop n) s = .next refused) ∧
        (∀ kr, kernel = some kr → kr.placeable = false →
          (pairNo ws 8 = 0 → exec (.launchRecordPop n) s = .next (s.setQueue n (q.started.complete q.head))) ∧
          (∀ pf, pairNo ws 8 ≠ 0 → (pairNo ws 8).toNat % 8 = 0 → (∀ a, (shortAddr (pairNo ws 8)) ≠ .aperture a) →
            s.buffered asid (pairNo ws 8) 8 pf (fun _ => false) → s.mem.dword pf = 0 →
            (∀ u, SameView s u (fun _ => false) → u.hwShort asid .wr true (pairNo ws 8) 8 = (u, .ok [(.hbm pf, 8)])) →
            ∃ t, exec (.launchRecordPop n) s = .next t ∧ t.queues = kset s.queues n (q.started.complete q.head) ∧
              t.grids = s.grids ∧ t.mem = s.mem.write pf (leBytes 8 (0x15 * 4 + 2)))) ∧
        (∀ kr args, kernel = some kr → kr.placeable = true → args.length = wordNo ws 5 → s.reads asid (pairNo ws 6) args →
          ∃ t g, exec (.launchRecordPop n) s = .next t ∧ t.queues = kset s.queues n q.started ∧ t.mem = s.mem ∧
            t.grids = s.grids ++ [(s.nextKey, g)] ∧ g.part = q.part ∧ g.asid = asid ∧ g.kernel = kr ∧
            g.gangs = wordNo ws 4 % 2 ^ 16 ∧ g.m = wordNo ws 4 / 2 ^ 16 % 16 + 1 ∧ g.k = wordNo ws 4 / 2 ^ 20 % 16 + 1 ∧
            g.stages = wordNo ws 4 / 2 ^ 24 % 16 + 1 ∧ g.alen = wordNo ws 5 ∧ g.args = pairNo ws 6 ∧ g.donef = pairNo ws 8 ∧
            g.record = some ⟨n, q.head, q.inc⟩ ∧ g.left = g.stages * g.gangs ∧
            g.pending.map (fun p => (p.stage, p.gangNo)) =
              (List.range g.stages).flatMap (fun st => (List.range g.gangs).map (fun i => (st, i))))))

/-- R142, R223, R230, R232, R233, R284: a task whose sheaf has ended with no fault completes: its `STATE` is DONE, then each
successor that can be used loses a dependence, in array order; those that reach none become READY, and enter their FIFOs in
ascending address; its record completes and its stack area returns to the pool. `taskCompletion` answers so for every such task,
and does nothing for a workgroup that goes on, has been killed or is no task. A task that is aborted starts again, and
`taskRequeue` answers so for every one whose copies and tile operations are over: its allocations are freed, `RSTRT` rises by
one, and it is READY at the tail of its FIFO. Either way its workgroup is gone. -/
def Obligations.TasksCompleteOrStartAgain : Prop :=
  (∀ (wg : Nat) (s : State) (w : Workgroup), s.wg wg = some w → (w.ended = false ∨ w.killed = true ∨ w.task = none) →
    exec (.taskCompletion wg) s = .next s) ∧
  (∀ (wg : Nat) (s : State) (w : Workgroup) (task : Task) (pt arr : Nat) (succ : List (DWord × Nat)), s.wg wg = some w →
    (s.wgs.map (fun p => p.1)).Nodup →
    w.task = some task → w.ended = true → w.killed = false → task.at_ = .hbm pt → s.plainAt pt = true → s.mem.wf = true →
    (∀ g, kget s.gangs w.gang = some g → g.members = [wg] ∧ ∀ y, kget s.grids g.grid = some y → y.donef = 0 ∧ y.record = none) →
    (kget s.gangs w.gang).isSome = true →
    s.clearOver (.hbm pt) 64 = true →
    let v := tcbAt s.mem pt
    let part := w.part.val
    let free (x : Nat) : Bool := within pt 64 x || succ.any (fun y => within y.2 64 x)
    succ.length = v.st.toNat % 2 ^ 16 →
    (∀ i y, succ[i]? = some y → y.1.toNat % 64 = 0 ∧
      s.buffered w.asid (s.mem.dword (pt + 0x10) + BitVec.ofNat 64 (8 * i)) 8 (arr + 8 * i) free ∧ s.mem.dword (arr + 8 * i) = y.1 ∧
      (∀ b, b < 8 → free (arr + 8 * i + b) = false) ∧ s.buffered w.asid y.1 64 y.2 free ∧ (y.2 = pt ∨ apart y.2 64 pt 64) ∧
      (∀ (j : Nat) (z : DWord × Nat), succ[j]? = some z → z.2 = y.2 ∨ apart z.2 64 y.2 64)) →
    (s.parts.map (fun p => p.1)).Nodup →
    (∀ y ∈ succ, (∃ u ∈ (s.part part).waiting, u.at_ = .hbm y.2) ∨ (tcbAt s.mem y.2).state ≠ 1) →
    (∀ p ∈ s.parts, p.1 ≠ part → ∀ u ∈ p.2.waiting, ∀ y ∈ succ, u.at_ ≠ .hbm y.2) →
    let done : Lowering := ⟨s.mem.write (pt + 0x18) (leBytes 4 (v.withState 4).toNat), (s.part part).waiting, []⟩
    let after := (succ.map (fun y => y.2)).foldl Lowering.lower done
    ∃ t, exec (.taskCompletion wg) s = .next t ∧ sameBytes t.mem after.mem ∧
      t.part part = { s.part part with
        waiting := after.waiting, fifos := (t.part part).fifos, stackPool := task.stack :: (s.part part).stackPool } ∧
      Entered (s.part part).fifos (t.part part).fifos after.ready ∧
      t.queues = finishRecord s.queues task.record ∧ t.wg wg = none ∧ kget t.gangs w.gang = none) ∧
  (∀ (wg k : Nat) (s : State) (w : Workgroup) (sh : Sheaf) (task : Task), s.wg wg = some w → w.task = some task →
    s.sheavesOf wg = [(k, sh)] →
    ((sh.restarting = false ∧ task.aborted = false) ∨ w.ended = true ∨ s.copies.any (fun x => x.k == k) = true ∨
      s.tops.any (fun x => x.k == k) = true) →
    exec (.taskRequeue wg) s = .next s) ∧
  (∀ (wg k : Nat) (s : State) (w : Workgroup) (sh : Sheaf) (task : Task) (pt : Nat) (core : Core), s.wg wg = some w →
    w.task = some task → w.ended = false → s.sheavesOf wg = [(k, sh)] → (sh.restarting = true ∨ task.aborted = true) →
    s.copies.all (fun x => x.k != k) = true → s.tops.all (fun x => x.k != k) = true → (∀ p ∈ sh.ports, p = none) →
    (∀ a ∈ s.accs, a.k = k ∧ a.stage ≠ .path) → task.at_ = .hbm pt → s.plainAt pt = true → s.mem.wf = true → s.joins = [] →
    kget s.cores w.site = some core → (core.allocs.map (fun a => a.id)).Nodup → (∀ a ∈ core.allocs, a.wg ≠ wg → a.handSheaf ≠ some k) →
    let v := tcbAt s.mem pt
    let x := s.part w.part.val
    ∃ t, exec (.taskRequeue wg) s = .next t ∧ t.wg wg = none ∧ t.sheaf k = none ∧ t.accs = [] ∧
      (t.core w.site).allocs = core.allocs.filter (fun a => a.wg != wg) ∧
      sameBytes t.mem ((s.mem.write (pt + 0x1C) (leBytes 4 ((wordAt s.mem (pt + 0x1C)).toNat + 1))).write (pt + 0x18)
        (leBytes 4 (v.withState 2).toNat)) ∧
      t.part w.part.val = { x with stackPool := task.stack :: x.stackPool }.ready v.prio
        ⟨task.tcb, w.asid, task.depth, w.stage, .hbm pt, task.record⟩)

/-- R91, R100, R109, R133, R226, R278, R280: a sheaf without entries ends once nothing of it is outstanding, and nothing else
changes while others of its workgroup go on. With the last, its workgroup ends: the allocations and tiles are released. With the
last workgroup its gang ends, and with the last gang the grid: its `DONEF` future is written FULL with 0 and the launch record
completes. Once what ended in that cycle is released, placement is retried. A workgroup whose sheaves have all been saved leaves
its core, and its gang stands in the pending list ahead of those not yet started. Placement puts the gang at the head of a
grid's pending list on a core where it fits, each sheaf as a launch leaves it; where the head fits nowhere, nothing is placed. -/
def Obligations.GangsArePlacedAndEnd : Prop :=
  (∀ (k : Nat) (s : State) (sh : Sheaf) (w : Workgroup), s.sheaf k = some sh → s.wg sh.wg = some w → s.mayEnd k sh = true →
    (∀ p ∈ s.sheaves, p.1 ≠ k → s.mayEnd p.1 p.2 = false) → (∀ p ∈ sh.ports, p = none) → (∀ l ∈ w.leases, l ≠ some k) →
    let others := s.sheaves.filter (fun p => p.2.wg == sh.wg && p.1 != k)
    (others.any (fun p => !p.2.ended) = true → exec (.sheafEnd k) s = .next (s.setSheaf k sh.over)) ∧
    (others.all (fun p => p.2.ended) = true → w.ended = false → w.task = none → s.joins = [] → (s.sheaves.map (fun p => p.1)).Nodup →
      (s.wgs.map (fun p => p.1)).Nodup →
      (∀ g, kget s.gangs w.gang = some g → ∃ m ∈ g.members, m ≠ sh.wg ∧ ∃ y, s.wg m = some y ∧ y.ended = false) →
      ∃ u : State, exec (.sheafEnd k) s = .next u.retryAll ∧ u.sheaf k = some sh.over ∧
        u.wg sh.wg = some { w with ended := true, binds := [], leases := [none, none, none, none] } ∧
        (∀ a ∈ (u.core w.site).allocs, a.wg ≠ sh.wg) ∧ (∀ x ∈ u.tiles, x.wg ≠ sh.wg)) ∧
    (∀ g grid, others.all (fun p => p.2.ended) = true → w.ended = false → w.task = none → s.joins = [] → s.accs = [] →
      (s.sheaves.map (fun p => p.1)).Nodup → (s.wgs.map (fun p => p.1)).Nodup → kget s.gangs w.gang = some g → sh.wg ∈ g.members →
      (∀ m ∈ g.members, m ≠ sh.wg → ∃ y, s.wg m = some y ∧ y.ended = true ∧ y.task = none) → kget s.grids g.grid = some grid →
      ∃ u : State, exec (.sheafEnd k) s = .next u.retryAll ∧ kget u.gangs w.gang = none ∧ (∀ p ∈ u.sheaves, p.2.wg ∉ g.members) ∧
        (grid.left ≠ 1 → 1 ≤ grid.left → kget u.grids g.grid = some { grid with left := grid.left - 1 } ∧ u.mem = s.mem) ∧
        (grid.left = 1 → kget u.grids g.grid = none ∧
          (grid.donef = 0 → (∀ q ∈ s.queues, ∀ a b c, q.2.ring ≠ .gran a b c) → u.queues = finishRecord s.queues grid.record ∧ u.mem = s.mem) ∧
          (∀ pf, grid.donef ≠ 0 → grid.donef.toNat % 8 = 0 → (∀ x, SameView s x (fun _ => false) →
              x.hwShort grid.asid .wr true grid.donef 8 = (x, .ok [(.hbm pf, 8)])) → s.plainAt pf = true → s.mem.dword pf = 0 →
            (∀ q ∈ s.queues, ∀ a b c, q.2.ring ≠ .gran a b c) →
            u.queues = finishRecord s.queues grid.record ∧ u.mem = s.mem.write pf (leBytes 8 1))))) ∧
  (∀ (k : Nat) (s : State) (sh : Sheaf) (w : Workgroup), s.sheaf k = some sh → s.wg sh.wg = some w → sh.saving = .saved →
    let rests (p : Nat × Sheaf) : Bool := p.2.ended || (p.2.saving == .saved && s.quiet p.1 p.2)
    ((∃ p ∈ s.sheaves, p.2.wg = sh.wg ∧ rests p = false) → exec (.sheafEnd k) s = .next s) ∧
    (∀ g grid, (∀ p ∈ s.sheaves, p.2.wg = sh.wg → rests p = true) → w.away = false → kget s.gangs w.gang = some g →
      g.members = [sh.wg] → kget s.grids g.grid = some grid →
      ∃ (u : State) (p : PendingGang) (v : SavedWg), exec (.sheafEnd k) s = .next u.retryAll ∧ kget u.gangs w.gang = none ∧ (∀ q ∈ u.sheaves, q.2.wg ≠ sh.wg) ∧
        (∀ a ∈ (u.core w.site).allocs, a.wg = sh.wg → a.journal = true) ∧
        (let mine := s.sheaves.filter (fun q => q.2.wg == sh.wg)
         p.stage = w.stage ∧ p.gangNo = w.gangNo ∧ p.ages = mine.map (fun q => q.2.age) ∧ p.barGen = g.barGen ∧ p.kept = g.kept ∧
         p.saved = [v] ∧ v.key = sh.wg ∧ v.sheaves.map (fun q => q.1) = mine.map (fun q => q.1)) ∧
        (let list := grid.pending.filter (fun p => !p.ages.isEmpty) ++ [p] ++ grid.pending.filter (fun p => p.ages.isEmpty)
         kget u.grids g.grid = some { grid with pending := list }))) ∧
  (∀ (part : Fin 16) (s : State) (key : Nat) (g : Grid) (stage no site : Nat) (rest : List PendingGang),
    s.grids.filter (fun x => x.2.part == part) = [(key, g)] → kget s.grids key = some g →
    g.pending = ⟨stage, no, [], [], [], 0, false⟩ :: rest → rest.all (fun p => p.waits) = true → g.m = 1 →
    (s.part part.val).cores = [site] → site < 416 → (s.part part.val).fifos.all (fun l => l.isEmpty) = true →
    (∀ x, s.context part g.asid = some x → x.logLen = 0 ∧ x.logSeq ≠ BitVec.allOnes 64) → (∀ p ∈ s.sheaves, p.1 < s.nextKey) → (∀ p ∈ s.wgs, p.1 < s.nextKey) →
    (((s.core site).noPlace = true ∨ (s.core site).retired = true) → exec (.workgroupPlacement part) s = .next s) ∧
    (fitsEmpty s site g.k g.kernel = true → ∃ t wkey new w, exec (.workgroupPlacement part) s = .next t ∧
      t.wgs = s.wgs ++ [(wkey, w)] ∧ w.site = site ∧ w.stage = stage ∧ w.gangNo = no ∧ w.idx = 0 ∧ w.kernel = g.kernel ∧
      (∀ b ∈ w.breg, b = 0) ∧ (∀ l ∈ w.leases, l = none) ∧
      t.sheaves = s.sheaves ++ new ∧ new.length = g.k ∧
      (∀ (i : Nat) (p : Nat × Sheaf), new[i]? = some p → Fresh p.2 g.kernel wkey i site (g.args.setWidth 80) g.alen) ∧
      ((t.core site).allocs.map (fun a => (a.wg, a.size, a.rank, a.state))) =
        g.kernel.allocs.map (fun a => (wkey, granulesOf a.size, a.rank, AllocState.lit)) ∧
      kget t.grids key = some { g with pending := rest } ∧ t.mem = s.mem))

/-- R158, R276, R281, R305: an uncorrectable error, in a granule of an allocation or in HBM that a sheaf has read. The workgroup
it meets is killed where its kernel is not idempotent; the whole gang of an idempotent one is taken off its cores and stands in
its grid's pending list, ahead of the gangs not yet started, with its coordinates and ages, to start afresh; a task is aborted.
One in no allocation does nothing; one in HBM is reported with its frame. -/
def Obligations.UncorrectableErrorsKillOrRelaunch : Prop :=
  (∀ (site : Nat) (id : BitVec 16) (s : State), s.alloc site id = none → exec (.granuleUncorrectable site id) s = .next s) ∧
  (∀ (i : Instr) (s : State) (wg : Nat) (w : Workgroup),
    ((∃ site id a, i = .granuleUncorrectable site id ∧ s.alloc site id = some a ∧ a.wg = wg) ∨
      ∃ k f sh, i = .hbmUncorrectable k f ∧ s.sheaf k = some sh ∧ sh.wg = wg) →
    s.wg wg = some w → w.ended = false →
    (∀ k f, i = .hbmUncorrectable k f → ∃ t, exec i s = .next t ∧ t.reports = s.reports ++ [f.toNat]) ∧
    (w.task = none → w.kernel.idemp = false → ∃ t, exec i s = .next t ∧ Killed s t wg) ∧
    (∀ task, w.task = some task → ∃ t, exec i s = .next t ∧ t.wg wg = some { w with task := some { task with aborted := true } } ∧
      (∀ k sh, s.sheaf k = some sh → if sh.wg = wg then ∃ sh', t.sheaf k = some sh' ∧ sh'.restarting = true ∧ sh'.pend = none ∧ sh'.hand = none
        else t.sheaf k = some sh) ∧ t.mem = s.mem) ∧
    (∀ g grid first, w.task = none → w.kernel.idemp = true → kget s.gangs w.gang = some g → kget s.grids g.grid = some grid →
      g.members.head? = some first → (s.wg first).map (fun y => (y.stage, y.gangNo)) = some (w.stage, w.gangNo) →
      (∀ m ∈ g.members, ∃ y, s.wg m = some y) →
      ∃ t kept, exec i s = .next t ∧ kget t.gangs w.gang = none ∧
        (∀ p ∈ t.sheaves, p.2.wg ∉ g.members) ∧ (∀ c ∈ t.copies, c.wg ∈ g.members → c.discard = true) ∧
        (∀ x ∈ t.tops, x.wg ∉ g.members) ∧
        (let ages := (s.sheaves.filter (fun p => g.members.contains p.2.wg)).map (fun p => p.2.age)
         let again : PendingGang := ⟨w.stage, w.gangNo, ages, [], kept, 0, false⟩
         let list := grid.pending.filter (fun p => !p.ages.isEmpty) ++ [again] ++ grid.pending.filter (fun p => p.ages.isEmpty)
         kget t.grids g.grid = some { grid with pending := list })))

/-- R307, R308: the four Xirbcp instructions of a firmware core. `bfe` extracts a bit field; `sigw` waits while its signal word
is zero, else takes and clears it; `ringf` reads a word of a ring; `disp` appends records to a queue that the processor owns,
all or none, and says whether it did (0), found no room (1) or a queue that is not OPEN (2); it waits during a hand-over (R314).
Each fault of R308, in its order, writes no register and changes no memory. -/
def Obligations.FirmwareInstructionsExecute : Prop :=
  ∀ (s : State) (p : Nat) (rd rs1 rs2 : Fin 32), s.cur = .fw p →
    let c := s.fw p
    let a := c.val rs1
    let b := c.val rs2
    let fault (i : Instr) (code : Nat) : Prop := ∃ d, exec i s = .next (s.setFw p d) ∧ FwFault c d code
    let gives (i : Instr) (v : Word) : Prop := exec i s = .next (s.setFw p (c.wrote rd v))
    (let i : Instr := .bfe rd rs1 rs2
     let pos := b.toNat % 32
     let len := b.toNat / 32 % 32 + 1
     ((2 ^ 11 ≤ b.toNat ∨ 32 < pos + len) → fault i 0x03) ∧
     (b.toNat < 2 ^ 11 → pos + len ≤ 32 → ∃ v, gives i v ∧
       ∀ n, n < 32 → v.getLsbD n = if n < len then a.getLsbD (pos + n) else b.getLsbD 10 && a.getLsbD (pos + len - 1))) ∧
    (let i : Instr := .sigw rd rs1
     let v := lget 0 c.signals a.toNat
     (64 ≤ a.toNat → fault i 0x04) ∧ (a.toNat < 64 → v = 0 → exec i s = .next s) ∧
     (a.toNat < 64 → v ≠ 0 → exec i s = .next (s.setFw p { c.wrote rd v with signals := lset c.signals a.toNat 0 }))) ∧
    (let i : Instr := .ringf rd rs1 rs2
     let n := (c.wordAt (a + 4)).toNat % 32
     let head := (c.wordAt (a + 8)).toNat
     let held := (c.wordAt (a + 12) - c.wordAt (a + 8)).toNat
     let at_ := c.wordAt a + BitVec.ofNat 32 ((64 * head + b.toNat) % (64 * 2 ^ n))
     ((a.toNat % 16 ≠ 0 ∨ b.toNat % 4 ≠ 0) → fault i 0x02) ∧
     (a.toNat % 16 = 0 → b.toNat % 4 = 0 →
       (c.unreadable a.toNat 16 → fault i 0x06) ∧
       (c.canRead a.toNat 16 →
         ((n < 4 ∨ 16 < n ∨ 64 * held ≤ b.toNat) → fault i 0x01) ∧
         (4 ≤ n → n ≤ 16 → b.toNat < 64 * held →
           (c.unreadable at_.toNat 4 → fault i 0x06) ∧ (c.canRead at_.toNat 4 → gives i (c.wordAt at_)))))) ∧
    (let i : Instr := .disp rd rs1 rs2
     let k := a.toNat % 2 ^ 12
     let n := a.toNat / 2 ^ 12 % 2 ^ 16 + 1
     let rs := (List.range n).map (fun r => leWords (c.mem.read (b.toNat + 64 * r) 64))
     ((2 ^ 28 ≤ a.toNat ∨ ∀ q, kget s.queues k = some q → q.owner.val ≠ p) → fault i 0x05) ∧
     (∀ q, a.toNat < 2 ^ 28 → kget s.queues k = some q → q.owner.val = p →
       (b.toNat % 64 ≠ 0 → fault i 0x02) ∧
       (b.toNat % 64 = 0 →
         (c.unreadable b.toNat (64 * n) → fault i 0x06) ∧
         (c.canRead b.toNat (64 * n) →
           (s.firmware.hold = true → exec i s = .next s) ∧
           (s.firmware.hold = false → q.state ≠ .opened → gives i 2) ∧
           (s.firmware.hold = false → q.state = .opened → q.free < n → gives i 1) ∧
           (∀ base, s.firmware.hold = false → q.state = .opened → n ≤ q.free → q.ring = .hbm base →
             (∀ x, base ≤ x → x < base + 2 ^ q.log2 * 64 → s.plainAt x = true) →
             ∃ held, exec i s = .next ({ s.setQueue k { q with tail := q.tail + BitVec.ofNat 32 n } with
               mem := appended s.mem base q.log2 q.tail rs, appHeld := held }.setFw p (c.wrote rd 0)))))))

/-- R7, R292, R293, R299, R301, R302, R305: a function becomes ready that is neither retired nor harvested, of at most 96 cores
of a die, the storage port once it has an accepted device; one that fails is retired in one update, and the replacement request
of its pool is raised at the level of R305. A device's reachability follows its routes; the other Ethernet port carries a failed
one's addresses; a peer takes over a failed command processor's queues; a frame moves to its spare unseen; only NVMe controllers
attach. R280, R285, R288, R289, R290, R304: a core that is to be retired takes no more work and its gangs are to be saved. Once
nothing is resident there and no shoot-down is under way, a spare of its die takes its place in its partition, or its place is
lost; the die's tree is recomputed breadth-first without the retired router, and a pool of one spare or fewer raises the
replacement request. Firmware recomputes a die's tree likewise for any router that is taken out, and no access of any sheaf
changes. -/
def Obligations.FunctionsComeUpFailAndRetire : Prop :=
  ((∀ (f : Function) (s : State),
     (¬s.comesUp f → exec (.functionReady f) s = .next s) ∧
     (s.comesUp f → ∃ t, exec (.functionReady f) s = .next t ∧ t.ready.has f = true ∧
       (∀ g, g ≠ f → t.ready.has g = s.ready.has g) ∧ t.retired = s.retired ∧ ∀ n, f = .core n → (t.core n).noPlace = false)) ∧
   (∀ (port : Fin 64) (s : State), port.val ∉ s.linksDown → s.accs.all (fun a => match a.place with | .pod .. => false | _ => true) = true →
     ∃ t, exec (.linkPortFailure port) s = .next t ∧ t.linksDown = port.val :: s.linksDown ∧ Retired s t (.link port) ∧
       Requested s t (decide (8 ≤ t.linksDown.length)) 4 ∧ t.sheaves = s.sheaves ∧ t.routes = s.routes ∧
       t.remotes = s.remotes.map (fun r => { r with up := routed s.routes t.linksDown r.dev.toNat })) ∧
   (∀ (dev : BitVec 13) (ports : List (Fin 64)) (s : State),
     s.accs.all (fun a => match a.place with | .pod .. => false | _ => true) = true →
     let routes := kset s.routes dev.toNat ports
     exec (.routeTableWrite dev ports) s = .next { s with
       routes := routes, remotes := s.remotes.map (fun r => { r with up := routed routes s.linksDown r.dev.toNat }) }) ∧
   (∀ (port : Fin 64) (s : State) (a : Acc) (o : Origin) (r : Remote) (sh : Sheaf) (w : Workgroup) (off : Nat), port.val ∉ s.linksDown →
     s.accs = [a] → a.kind = .store → a.stage = .issued → a.place = .pod r.dev.toNat off → a.org = some o → r ∈ s.remotes → r.up = true →
     routed s.routes (port.val :: s.linksDown) r.dev.toNat = false → s.sheaf a.k = some sh → s.wg sh.wg = some w → sh.openOps = [] →
     let u : Sheaf := { sh with stores := sh.stores - 1 }
     ∃ t, exec (.linkPortFailure port) s = .next t ∧ t.accs = [] ∧
       (match u.engineMet (w.task.isSome && !w.ended) o.region o.byHand o.pc o.word (Config.engineCode s.free) with
        | some v => t.sheaf a.k = some v
        | none => ∃ y, t.wg sh.wg = some y ∧ y.killed = true)) ∧
   (∀ (port : Fin 2) (s : State), port.val ∉ s.ethDown →
     let other := 1 - port.val
     ∃ t, exec (.ethernetFailover port) s = .next t ∧ t.ethDown = port.val :: s.ethDown ∧ Retired s t (.eth port) ∧ Requested s t true 5 ∧
       t.ethFor = s.ethFor.map (fun n => if n = port.val ∧ other ∉ s.ethDown then other else n)) ∧
   (∀ (core : Fin 16) (s : State), core.val ∉ s.appDown →
     ∃ t, exec (.applicationCoreFailure core) s = .next t ∧ t.appDown = core.val :: s.appDown ∧ Retired s t (.app core) ∧
       Requested s t (decide (2 ≤ t.appDown.length)) 6 ∧ t.mem = s.mem) ∧
   (∀ (p : Fin 13) (s : State), (s.fw p.val).failed = false →
     ∃ t, exec (.firmwareProcessorFailure p) s = .next t ∧ (t.fw p.val).failed = true ∧ Retired s t (.fwp p) ∧ Requested s t true 7 ∧
       ∀ n q, kget s.queues n = some q → ∃ q', kget t.queues n = some q' ∧ q' = { q with owner := q'.owner } ∧
         (q.owner.val ≠ p.val → q' = q) ∧
         (q.owner.val = p.val → (∃ x : Fin 8, x.val ≠ p.val ∧ (s.fw x.val).failed = false) →
           q'.owner.val ≠ p.val ∧ (s.fw q'.owner.val).failed = false)) ∧
   (∀ (stack : Fin 12) (frame spare : BitVec 36) (s : State),
     let used := (kget s.spareFrames stack.val).getD 0
     used < 1024 → kget s.framesMoved frame.toNat = none → (∀ p ∈ s.framesMoved, p.2 ≠ spare.toNat) →
     ∃ t, exec (.frameRetirement stack frame spare) s = .next t ∧ kget t.spareFrames stack.val = some (used + 1) ∧
       kget t.framesMoved frame.toNat = some spare.toNat ∧ Requested s t (decide (768 ≤ used + 1)) 3 ∧
       t.mem = s.mem ∧ t.roots = s.roots ∧ t.sheaves = s.sheaves) ∧
   (∀ (slot : Fin 8) (cls : BitVec 24) (s : State),
     (cls ≠ 0x010802 → exec (.nvmeAttach slot cls) s = .next s) ∧
     (cls = 0x010802 → ∃ t, exec (.nvmeAttach slot cls) s = .next t ∧ slot.val ∈ t.nvme ∧ (∀ n ∈ s.nvme, n ∈ t.nvme) ∧
       t.ready.has .stor = true ∧ ∀ g, g ≠ .stor → t.ready.has g = s.ready.has g))) ∧
  ((∀ (site : Nat) (s : State), (∀ g ∈ s.gangs, kget s.gangs g.1 = some g.2) →
     ((416 ≤ site ∨ (s.core site).retired = true) → exec (.coreRetirement site) s = .next s) ∧
     (site < 416 → (s.core site).retired = false →
       (((s.core site).noPlace = false ∨ s.workgroupsOn site ≠ []) →
         ∃ t, exec (.coreRetirement site) s = .next t ∧ (t.core site).noPlace = true ∧ t.mem = s.mem ∧
           Preempted s t ((s.gangs.filter (fun g => g.2.members.any (fun w => match s.wg w with
             | some x => x.site == site && !x.ended
             | none => false))).flatMap (fun g => g.2.members))) ∧
       ((s.core site).noPlace = true → s.workgroupsOn site = [] →
         (s.shoots ≠ [] → exec (.coreRetirement site) s = .next s) ∧
         (s.shoots = [] →
           let d := s.die (site / 104)
           ∃ t d', exec (.coreRetirement site) s = .next t ∧ (t.core site).retired = true ∧ t.retired.has (.core site) = true ∧
             t.ready.has (.core site) = false ∧ (∀ n, s.spareOf site = some n → t.ready.has (.core n) = true) ∧
             t.parts = s.parts.map (fun p => (p.1, { p.2 with cores := replaced site (s.spareOf site) p.2.cores })) ∧
             t.die (site / 104) = d' ∧ d'.level = d.level ∧ Breadthfirst d'.dead d'.depths ∧
             (∀ k, k ∈ d'.dead ↔ k = site % 104 ∨ k ∈ d.dead) ∧
             Requested s t (decide ((t.sparesOf (site / 104)).length ≤ 1)) 1)))) ∧
   (∀ (die : Fin 4) (site : Nat) (s : State), site / 104 = die.val →
     (s.shoots ≠ [] → exec (.routeRecompute die site) s = .next s) ∧
     (s.shoots = [] →
       let d := s.die die.val
       ∃ d', exec (.routeRecompute die site) s = .next (s.setDie die.val d') ∧ d'.level = d.level ∧ d'.pending = d.pending ∧
         Breadthfirst d'.dead d'.depths ∧ ∀ k, k ∈ d'.dead ↔ k = site % 104 ∨ k ∈ d.dead)))

/-- R138: a memory processor serves a light fault. The page's leaf takes `ACC`, and `DRT` for a write, every other byte of
memory is as before, and the sheaves that wait for that page go on. R290, R291, R314: a shoot-down waits for every holder of
translations. A holder acknowledges only once every access of it that may have used a removed entry has performed at `.dv`; it
then holds no entry of the range, and every other entry stays. With the last acknowledgement the shoot-down is over. A hand-over
of the memory processors does not begin during one. -/
def Obligations.TranslationsAreServedAndShotDown : Prop :=
  (∀ (asid : BitVec 16) (va : Addr) (write : Bool) (s : State) (root slot : Nat) (leaf : DWord) (big : Bool),
     s.firmware.memHold = false → va.getLsbD 79 = false → kget s.roots asid.toNat = some root →
     walk s.mem va.toNat root levels = some (slot, leaf, big) → s.mem.wf = true →
     ∃ t, exec (.lightFaultService asid va write) s = .next t ∧
       (∀ x, t.mem.get x = if slot ≤ x ∧ x < slot + 8 then
         BitVec.ofNat 8 ((leaf ||| (if write then 0xC0#64 else 0x40#64)).toNat / 256 ^ (x - slot)) else s.mem.get x) ∧
       (∀ k sh, s.sheaf k = some sh → sh.wait = some (.replay asid va write) → t.sheaf k = some { sh with wait := none })) ∧
  ((∀ (asid : BitVec 16) (lo hi : Addr) (s : State), exec (.shootDown asid lo hi) s =
     .next { s with shoots := s.shoots ++ [⟨s.nextKey, asid, lo, hi, everyHolder⟩], nextKey := s.nextKey + 1 }) ∧
   (∀ (id holder : Nat) (s : State) (x : ShootDown), x ∈ s.shoots → x.id = id → (s.shoots.map (fun y => y.id)).Nodup →
     (holder ∉ x.left → exec (.shootDownAck id holder) s = .next s) ∧
     (s.accs.any (fun a => s.awaited a x holder) = true → exec (.shootDownAck id holder) s = .next s) ∧
     (holder ∈ x.left → s.accs.all (fun a => !s.awaited a x holder) = true →
       let left := x.left.filter (fun h => h != holder)
       ∃ t, exec (.shootDownAck id holder) s = .next t ∧
         (∀ e ∈ t.tlb, e ∈ s.tlb ∧ ¬(e.holder = holder ∧ e.shot x = true)) ∧
         (∀ e ∈ s.tlb, ¬(e.holder = holder ∧ e.shot x = true) → e ∈ t.tlb) ∧
         ((∀ y ∈ s.shoots, y.left ≠ []) → t.shoots = s.shoots.flatMap (fun y =>
           if y.id = id then (if left = [] then [] else [{ y with left := left }]) else [y])) ∧
         t.accs = s.accs ∧ t.mem = s.mem)) ∧
   (∀ (s : State), exec .memoryProcessorHandover s = .next (
     if s.firmware.memHold then { s with firmware := { s.firmware with memHold := false } }
     else if s.shoots = [] then { s with firmware := { s.firmware with memHold := true } } else s)))

/-- R206, R259, R290, R296: a partition reset. Nothing of the partition is pending, placed, running or in an engine afterwards;
queues that only it maps are DEAD with every started record complete, and so are those whose ring was in its granaries; joins
whose blocks lie in its memory are freed and bindings to them are no more; its participants of joins elsewhere, the saved ones
too, have ended without arriving; its group identifiers are a generation on; its address spaces are shot down, and its cores
hold nothing and report ready. Memory, and every sheaf, partition, queue and join of another, is as it was. -/
def Obligations.PartitionResetsLeaveNothing : Prop :=
  ∀ (part : Fin 16) (s : State), (s.wgs.map (fun p => p.1)).Nodup → (s.sheaves.map (fun p => p.1)).Nodup →
    (s.joins.map (fun p => p.1)).Nodup → (s.parts.map (fun p => p.1)).Nodup →
    let p := s.part part.val
    let mine (wg : Nat) : Bool := match s.wg wg with | some w => w.part == part | none => false
    let saved : List Nat := (s.grids.filter (fun g => g.2.part == part)).flatMap (fun g =>
      g.2.pending.flatMap (fun x => x.saved.map (fun v => v.key)))
    let maps (x : Nat × Partition) (n : Nat) : Bool := x.2.stage2.any (fun e => e.2.getLsbD 12 && e.2.toNat % 4096 == n)
    let only (n : Nat) : Bool := s.parts.any (fun x => x.1 == part.val && maps x n) && s.parts.all (fun x => x.1 == part.val || !maps x n)
    let freed (j : Join) : Bool := j.part == part && (match j.at_ with | .pod .. => false | _ => true)
    let elsewhere (q : Queue) : Prop := ∀ site id o, q.ring = .gran site id o → site ∉ p.cores
    ∃ t, exec (.partitionReset part) s = .next t ∧ t.mem = s.mem ∧
      (∀ x ∈ t.wgs, x.2.part ≠ part) ∧ (∀ x ∈ t.grids, x.2.part ≠ part) ∧ (∀ x ∈ t.sheaves, mine x.2.wg = false) ∧
      (∀ x ∈ t.copies, mine x.wg = false) ∧ (∀ x ∈ t.tops, mine x.wg = false) ∧ (∀ x ∈ t.tiles, mine x.wg = false) ∧
      (∀ k sh, s.sheaf k = some sh → mine sh.wg = false → t.sheaf k = some (match sh.wait with
        | some (.quorum j _) => (match kget s.joins j with
          | some y => if freed y = true then { sh with wait := none } else sh
          | none => sh)
        | _ => sh)) ∧
      ((t.part part.val).fifos = [[], [], [], []] ∧ (t.part part.val).waiting = [] ∧ (t.part part.val).request = none) ∧
      (∀ n, n ≠ part.val → t.part n = s.part n) ∧
      (∀ n q, kget s.queues n = some q → ∃ q', kget t.queues n = some q' ∧
        (elsewhere q → (only n = false → q' = q) ∧ (only n = true → q'.state = .dead ∧ q'.head = q.head ∧ q'.floor = q.head)) ∧
        (∀ site id o a, q.ring = .gran site id o → site ∈ p.cores → s.alloc site id = some a →
          (∀ x ∈ s.joins, ∀ m ∈ x.2.members, m.jsite ≠ site) → q'.state = .dead ∧ q'.floor = q'.head)) ∧
      (∀ n j, kget s.joins n = some j →
        (freed j = true → kget t.joins n = none) ∧
        (freed j = false → ∃ l, kget t.joins n = some { j with members := l } ∧ l.length = j.members.length ∧
          ∀ (i : Nat) (m m' : Member), j.members[i]? = some m → l[i]? = some m' →
            m' = { m with gone := m.gone || ((mine m.wg || saved.contains m.wg) && !m.arrived), away := m'.away } ∧
            (saved.contains m.wg = false → m'.away = m.away))) ∧
      (∀ k w, t.wg k = some w → ∀ b ∈ w.joins, ∀ y j, b = some y → kget s.joins y.join = some j → freed j = false) ∧
      (∀ g, p.gBase ≤ g → g < p.gBase + p.gCount →
        kget t.groupIds g = some (false, ((kget s.groupIds g).getD (false, 0)).2 + 1)) ∧
      (∀ site ∈ p.cores, (t.core site).noPlace = false ∧ (t.core site).l1 = [] ∧
        ((∀ x ∈ s.joins, ∀ m ∈ x.2.members, m.jsite ≠ site) → (t.core site).allocs = []) ∧
        (s.retired.has (.core site) = false → t.ready.has (.core site) = true)) ∧
      ∃ new, t.shoots = s.shoots ++ new ∧ ∀ a, (a = p.asid ∨ ∃ c ∈ p.contexts, c.asid = a) →
        ∃ x ∈ new, x.asid = a ∧ x.lo = 0 ∧ x.hi = BitVec.allOnes 80 ∧ x.left = everyHolder

/-- R310, R314: firmware is handed over. A new image stands in standby memory, measured; at the hold point no command is popped,
and no feed or load proceeds; at the commit point the new measurement is in force, the command processors and the security core
run the image, and every live context takes a TYPE 5 record of the old and the new measurement; after an abort there is no
hand-over record. That the image lies and starts at address 0 of each processor's memory is the model's choice (log 20). -/
def Obligations.FirmwareIsHandedOver : Prop :=
  ∀ (s : State) (image : List Byte),
    let f := s.firmware
    (f.hold = false →
      exec (.firmwareLoad image) s = .next { s with firmware := { f with standby := some image, smeas := shake256 image } } ∧
      exec .commitPoint s = .next s ∧ exec .handoverAbort s = .next s ∧
      ((f.standby = none ∨ ∃ p ∈ s.parts, p.2.request ≠ none) → exec .holdPoint s = .next s) ∧
      (f.standby ≠ none → (∀ p ∈ s.parts, p.2.request = none) → exec .holdPoint s = .next { s with firmware := { f with hold := true } })) ∧
    (f.hold = true →
      (∀ (part : Fin 16) (id : BitVec 12) (rs : List (List Word)) (asid : BitVec 16) (base : DWord) (len : Nat),
        ∀ i ∈ [Instr.firmwareLoad image, .receiptRequest part, .attestationRequest part, .commandRecordReject part, .feed part id rs,
          .codeObjectLoad part asid base len], exec i s = .next s) ∧
      exec .handoverAbort s = .next { s with firmware := { f with
        hold := false, standby := none, smeas := [], hrec := false, htime := 0, hfwm := List.replicate 64 0 } } ∧
      (∀ new, f.standby = some new → ∃ t, exec .commitPoint s = .next t ∧
        t.firmware = { f with
          image := new, fwm := f.smeas, standby := none, smeas := [], hold := false, hrec := true, htime := s.tai, hfwm := f.fwm } ∧
        t.parts = s.parts.map (fun p => (p.1, { p.2 with contexts := p.2.contexts.map (fun c =>
          { c with chain := linked c.chain 5 (f.fwm ++ f.smeas), hov := true }) })) ∧
        (∀ p, t.fw p = if p < 8 ∨ p = 12 then { s.fw p with pc := 0, mem := (s.fw p).mem.write 0 new } else s.fw p) ∧
        { t with firmware := f, parts := s.parts, fws := s.fws } = s))

/-- R309 to R313: a command record that no command processor serves puts its queue in ERROR. A receipt request's block is read
whole and checked; then, once its future is FULL, each buffer is hashed into the chain, and the receipt of R313 stands at `OUT`
and `DONE` is FULL with its length. A check that fails, or a POISONED future, makes `DONE` POISONED with the code; while the
future is EMPTY the request waits. `SEQ` rises by one a receipt. -/
def Obligations.ReceiptsAreServed : Prop :=
  ∀ (part : Fin 16) (s : State) (n : Nat) (q : Queue) (ws : List Word) (bs : List Byte) (c : Context) (pd po : Nat),
    s.command part = some (n, q, ws) → s.mem.wf = true →
    let asid := (s.part part.val).asid
    let block := pairNo ws 2
    let done := fieldAt bs 0x18
    let waitf := fieldAt bs 8
    let taken := kset s.queues n ({ q with head := q.head + 1 }.complete q.head)
    let writable (free : Nat → Bool) : Prop := (∀ a, shortAddr done ≠ .aperture a) ∧
      (∀ u, SameView s u free → u.hwShort asid .wr true done 8 = (u, .ok [(.hbm pd, 8)])) ∧ s.plainAt pd = true ∧
      s.clearOver (.hbm pd) 8 = true ∧ (∀ i, i < 8 → free (pd + i) = false) ∧ s.mem.dword pd = 0
    let served (t : State) : Prop := exec (.receiptRequest part) s = .next t ∧ t.queues = taken
    let poisoned (t : State) (code : Nat) : Prop := t.mem = s.mem.write pd (leBytes 8 (code * 4 + 2)) ∧ t.context part asid = some c
    (commandOk ws = false → exec (.commandRecordReject part) s = .next (s.setQueue n q.refused)) ∧
    (commandOk ws = true → exec (.commandRecordReject part) s = .next s) ∧
    (wordNo ws 1 ≠ 0x10 → exec (.receiptRequest part) s = .next s) ∧
    (commandOk ws = true → wordNo ws 1 = 0x10 → bs.length = 176 → s.reads asid block bs →
      (done.toNat % 8 ≠ 0 → exec (.receiptRequest part) s = .next (s.setQueue n q.refused)) ∧
      (done.toNat % 8 = 0 → writable (fun _ => false) → s.context part asid = some c →
        (∀ code, receiptFault block bs = some code → ∃ t, served t ∧ poisoned t code) ∧
        (∀ buffers : List (List Byte), receiptFault block bs = none →
          let chain := buffers.foldl (fun m b => linked m 3 b) c.chain
          let body := receiptOf s c bs buffers chain
          let len := body.length + 49856
          buffers.length = (fieldAt bs 0).toNat % 2 ^ 16 →
          (∀ (i : Nat) (b : List Byte), buffers[i]? = some b →
            b.length = (fieldAt bs (0x38 + 16 * i)).toNat ∧ s.reads asid (fieldAt bs (0x30 + 16 * i)) b) →
          (∀ u, SameView s u (fun _ => false) → u.hwRange asid .wr ((fieldAt bs 0x10).setWidth 80) len = (u, .ok [(.hbm po, len)])) →
          s.plainAt po = true → s.clearOver (.hbm po) len = true → writable (within po len) →
          let finished (t : State) : Prop := served t ∧ t.mem = (s.mem.write po (s.signedBytes body)).write pd (leBytes 8 (len * 4 + 1)) ∧
            t.context part asid = some { c with chain := chain, seq := c.seq + 1, joins := [] }
          (waitf = 0 → ∃ t, finished t) ∧
          (∀ pw, waitf ≠ 0 → (∀ u, SameView s u (fun _ => false) → u.hwShort asid .rd true waitf 8 = (u, .ok [(.hbm pw, 8)])) →
            s.plainAt pw = true →
            let w := s.mem.dword pw
            let waiting : Partition := { s.part part.val with request := some ⟨block, asid, bs⟩ }
            (w.toNat % 4 = 0 → exec (.receiptRequest part) s =
              .next ((s.setQueue n ({ q with head := q.head + 1 }.complete q.head)).setPart part.val waiting)) ∧
            (w.toNat % 4 = 1 → ∃ t, finished t) ∧
            (w.toNat % 4 = 2 → ∃ t, served t ∧ poisoned t (w.toNat / 4)) ∧
            (w.toNat % 4 = 3 → ∃ t, served t ∧ poisoned t 2)))))

/-- R312: a receipt request that waits for its future goes on as R312 states once the future is no longer EMPTY; R315: an
attestation request is answered with the report of R315 at `OUT`, and `DONE` is FULL with its length; R310: a code object that
is loaded enters its context's chain as TYPE 1, the context's first link with it where it is new, and can be fetched from then
on (that it cannot before is the model's reading, log 17); one that cannot be read is not loaded. -/
def Obligations.ReportsAreAnsweredAndCodeIsMeasured : Prop :=
  (∀ (part : Fin 16) (s : State) (r : Request) (pw : Nat), (s.part part.val).request = some r →
    fieldAt r.bytes 8 ≠ 0 → s.plainAt pw = true →
    (∀ u, SameView s u (fun _ => false) → u.hwShort r.asid .rd true (fieldAt r.bytes 8) 8 = (u, .ok [(.hbm pw, 8)])) →
    let w := s.mem.dword pw
    let done := fieldAt r.bytes 0x18
    (w.toNat % 4 = 0 → exec (.receiptResume part) s = .next s) ∧
    (∀ pd, w.toNat % 4 = 2 → done.toNat % 8 = 0 → (∀ a, shortAddr done ≠ .aperture a) →
      (∀ u, SameView s u (fun _ => false) → u.hwShort r.asid .wr true done 8 = (u, .ok [(.hbm pd, 8)])) → s.plainAt pd = true →
      s.clearOver (.hbm pd) 8 = true → s.mem.dword pd = 0 →
      ∃ t, exec (.receiptResume part) s = .next t ∧ t.mem = s.mem.write pd (leBytes 8 (w.toNat / 4 * 4 + 2)) ∧
        (t.part part.val).request = none) ∧
    (∀ pd po c, w.toNat % 4 = 1 → (fieldAt r.bytes 0).toNat % 2 ^ 16 = 0 → s.context part r.asid = some c → s.mem.wf = true →
      let body := receiptOf s c r.bytes [] c.chain
      let len := body.length + 49856
      done.toNat % 8 = 0 → (∀ a, shortAddr done ≠ .aperture a) →
      (∀ u, SameView s u (within po len) → u.hwShort r.asid .wr true done 8 = (u, .ok [(.hbm pd, 8)])) → s.plainAt pd = true →
      s.clearOver (.hbm pd) 8 = true → s.mem.dword pd = 0 → apart pd 8 po len →
      (∀ u, SameView s u (fun _ => false) →
        u.hwRange r.asid .wr ((fieldAt r.bytes 0x10).setWidth 80) len = (u, .ok [(.hbm po, len)])) →
      s.plainAt po = true → s.clearOver (.hbm po) len = true →
      ∃ t, exec (.receiptResume part) s = .next t ∧ (t.part part.val).request = none ∧
        t.mem = (s.mem.write po (s.signedBytes body)).write pd (leBytes 8 (len * 4 + 1)) ∧
        t.context part r.asid = some { c with seq := c.seq + 1, joins := [] })) ∧
  (∀ (part : Fin 16) (s : State) (n : Nat) (q : Queue) (ws : List Word) (bs : List Byte) (pd po : Nat),
    s.command part = some (n, q, ws) → s.mem.wf = true →
    let asid := (s.part part.val).asid
    let done := fieldAt bs 8
    let body := reportOf s (bs.drop 0x10)
    let len := 0xD0 + 49856
    commandOk ws = true → wordNo ws 1 = 0x11 → bs.length = 48 → s.reads asid (pairNo ws 2) bs → s.firmware.fwm.length = 64 →
    s.firmware.hfwm.length = 64 → done.toNat % 8 = 0 → (∀ a, shortAddr done ≠ .aperture a) →
    (∀ u, SameView s u (within po len) → u.hwShort asid .wr true done 8 = (u, .ok [(.hbm pd, 8)])) → s.plainAt pd = true →
    s.clearOver (.hbm pd) 8 = true → s.mem.dword pd = 0 → apart pd 8 po len →
    (∀ u, SameView s u (fun _ => false) → u.hwRange asid .wr ((fieldAt bs 0).setWidth 80) len = (u, .ok [(.hbm po, len)])) →
    s.plainAt po = true → s.clearOver (.hbm po) len = true →
    ∃ t, exec (.attestationRequest part) s = .next t ∧ t.queues = kset s.queues n ({ q with head := q.head + 1 }.complete q.head) ∧
      t.mem = (s.mem.write po (s.signedBytes body)).write pd (leBytes 8 (len * 4 + 1))) ∧
  (∀ (part : Fin 16) (asid : BitVec 16) (base : DWord) (obj : List Byte) (s : State), s.firmware.hold = false → s.reads asid base obj →
    (∀ c, s.context part asid = some c → ∃ t, exec (.codeObjectLoad part asid base obj.length) s = .next t ∧
      t.context part asid = some { c with chain := linked c.chain 1 obj } ∧ t.ctxNext = s.ctxNext ∧ t.mem = s.mem ∧
      t.code = (asid, base, obj.length) :: s.code) ∧
    (s.context part asid = none → ∃ t c, exec (.codeObjectLoad part asid base obj.length) s = .next t ∧
      t.context part asid = some c ∧ c.ctxid = s.ctxNext ∧ c.chain = linked (firstLink s.ctxNext s.firmware.fwm) 1 obj ∧
      c.seq = 0 ∧ c.joins = [] ∧ c.norep = none ∧ c.hov = false ∧ t.ctxNext = s.ctxNext + 1 ∧ t.mem = s.mem ∧
      t.code = (asid, base, obj.length) :: s.code)) ∧
  (∀ (part : Fin 16) (asid : BitVec 16) (base : DWord) (n code : Nat) (s : State), s.firmware.hold = false →
    s.hwBytes asid base n = (s, .error code) → exec (.codeObjectLoad part asid base n) s = .next s)

/-- R319, R320: stores to a partition's counter control page. A slot's word sets its event and enable and clears its count, even
if it changes neither, unless mode 1 refuses an event that is not allowed; a store to `VAL` sets the count; `PLOG2` and `RLOG2`
outside their ranges are taken as 12 and 7 (the latter is the model's choice, log 27); `RHEAD`, `DROPS` and the reserved words
keep their values. The hypervisor's page decides which events are allowed. R316 to R319: while a partition samples, a scheduler
of one of its cores whose period of 2^`PLOG2` cycles is over (it starts where the last ended, log 27) takes its next resident
sheaf in rotation and writes the 32 bytes of R317 into the ring slot of `RHEAD`, which rises by one; a full ring drops the
sample and `DROPS` rises by one. No sheaf changes; a scheduler with no resident sheaf, and one whose period is not over or that
is not to sample, records nothing. -/
def Obligations.CountersAndSamples : Prop :=
  (∀ (part : Fin 16) (s : State),
     let p := s.part part.val
     let becomes (i : Instr) (x : Partition) : Prop := exec i s = .next (s.setPart part.val x)
     p.slots.length = 16 → p.plog2 < 32 → p.rlog2 < 32 →
     (∀ (slot : Fin 16) (w : Word),
       let refused := p.mode1 && !p.allowed.contains (w.extractLsb' 0 12)
       (refused = true → becomes (.counterSlotWrite part slot w) p) ∧
       (refused = false → becomes (.counterSlotWrite part slot w)
         { p with slots := lset p.slots slot.val ⟨w.extractLsb' 0 12, w.getLsbD 12, 0⟩ })) ∧
     (∀ (slot : Fin 16) (v : DWord), becomes (.counterValueWrite part slot v)
       { p with slots := lset p.slots slot.val { p.slotNo slot.val with val := v } }) ∧
     (∀ v : DWord,
       let pl := v.toNat % 32
       becomes (.counterPageWrite part 0x040 v) { p with plog2 := if 8 ≤ pl ∧ pl ≤ 20 then pl else 12, son := v.getLsbD 8 } ∧
       becomes (.counterPageWrite part 0x048 v) { p with rbase := v } ∧
       becomes (.counterPageWrite part 0x050 v) { p with rlog2 := if 7 ≤ pl ∧ pl ≤ 20 then pl else 7 } ∧
       becomes (.counterPageWrite part 0x060 v) { p with rtail := v } ∧
       ∀ off : BitVec 12, (off = 0x058 ∨ off = 0x068 ∨ 0x100 ≤ off.toNat) → off.toNat % 8 = 0 → becomes (.counterPageWrite part off v) p) ∧
     (∀ (event : BitVec 12) (allow mode : Bool), ∃ x, becomes (.eventBitmapChange part event allow mode) x ∧ x.mode1 = mode ∧
       (event ∈ x.allowed ↔ allow = true) ∧ (∀ e, e ≠ event → (e ∈ x.allowed ↔ e ∈ p.allowed)) ∧
       { x with allowed := p.allowed, mode1 := p.mode1 } = p)) ∧
  (∀ (part : Fin 16) (site : Nat) (sched : Fin 4) (s : State),
     let p := s.part part.val
     let i : Instr := .profilingSample part site sched
     let due : Nat := lget 0 (s.core site).sampled sched.val + 2 ^ p.plog2
     let began (c : Core) : Core :=
       { c with sampled := lset c.sampled sched.val (if s.cycle < due + 2 ^ p.plog2 then due else s.cycle) }
     ((p.son = false ∨ site ∉ p.cores ∨ s.cycle < due) → exec i s = .next s) ∧
     (p.son = true → site ∈ p.cores → due ≤ s.cycle → s.scheduled site sched = [] → exec i s = .next (s.modCore site began)) ∧
     (∀ k sh wg, p.son = true → site ∈ p.cores → due ≤ s.cycle → NextInRotation s site sched k sh → s.wg sh.wg = some wg →
       (∀ x ∈ sh.ctl.splits, x.stall < 24) → (s.sheaves.map (fun x => x.1)).Nodup →
       let turn (t : State) : State := t.modCore site (fun c => began { c with rotate := lset c.rotate sched.val (sh.turn + 1) })
       ((p.rhead - p.rtail).toNat = 2 ^ p.rlog2 → exec i s = .next (turn (s.setPart part.val { p with drops := p.drops + 1 }))) ∧
       (∀ pa, (p.rhead - p.rtail).toNat ≠ 2 ^ p.rlog2 → p.rbase.toNat % 4096 = 0 →
         s.observed p.asid .wr ((p.rbase + BitVec.ofNat 64 (p.rhead.toNat % 2 ^ p.rlog2 * 32)).setWidth 80) 32 pa →
         exec i s = .next (turn ({ s with
           mem := s.mem.write pa (s.sampleOf sched.val sh wg), appHeld := s.heldAfter (.hbm pa) 32 }.setPart part.val
           { p with rhead := p.rhead + 1 })))))

/-- R134, R163, R170, R293, R298, R299, R301: an access that an outside observer brings is one load, store or atomic of memory
at the slice: a load and a fence change nothing, a store leaves its bytes, an atomic its word's new value, and a misaligned
atomic nothing. The SC of an application core writes while the LR's hold stands, which any write to its bytes ends; the entry of
a port's completion is written once its data writes have been. An observer that has failed, is not attached or not reached, and
an operation that its port does not have, do nothing. A store to `BELL` of a push window pushes what the window stages. -/
def Obligations.OutsideObserversReachMemory : Prop :=
  (∀ (i : Instr) (s : State) (asid : BitVec 16) (va : Addr) (op : ExtOp), Brings s i asid va op →
    (op = .fence → exec i s = .next s) ∧
    (∀ n pa, op = .load n → s.observed asid .rd va n pa → exec i s = .next s) ∧
    (∀ bs pa, op = .store bs → bs ≠ [] → s.observed asid .wr va bs.length pa → exec i s = .next { s with
      mem := s.mem.write pa bs, appHeld := s.heldAfter (.hbm pa) bs.length }) ∧
    (∀ fn w64 v, (∃ o, op = .amo o w64 v ∧ fn = .op o) ∨ (∃ w, op = .cas w64 v w ∧ fn = .cas w) →
      let n := if w64 then 8 else 4
      (va.toNat % n ≠ 0 → exec i s = .next s) ∧
      (∀ pa, va.toNat % n = 0 → s.observed asid .wr va n pa → s.mem.wf = true →
        ∃ t, exec i s = .next t ∧ { t with mem := s.mem, appHeld := s.appHeld } = s ∧
          (t.appHeld = s.appHeld ∨ t.appHeld = s.heldAfter (.hbm pa) n) ∧
          sameBytes t.mem (s.mem.write pa (leBytes n (atomicResult fn w64 (leDWord (s.mem.read pa n)) v).toNat)))) ∧
    (∀ bs w, op = .store bs → bs.length = 8 → s.windows.find? (fun x => decide (x.page ≤ w.page + 0x40 ∧ w.page + 0x40 < x.page + 128)) = some w →
      s.hwRange asid .wr va 8 = (s, .ok [(.hbm (w.page + 0x40), 8)]) → s.ctrAt (w.page + 0x40) = none → w.stage.length = 64 →
      s.clearOver (.hbm (w.page + 0x40)) 8 = true → (∀ x ∈ s.windows, x.page = w.page → x = w) → (∀ x ∈ s.windows, x.stage.length = 64) →
      (∀ x ∈ s.windows, x.app = w.app → x.q = w.q → x = w) →
      exec i s = exec (.pushWindowBell w.app w.q) { s with appHeld := s.heldAfter (.hbm (w.page + 0x40)) 8 })) ∧
  (∀ (s : State) (core : Fin 16) (asid : BitVec 16) (va : Addr) (w64 : Bool) (v : DWord) (pa : Nat), core.val ∉ s.appDown →
    let n := if w64 then 8 else 4
    let lr := exec (.applicationCoreAccess core asid va (.lr w64)) s
    let sc := exec (.applicationCoreAccess core asid va (.sc w64 v)) s
    (va.toNat % n ≠ 0 → lr = .next s ∧ sc = .next s) ∧
    (va.toNat % n = 0 → s.observed asid .rd va n pa → lr = .next { s with appHeld := kset s.appHeld core.val (.hbm pa, n) }) ∧
    (va.toNat % n = 0 → s.observed asid .wr va n pa →
      (kget s.appHeld core.val = some (.hbm pa, n) → sc = .next { s with
        mem := s.mem.write pa (leBytes n v.toNat), appHeld := kdel (s.heldAfter (.hbm pa) n) core.val }) ∧
      (kget s.appHeld core.val ≠ some (.hbm pa, n) → sc = .next { s with appHeld := kdel s.appHeld core.val }))) ∧
  (∀ (i : Instr) (s : State) (port : Nat) (asid : BitVec 16) (va : Addr) (op : ExtOp), AtPort s i port asid va op →
    let left (c : Nat) : Option Nat := kget s.completions (16 * c + port)
    (∀ c n, op = .announce c n → exec i s = .next { s with completions := kset s.completions (16 * c + port) n }) ∧
    (∀ c bs, op = .data c bs →
      ((left c = none ∨ left c = some 0) → exec i s = .next s) ∧
      (∀ n pa, left c = some (n + 1) → bs ≠ [] → s.observed asid .wr va bs.length pa → exec i s = .next { s with
        mem := s.mem.write pa bs, appHeld := s.heldAfter (.hbm pa) bs.length, completions := kset s.completions (16 * c + port) n })) ∧
    (∀ c bs, op = .entry c bs →
      (left c ≠ some 0 → exec i s = .next s) ∧
      (∀ pa, left c = some 0 → bs ≠ [] → s.observed asid .wr va bs.length pa → exec i s = .next { s with
        mem := s.mem.write pa bs, appHeld := s.heldAfter (.hbm pa) bs.length, completions := kdel s.completions (16 * c + port) }))) ∧
  (∀ (s : State) (asid : BitVec 16) (va : Addr) (op : ExtOp),
    (∀ core : Fin 16, core.val ∈ s.appDown → exec (.applicationCoreAccess core asid va op) s = .next s) ∧
    (∀ slot : Fin 8, slot.val ∉ s.nvme → exec (.nvmeDma slot asid va op) s = .next s) ∧
    (∀ port : Fin 2, lget port.val s.ethFor port.val ∈ s.ethDown → exec (.rdmaOperation port asid va op) s = .next s) ∧
    (∀ (dev : BitVec 13) (pid : BitVec 16), ((∀ x ∈ s.parts, x.2.pid ≠ pid) ∨ ∀ r ∈ s.remotes, r.dev = dev → r.up = false) →
      exec (.podRequestArrival dev pid va op) s = .next s) ∧
    (∀ (port : Fin 2) (slot : Fin 8) (o : AtomOp) (w64 : Bool) (v w : DWord),
      (o ≠ .add ∨ w64 = false → exec (.rdmaOperation port asid va (.amo o w64 v)) s = .next s) ∧
      exec (.rdmaOperation port asid va (.cas false v w)) s = .next s ∧ exec (.rdmaOperation port asid va .fence) s = .next s ∧
      exec (.nvmeDma slot asid va (.amo o w64 v)) s = .next s ∧ exec (.nvmeDma slot asid va (.cas w64 v w)) s = .next s ∧
      exec (.nvmeDma slot asid va .fence) s = .next s ∧
      exec (.rdmaOperation port asid va (.lr w64)) s = .next s ∧ exec (.rdmaOperation port asid va (.sc w64 v)) s = .next s ∧
      exec (.nvmeDma slot asid va (.lr w64)) s = .next s ∧ exec (.nvmeDma slot asid va (.sc w64 v)) s = .next s))
end

