-- ==== Sys2Proof/Laws/Agents.lean ====
section
/-! SUPPORT. How an agent outside the cores reaches one page of memory (09 R135, R136, R138): where it has the translation already,
the answer depends only on the page tables, and nothing changes. -/

namespace Sys2Proof.Machine

theorem Memory.read_congr (m n : Memory) (a k : Nat) (h : ∀ x, a ≤ x → x < a + k → n.get x = m.get x) :
    n.read a k = m.read a k := by
  induction k generalizing a with
  | zero => rfl
  | succ k ih =>
    simp only [Memory.read]
    rw [h a (Nat.le_refl a) (by omega), ih (a + 1) (fun x h1 h2 => h x (by omega) (by omega))]

theorem Memory.dword_congr (m n : Memory) (a : Nat) (h : ∀ x, a ≤ x → x < a + 8 → n.get x = m.get x) : n.dword a = m.dword a := by
  unfold Memory.dword
  rw [Memory.read_congr m n a 8 h]

/-- Every entry that a walk looks at lies below `bound`. -/
def walkBelow (m : Memory) (va bound : Nat) : Nat → List (Nat × Nat × Bool × Bool) → Bool
  | _, [] => true
  | base, (shift, width, _, last) :: rest =>
    let e := m.dword (base + 8 * (va / 2 ^ shift % 2 ^ width))
    decide (base + 8 * (va / 2 ^ shift % 2 ^ width) + 8 ≤ bound) &&
      (!e.getLsbD 0 || e.getLsbD 1 || last || walkBelow m va bound ((e.extractLsb' 16 36).toNat * 65536) rest)

/-- A walk depends only on the entries it looks at. -/
theorem walk_congr {m n : Memory} {va bound : Nat} (h : ∀ x, x < bound → n.get x = m.get x)
    (l : List (Nat × Nat × Bool × Bool)) (base : Nat) (hb : walkBelow m va bound base l = true) :
    walk n va base l = walk m va base l := by
  induction l generalizing base with
  | nil => rfl
  | cons x rest ih =>
    obtain ⟨shift, width, leafOk, last⟩ := x
    simp only [walkBelow, Bool.and_eq_true, Bool.or_eq_true, decide_eq_true_eq] at hb
    have hd : n.dword (base + 8 * (va / 2 ^ shift % 2 ^ width)) = m.dword (base + 8 * (va / 2 ^ shift % 2 ^ width)) :=
      Memory.dword_congr m n _ (fun y _ h2 => h y (by omega))
    simp only [walk]
    rw [hd]
    generalize m.dword (base + 8 * (va / 2 ^ shift % 2 ^ width)) = e at hb ⊢
    cases h0 : e.getLsbD 0 <;> cases h1 : e.getLsbD 1 <;> cases last <;>
      simp only [h0, h1, Bool.not_true, Bool.not_false, Bool.false_eq_true, or_false, false_or, or_true, true_or, if_true, if_false] at hb ⊢
    exact ih _ hb.2

/-- The n bytes at an address lie in one page that an agent may access so, at `pb`; it has the translation, whose tables lie below
`bound`. -/
def State.pageFor (s : State) (asid : BitVec 16) (bound : Nat) (va : Addr) (n pb : Nat) (a : Access) : Bool :=
  decide (rangeOf va = .local) && decide (0 < n) && decide (va.toNat % 65536 + n ≤ 65536) &&
  (match kget s.roots asid.toNat with
   | some root => walkBelow s.mem va.toNat bound root levels
   | none => false) &&
  (match s.leafOf 416 asid va.toNat with
   | some (at_, leaf, big) =>
     (s.tlbFind 416 asid va.toNat).any (fun e => e.leafFor va.toNat == (at_, leaf, big)) &&
     (match leafTr leaf big va.toNat a with
      | .ok pa _ => pa == pb
      | _ => false)
   | none => false)

theorem SameView.leafOf {s u : State} {free : Nat → Bool} {asid : BitVec 16} {bound : Nat} {va : Nat} {root : Nat}
    (h : SameView s u free) (hf : ∀ x, x < bound → free x = false) (hr : kget s.roots asid.toNat = some root)
    (hw : walkBelow s.mem va bound root levels = true) (k : Nat) : u.leafOf k asid va = s.leafOf k asid va := by
  unfold State.leafOf State.tlbFind
  rw [h.roots, h.tlb, h.counter, hr]
  simp only
  rw [walk_congr (fun x hx => h.mem x (hf x hx)) levels root hw]

/-- An agent that has the translation reaches the page, in every state with the same tables, and changes nothing. -/
theorem SameView.hwRange {s u : State} {free : Nat → Bool} {asid : BitVec 16} {bound : Nat} {va : Addr} {n pb : Nat} {a : Access}
    (h : SameView s u free) (hf : ∀ x, x < bound → free x = false) (hp : s.pageFor asid bound va n pb a = true) :
    u.hwRange asid a va n = (u, .ok [(.hbm pb, n)]) := by
  simp only [State.pageFor, Bool.and_eq_true, decide_eq_true_eq] at hp
  obtain ⟨⟨⟨⟨hl, hn⟩, hlen⟩, hw⟩, ht⟩ := hp
  cases hr : kget s.roots asid.toNat with
  | none => simp [hr] at hw
  | some root =>
    simp only [hr] at hw
    cases hlf : s.leafOf 416 asid va.toNat with
    | none => simp [hlf] at ht
    | some x =>
      obtain ⟨at_, leaf, big⟩ := x
      simp only [hlf, Bool.and_eq_true] at ht
      obtain ⟨hc, ht⟩ := ht
      cases htr : leafTr leaf big va.toNat a with
      | ok pa kind =>
        simp only [htr, beq_iff_eq] at ht
        subst ht
        have hlu : u.leafOf 416 asid va.toNat = some (at_, leaf, big) := by
          rw [SameView.leafOf h hf hr hw 416, hlf]
        have hreach : ∀ m, u.reach (agentVia asid) va m a = .ok (.hbm pa) kind := by
          intro m
          simp [State.reach, hl, State.reachLocal, State.translate, agentVia, hlu, htr]
        have hcache : u.cacheLocal (agentVia asid) va = u := by
          have hf : u.tlbFind 416 asid va.toNat = s.tlbFind 416 asid va.toNat := by simp only [State.tlbFind, h.tlb]
          simp only [State.cacheLocal, hl, State.cache, agentVia, hlu, hf]
          rw [if_pos hc]
        have hone : ∀ m, u.hwOne (agentVia asid) a va m = (u, .ok (.hbm pa)) := by
          intro m
          simp [State.hwOne, State.hwTries, hreach, hcache]
        have hmin : min n (65536 - va.toNat % 65536) = n := by omega
        unfold State.hwRange
        rw [State.hwPages]
        simp only [show n ≠ 0 by omega, if_false, State.servedAt, hl, hmin, hone, Nat.sub_self]
        cases hq : n / 65536 + 1 with
        | zero => simp [State.hwPages]
        | succ q => simp [State.hwPages]
      | light => simp [htr] at ht
      | paged => simp [htr] at ht
      | absent => simp [htr] at ht
      | prot => simp [htr] at ht

/-- The same through a short address. -/
theorem SameView.hwShort {s u : State} {free : Nat → Bool} {asid : BitVec 16} {bound : Nat} {p : DWord} {n pb : Nat} {a : Access}
    {future : Bool} (h : SameView s u free) (hf : ∀ x, x < bound → free x = false) (hs : shortAddr p = .plain (shortAddr p).va)
    (hp : s.pageFor asid bound (shortAddr p).va n pb a = true) : u.hwShort asid a future p n = (u, .ok [(.hbm pb, n)]) := by
  unfold State.hwShort
  rw [hs]
  exact SameView.hwRange h hf hp

/-- Every clause of `buffered`, decidable. -/
def State.bufferedAt (s : State) (asid : BitVec 16) (bound : Nat) (p : DWord) (n pb : Nat) : Bool :=
  s.plainAt pb && s.clearOver (.hbm pb) n && decide (shortAddr p = .plain (shortAddr p).va) &&
  s.pageFor asid bound (shortAddr p).va n pb .rd && s.pageFor asid bound (shortAddr p).va n pb .wr

theorem State.buffered_of {s : State} {asid : BitVec 16} {bound : Nat} {p : DWord} {n pb : Nat} {free : Nat → Bool}
    (hf : ∀ x, x < bound → free x = false) (h : s.bufferedAt asid bound p n pb = true) : s.buffered asid p n pb free := by
  simp only [State.bufferedAt, Bool.and_eq_true, decide_eq_true_eq] at h
  obtain ⟨⟨⟨⟨h1, h2⟩, h3⟩, h4⟩, h5⟩ := h
  refine ⟨h1, h2, fun u hu a ha => ?_⟩
  rcases ha with rfl | rfl
  · exact SameView.hwShort hu hf h3 h4
  · exact SameView.hwShort hu hf h3 h5

/-- Bytes that lie in one plain page are read as they stand there. -/
theorem State.reads_of {s : State} {asid : BitVec 16} {bound : Nat} {p : DWord} {bs : List Byte} {pb : Nat}
    (h1 : s.plainAt pb = true) (hp : s.pageFor asid bound (localAddr p) bs.length pb .rd = true)
    (hb : s.mem.read pb bs.length = bs) : s.reads asid p bs := by
  intro u hu
  unfold State.hwBytes
  rw [SameView.hwRange hu (fun _ _ => rfl) hp]
  have hpl : u.plainAt pb = true := by rw [hu.pages]; exact h1
  have hr : u.readPhys pb bs.length = u.mem.read pb bs.length := by
    unfold State.readPhys
    simp only [State.plainAt, Bool.and_eq_true, Option.isNone_iff_eq_none, decide_eq_true_eq] at hpl
    rw [hpl.1.1, hpl.1.2]
    simp only [hpl.2, if_true]
  simp only [State.sliceBytes, List.flatMap_cons, List.flatMap_nil, List.append_nil, State.readPlace, hr]
  rw [Memory.read_congr s.mem u.mem pb bs.length (fun x _ _ => hu.mem x rfl), hb]

end Sys2Proof.Machine
end

