-- ==== Sys2Proof/Laws/State.lean ====
section
/-! SUPPORT. One lemma per field of State per named update of Machine/Data.lean, true by `rfl`: what the update leaves, and the one
field it writes. -/

namespace Sys2Proof.Machine

/-! ### `State.setCore` -/

section
variable (s : State) (k : Nat) (x : Core)

@[simp] theorem State.setCore_agenda : (s.setCore k x).agenda = s.agenda := rfl
@[simp] theorem State.setCore_cur : (s.setCore k x).cur = s.cur := rfl
@[simp] theorem State.setCore_word : (s.setCore k x).word = s.word := rfl
@[simp] theorem State.setCore_free : (s.setCore k x).free = s.free := rfl
@[simp] theorem State.setCore_nextKey : (s.setCore k x).nextKey = s.nextKey := rfl
@[simp] theorem State.setCore_served : (s.setCore k x).served = s.served := rfl
@[simp] theorem State.setCore_code : (s.setCore k x).code = s.code := rfl
@[simp] theorem State.setCore_cycle : (s.setCore k x).cycle = s.cycle := rfl
@[simp] theorem State.setCore_clock : (s.setCore k x).clock = s.clock := rfl
@[simp] theorem State.setCore_floorClock : (s.setCore k x).floorClock = s.floorClock := rfl
@[simp] theorem State.setCore_budget : (s.setCore k x).budget = s.budget := rfl
@[simp] theorem State.setCore_mem : (s.setCore k x).mem = s.mem := rfl
@[simp] theorem State.setCore_roots : (s.setCore k x).roots = s.roots := rfl
@[simp] theorem State.setCore_paged : (s.setCore k x).paged = s.paged := rfl
@[simp] theorem State.setCore_tlb : (s.setCore k x).tlb = s.tlb := rfl
@[simp] theorem State.setCore_shoots : (s.setCore k x).shoots = s.shoots := rfl
@[simp] theorem State.setCore_device : (s.setCore k x).device = s.device := rfl
@[simp] theorem State.setCore_devid : (s.setCore k x).devid = s.devid := rfl
@[simp] theorem State.setCore_routes : (s.setCore k x).routes = s.routes := rfl
@[simp] theorem State.setCore_linksDown : (s.setCore k x).linksDown = s.linksDown := rfl
@[simp] theorem State.setCore_remotes : (s.setCore k x).remotes = s.remotes := rfl
@[simp] theorem State.setCore_ethFor : (s.setCore k x).ethFor = s.ethFor := rfl
@[simp] theorem State.setCore_ethDown : (s.setCore k x).ethDown = s.ethDown := rfl
@[simp] theorem State.setCore_tai : (s.setCore k x).tai = s.tai := rfl
@[simp] theorem State.setCore_disciplined : (s.setCore k x).disciplined = s.disciplined := rfl
@[simp] theorem State.setCore_slew : (s.setCore k x).slew = s.slew := rfl
@[simp] theorem State.setCore_paced : (s.setCore k x).paced = s.paced := rfl
@[simp] theorem State.setCore_nvme : (s.setCore k x).nvme = s.nvme := rfl
@[simp] theorem State.setCore_ready : (s.setCore k x).ready = s.ready := rfl
@[simp] theorem State.setCore_retired : (s.setCore k x).retired = s.retired := rfl
@[simp] theorem State.setCore_repl : (s.setCore k x).repl = s.repl := rfl
@[simp] theorem State.setCore_cause : (s.setCore k x).cause = s.cause := rfl
@[simp] theorem State.setCore_spareFrames : (s.setCore k x).spareFrames = s.spareFrames := rfl
@[simp] theorem State.setCore_framesMoved : (s.setCore k x).framesMoved = s.framesMoved := rfl
@[simp] theorem State.setCore_reports : (s.setCore k x).reports = s.reports := rfl
@[simp] theorem State.setCore_appDown : (s.setCore k x).appDown = s.appDown := rfl
@[simp] theorem State.setCore_appHeld : (s.setCore k x).appHeld = s.appHeld := rfl
@[simp] theorem State.setCore_completions : (s.setCore k x).completions = s.completions := rfl
@[simp] theorem State.setCore_ages : (s.setCore k x).ages = s.ages := rfl
@[simp] theorem State.setCore_groupIds : (s.setCore k x).groupIds = s.groupIds := rfl
@[simp] theorem State.setCore_ctxNext : (s.setCore k x).ctxNext = s.ctxNext := rfl
@[simp] theorem State.setCore_firmware : (s.setCore k x).firmware = s.firmware := rfl
@[simp] theorem State.setCore_dies : (s.setCore k x).dies = s.dies := rfl
@[simp] theorem State.setCore_cores : (s.setCore k x).cores = kset s.cores k x := rfl
@[simp] theorem State.setCore_parts : (s.setCore k x).parts = s.parts := rfl
@[simp] theorem State.setCore_fws : (s.setCore k x).fws = s.fws := rfl
@[simp] theorem State.setCore_grids : (s.setCore k x).grids = s.grids := rfl
@[simp] theorem State.setCore_gangs : (s.setCore k x).gangs = s.gangs := rfl
@[simp] theorem State.setCore_wgs : (s.setCore k x).wgs = s.wgs := rfl
@[simp] theorem State.setCore_sheaves : (s.setCore k x).sheaves = s.sheaves := rfl
@[simp] theorem State.setCore_opq : (s.setCore k x).opq = s.opq := rfl
@[simp] theorem State.setCore_accs : (s.setCore k x).accs = s.accs := rfl
@[simp] theorem State.setCore_copies : (s.setCore k x).copies = s.copies := rfl
@[simp] theorem State.setCore_tops : (s.setCore k x).tops = s.tops := rfl
@[simp] theorem State.setCore_tiles : (s.setCore k x).tiles = s.tiles := rfl
@[simp] theorem State.setCore_queues : (s.setCore k x).queues = s.queues := rfl
@[simp] theorem State.setCore_windows : (s.setCore k x).windows = s.windows := rfl
@[simp] theorem State.setCore_joins : (s.setCore k x).joins = s.joins := rfl

end

/-! ### `State.setDie` -/

section
variable (s : State) (k : Nat) (x : Die)

@[simp] theorem State.setDie_agenda : (s.setDie k x).agenda = s.agenda := rfl
@[simp] theorem State.setDie_cur : (s.setDie k x).cur = s.cur := rfl
@[simp] theorem State.setDie_word : (s.setDie k x).word = s.word := rfl
@[simp] theorem State.setDie_free : (s.setDie k x).free = s.free := rfl
@[simp] theorem State.setDie_nextKey : (s.setDie k x).nextKey = s.nextKey := rfl
@[simp] theorem State.setDie_served : (s.setDie k x).served = s.served := rfl
@[simp] theorem State.setDie_code : (s.setDie k x).code = s.code := rfl
@[simp] theorem State.setDie_cycle : (s.setDie k x).cycle = s.cycle := rfl
@[simp] theorem State.setDie_clock : (s.setDie k x).clock = s.clock := rfl
@[simp] theorem State.setDie_floorClock : (s.setDie k x).floorClock = s.floorClock := rfl
@[simp] theorem State.setDie_budget : (s.setDie k x).budget = s.budget := rfl
@[simp] theorem State.setDie_mem : (s.setDie k x).mem = s.mem := rfl
@[simp] theorem State.setDie_roots : (s.setDie k x).roots = s.roots := rfl
@[simp] theorem State.setDie_paged : (s.setDie k x).paged = s.paged := rfl
@[simp] theorem State.setDie_tlb : (s.setDie k x).tlb = s.tlb := rfl
@[simp] theorem State.setDie_shoots : (s.setDie k x).shoots = s.shoots := rfl
@[simp] theorem State.setDie_device : (s.setDie k x).device = s.device := rfl
@[simp] theorem State.setDie_devid : (s.setDie k x).devid = s.devid := rfl
@[simp] theorem State.setDie_routes : (s.setDie k x).routes = s.routes := rfl
@[simp] theorem State.setDie_linksDown : (s.setDie k x).linksDown = s.linksDown := rfl
@[simp] theorem State.setDie_remotes : (s.setDie k x).remotes = s.remotes := rfl
@[simp] theorem State.setDie_ethFor : (s.setDie k x).ethFor = s.ethFor := rfl
@[simp] theorem State.setDie_ethDown : (s.setDie k x).ethDown = s.ethDown := rfl
@[simp] theorem State.setDie_tai : (s.setDie k x).tai = s.tai := rfl
@[simp] theorem State.setDie_disciplined : (s.setDie k x).disciplined = s.disciplined := rfl
@[simp] theorem State.setDie_slew : (s.setDie k x).slew = s.slew := rfl
@[simp] theorem State.setDie_paced : (s.setDie k x).paced = s.paced := rfl
@[simp] theorem State.setDie_nvme : (s.setDie k x).nvme = s.nvme := rfl
@[simp] theorem State.setDie_ready : (s.setDie k x).ready = s.ready := rfl
@[simp] theorem State.setDie_retired : (s.setDie k x).retired = s.retired := rfl
@[simp] theorem State.setDie_repl : (s.setDie k x).repl = s.repl := rfl
@[simp] theorem State.setDie_cause : (s.setDie k x).cause = s.cause := rfl
@[simp] theorem State.setDie_spareFrames : (s.setDie k x).spareFrames = s.spareFrames := rfl
@[simp] theorem State.setDie_framesMoved : (s.setDie k x).framesMoved = s.framesMoved := rfl
@[simp] theorem State.setDie_reports : (s.setDie k x).reports = s.reports := rfl
@[simp] theorem State.setDie_appDown : (s.setDie k x).appDown = s.appDown := rfl
@[simp] theorem State.setDie_appHeld : (s.setDie k x).appHeld = s.appHeld := rfl
@[simp] theorem State.setDie_completions : (s.setDie k x).completions = s.completions := rfl
@[simp] theorem State.setDie_ages : (s.setDie k x).ages = s.ages := rfl
@[simp] theorem State.setDie_groupIds : (s.setDie k x).groupIds = s.groupIds := rfl
@[simp] theorem State.setDie_ctxNext : (s.setDie k x).ctxNext = s.ctxNext := rfl
@[simp] theorem State.setDie_firmware : (s.setDie k x).firmware = s.firmware := rfl
@[simp] theorem State.setDie_dies : (s.setDie k x).dies = kset s.dies k x := rfl
@[simp] theorem State.setDie_cores : (s.setDie k x).cores = s.cores := rfl
@[simp] theorem State.setDie_parts : (s.setDie k x).parts = s.parts := rfl
@[simp] theorem State.setDie_fws : (s.setDie k x).fws = s.fws := rfl
@[simp] theorem State.setDie_grids : (s.setDie k x).grids = s.grids := rfl
@[simp] theorem State.setDie_gangs : (s.setDie k x).gangs = s.gangs := rfl
@[simp] theorem State.setDie_wgs : (s.setDie k x).wgs = s.wgs := rfl
@[simp] theorem State.setDie_sheaves : (s.setDie k x).sheaves = s.sheaves := rfl
@[simp] theorem State.setDie_opq : (s.setDie k x).opq = s.opq := rfl
@[simp] theorem State.setDie_accs : (s.setDie k x).accs = s.accs := rfl
@[simp] theorem State.setDie_copies : (s.setDie k x).copies = s.copies := rfl
@[simp] theorem State.setDie_tops : (s.setDie k x).tops = s.tops := rfl
@[simp] theorem State.setDie_tiles : (s.setDie k x).tiles = s.tiles := rfl
@[simp] theorem State.setDie_queues : (s.setDie k x).queues = s.queues := rfl
@[simp] theorem State.setDie_windows : (s.setDie k x).windows = s.windows := rfl
@[simp] theorem State.setDie_joins : (s.setDie k x).joins = s.joins := rfl

end

/-! ### `State.setPart` -/

section
variable (s : State) (k : Nat) (x : Partition)

@[simp] theorem State.setPart_agenda : (s.setPart k x).agenda = s.agenda := rfl
@[simp] theorem State.setPart_cur : (s.setPart k x).cur = s.cur := rfl
@[simp] theorem State.setPart_word : (s.setPart k x).word = s.word := rfl
@[simp] theorem State.setPart_free : (s.setPart k x).free = s.free := rfl
@[simp] theorem State.setPart_nextKey : (s.setPart k x).nextKey = s.nextKey := rfl
@[simp] theorem State.setPart_served : (s.setPart k x).served = s.served := rfl
@[simp] theorem State.setPart_code : (s.setPart k x).code = s.code := rfl
@[simp] theorem State.setPart_cycle : (s.setPart k x).cycle = s.cycle := rfl
@[simp] theorem State.setPart_clock : (s.setPart k x).clock = s.clock := rfl
@[simp] theorem State.setPart_floorClock : (s.setPart k x).floorClock = s.floorClock := rfl
@[simp] theorem State.setPart_budget : (s.setPart k x).budget = s.budget := rfl
@[simp] theorem State.setPart_mem : (s.setPart k x).mem = s.mem := rfl
@[simp] theorem State.setPart_roots : (s.setPart k x).roots = s.roots := rfl
@[simp] theorem State.setPart_paged : (s.setPart k x).paged = s.paged := rfl
@[simp] theorem State.setPart_tlb : (s.setPart k x).tlb = s.tlb := rfl
@[simp] theorem State.setPart_shoots : (s.setPart k x).shoots = s.shoots := rfl
@[simp] theorem State.setPart_device : (s.setPart k x).device = s.device := rfl
@[simp] theorem State.setPart_devid : (s.setPart k x).devid = s.devid := rfl
@[simp] theorem State.setPart_routes : (s.setPart k x).routes = s.routes := rfl
@[simp] theorem State.setPart_linksDown : (s.setPart k x).linksDown = s.linksDown := rfl
@[simp] theorem State.setPart_remotes : (s.setPart k x).remotes = s.remotes := rfl
@[simp] theorem State.setPart_ethFor : (s.setPart k x).ethFor = s.ethFor := rfl
@[simp] theorem State.setPart_ethDown : (s.setPart k x).ethDown = s.ethDown := rfl
@[simp] theorem State.setPart_tai : (s.setPart k x).tai = s.tai := rfl
@[simp] theorem State.setPart_disciplined : (s.setPart k x).disciplined = s.disciplined := rfl
@[simp] theorem State.setPart_slew : (s.setPart k x).slew = s.slew := rfl
@[simp] theorem State.setPart_paced : (s.setPart k x).paced = s.paced := rfl
@[simp] theorem State.setPart_nvme : (s.setPart k x).nvme = s.nvme := rfl
@[simp] theorem State.setPart_ready : (s.setPart k x).ready = s.ready := rfl
@[simp] theorem State.setPart_retired : (s.setPart k x).retired = s.retired := rfl
@[simp] theorem State.setPart_repl : (s.setPart k x).repl = s.repl := rfl
@[simp] theorem State.setPart_cause : (s.setPart k x).cause = s.cause := rfl
@[simp] theorem State.setPart_spareFrames : (s.setPart k x).spareFrames = s.spareFrames := rfl
@[simp] theorem State.setPart_framesMoved : (s.setPart k x).framesMoved = s.framesMoved := rfl
@[simp] theorem State.setPart_reports : (s.setPart k x).reports = s.reports := rfl
@[simp] theorem State.setPart_appDown : (s.setPart k x).appDown = s.appDown := rfl
@[simp] theorem State.setPart_appHeld : (s.setPart k x).appHeld = s.appHeld := rfl
@[simp] theorem State.setPart_completions : (s.setPart k x).completions = s.completions := rfl
@[simp] theorem State.setPart_ages : (s.setPart k x).ages = s.ages := rfl
@[simp] theorem State.setPart_groupIds : (s.setPart k x).groupIds = s.groupIds := rfl
@[simp] theorem State.setPart_ctxNext : (s.setPart k x).ctxNext = s.ctxNext := rfl
@[simp] theorem State.setPart_firmware : (s.setPart k x).firmware = s.firmware := rfl
@[simp] theorem State.setPart_dies : (s.setPart k x).dies = s.dies := rfl
@[simp] theorem State.setPart_cores : (s.setPart k x).cores = s.cores := rfl
@[simp] theorem State.setPart_parts : (s.setPart k x).parts = kset s.parts k x := rfl
@[simp] theorem State.setPart_fws : (s.setPart k x).fws = s.fws := rfl
@[simp] theorem State.setPart_grids : (s.setPart k x).grids = s.grids := rfl
@[simp] theorem State.setPart_gangs : (s.setPart k x).gangs = s.gangs := rfl
@[simp] theorem State.setPart_wgs : (s.setPart k x).wgs = s.wgs := rfl
@[simp] theorem State.setPart_sheaves : (s.setPart k x).sheaves = s.sheaves := rfl
@[simp] theorem State.setPart_opq : (s.setPart k x).opq = s.opq := rfl
@[simp] theorem State.setPart_accs : (s.setPart k x).accs = s.accs := rfl
@[simp] theorem State.setPart_copies : (s.setPart k x).copies = s.copies := rfl
@[simp] theorem State.setPart_tops : (s.setPart k x).tops = s.tops := rfl
@[simp] theorem State.setPart_tiles : (s.setPart k x).tiles = s.tiles := rfl
@[simp] theorem State.setPart_queues : (s.setPart k x).queues = s.queues := rfl
@[simp] theorem State.setPart_windows : (s.setPart k x).windows = s.windows := rfl
@[simp] theorem State.setPart_joins : (s.setPart k x).joins = s.joins := rfl

end

/-! ### `State.setFw` -/

section
variable (s : State) (k : Nat) (x : FwCore)

@[simp] theorem State.setFw_agenda : (s.setFw k x).agenda = s.agenda := rfl
@[simp] theorem State.setFw_cur : (s.setFw k x).cur = s.cur := rfl
@[simp] theorem State.setFw_word : (s.setFw k x).word = s.word := rfl
@[simp] theorem State.setFw_free : (s.setFw k x).free = s.free := rfl
@[simp] theorem State.setFw_nextKey : (s.setFw k x).nextKey = s.nextKey := rfl
@[simp] theorem State.setFw_served : (s.setFw k x).served = s.served := rfl
@[simp] theorem State.setFw_code : (s.setFw k x).code = s.code := rfl
@[simp] theorem State.setFw_cycle : (s.setFw k x).cycle = s.cycle := rfl
@[simp] theorem State.setFw_clock : (s.setFw k x).clock = s.clock := rfl
@[simp] theorem State.setFw_floorClock : (s.setFw k x).floorClock = s.floorClock := rfl
@[simp] theorem State.setFw_budget : (s.setFw k x).budget = s.budget := rfl
@[simp] theorem State.setFw_mem : (s.setFw k x).mem = s.mem := rfl
@[simp] theorem State.setFw_roots : (s.setFw k x).roots = s.roots := rfl
@[simp] theorem State.setFw_paged : (s.setFw k x).paged = s.paged := rfl
@[simp] theorem State.setFw_tlb : (s.setFw k x).tlb = s.tlb := rfl
@[simp] theorem State.setFw_shoots : (s.setFw k x).shoots = s.shoots := rfl
@[simp] theorem State.setFw_device : (s.setFw k x).device = s.device := rfl
@[simp] theorem State.setFw_devid : (s.setFw k x).devid = s.devid := rfl
@[simp] theorem State.setFw_routes : (s.setFw k x).routes = s.routes := rfl
@[simp] theorem State.setFw_linksDown : (s.setFw k x).linksDown = s.linksDown := rfl
@[simp] theorem State.setFw_remotes : (s.setFw k x).remotes = s.remotes := rfl
@[simp] theorem State.setFw_ethFor : (s.setFw k x).ethFor = s.ethFor := rfl
@[simp] theorem State.setFw_ethDown : (s.setFw k x).ethDown = s.ethDown := rfl
@[simp] theorem State.setFw_tai : (s.setFw k x).tai = s.tai := rfl
@[simp] theorem State.setFw_disciplined : (s.setFw k x).disciplined = s.disciplined := rfl
@[simp] theorem State.setFw_slew : (s.setFw k x).slew = s.slew := rfl
@[simp] theorem State.setFw_paced : (s.setFw k x).paced = s.paced := rfl
@[simp] theorem State.setFw_nvme : (s.setFw k x).nvme = s.nvme := rfl
@[simp] theorem State.setFw_ready : (s.setFw k x).ready = s.ready := rfl
@[simp] theorem State.setFw_retired : (s.setFw k x).retired = s.retired := rfl
@[simp] theorem State.setFw_repl : (s.setFw k x).repl = s.repl := rfl
@[simp] theorem State.setFw_cause : (s.setFw k x).cause = s.cause := rfl
@[simp] theorem State.setFw_spareFrames : (s.setFw k x).spareFrames = s.spareFrames := rfl
@[simp] theorem State.setFw_framesMoved : (s.setFw k x).framesMoved = s.framesMoved := rfl
@[simp] theorem State.setFw_reports : (s.setFw k x).reports = s.reports := rfl
@[simp] theorem State.setFw_appDown : (s.setFw k x).appDown = s.appDown := rfl
@[simp] theorem State.setFw_appHeld : (s.setFw k x).appHeld = s.appHeld := rfl
@[simp] theorem State.setFw_completions : (s.setFw k x).completions = s.completions := rfl
@[simp] theorem State.setFw_ages : (s.setFw k x).ages = s.ages := rfl
@[simp] theorem State.setFw_groupIds : (s.setFw k x).groupIds = s.groupIds := rfl
@[simp] theorem State.setFw_ctxNext : (s.setFw k x).ctxNext = s.ctxNext := rfl
@[simp] theorem State.setFw_firmware : (s.setFw k x).firmware = s.firmware := rfl
@[simp] theorem State.setFw_dies : (s.setFw k x).dies = s.dies := rfl
@[simp] theorem State.setFw_cores : (s.setFw k x).cores = s.cores := rfl
@[simp] theorem State.setFw_parts : (s.setFw k x).parts = s.parts := rfl
@[simp] theorem State.setFw_fws : (s.setFw k x).fws = kset s.fws k x := rfl
@[simp] theorem State.setFw_grids : (s.setFw k x).grids = s.grids := rfl
@[simp] theorem State.setFw_gangs : (s.setFw k x).gangs = s.gangs := rfl
@[simp] theorem State.setFw_wgs : (s.setFw k x).wgs = s.wgs := rfl
@[simp] theorem State.setFw_sheaves : (s.setFw k x).sheaves = s.sheaves := rfl
@[simp] theorem State.setFw_opq : (s.setFw k x).opq = s.opq := rfl
@[simp] theorem State.setFw_accs : (s.setFw k x).accs = s.accs := rfl
@[simp] theorem State.setFw_copies : (s.setFw k x).copies = s.copies := rfl
@[simp] theorem State.setFw_tops : (s.setFw k x).tops = s.tops := rfl
@[simp] theorem State.setFw_tiles : (s.setFw k x).tiles = s.tiles := rfl
@[simp] theorem State.setFw_queues : (s.setFw k x).queues = s.queues := rfl
@[simp] theorem State.setFw_windows : (s.setFw k x).windows = s.windows := rfl
@[simp] theorem State.setFw_joins : (s.setFw k x).joins = s.joins := rfl

end

/-! ### `State.setSheaf` -/

section
variable (s : State) (k : Nat) (x : Sheaf)

@[simp] theorem State.setSheaf_agenda : (s.setSheaf k x).agenda = s.agenda := rfl
@[simp] theorem State.setSheaf_cur : (s.setSheaf k x).cur = s.cur := rfl
@[simp] theorem State.setSheaf_word : (s.setSheaf k x).word = s.word := rfl
@[simp] theorem State.setSheaf_free : (s.setSheaf k x).free = s.free := rfl
@[simp] theorem State.setSheaf_nextKey : (s.setSheaf k x).nextKey = s.nextKey := rfl
@[simp] theorem State.setSheaf_served : (s.setSheaf k x).served = s.served := rfl
@[simp] theorem State.setSheaf_code : (s.setSheaf k x).code = s.code := rfl
@[simp] theorem State.setSheaf_cycle : (s.setSheaf k x).cycle = s.cycle := rfl
@[simp] theorem State.setSheaf_clock : (s.setSheaf k x).clock = s.clock := rfl
@[simp] theorem State.setSheaf_floorClock : (s.setSheaf k x).floorClock = s.floorClock := rfl
@[simp] theorem State.setSheaf_budget : (s.setSheaf k x).budget = s.budget := rfl
@[simp] theorem State.setSheaf_mem : (s.setSheaf k x).mem = s.mem := rfl
@[simp] theorem State.setSheaf_roots : (s.setSheaf k x).roots = s.roots := rfl
@[simp] theorem State.setSheaf_paged : (s.setSheaf k x).paged = s.paged := rfl
@[simp] theorem State.setSheaf_tlb : (s.setSheaf k x).tlb = s.tlb := rfl
@[simp] theorem State.setSheaf_shoots : (s.setSheaf k x).shoots = s.shoots := rfl
@[simp] theorem State.setSheaf_device : (s.setSheaf k x).device = s.device := rfl
@[simp] theorem State.setSheaf_devid : (s.setSheaf k x).devid = s.devid := rfl
@[simp] theorem State.setSheaf_routes : (s.setSheaf k x).routes = s.routes := rfl
@[simp] theorem State.setSheaf_linksDown : (s.setSheaf k x).linksDown = s.linksDown := rfl
@[simp] theorem State.setSheaf_remotes : (s.setSheaf k x).remotes = s.remotes := rfl
@[simp] theorem State.setSheaf_ethFor : (s.setSheaf k x).ethFor = s.ethFor := rfl
@[simp] theorem State.setSheaf_ethDown : (s.setSheaf k x).ethDown = s.ethDown := rfl
@[simp] theorem State.setSheaf_tai : (s.setSheaf k x).tai = s.tai := rfl
@[simp] theorem State.setSheaf_disciplined : (s.setSheaf k x).disciplined = s.disciplined := rfl
@[simp] theorem State.setSheaf_slew : (s.setSheaf k x).slew = s.slew := rfl
@[simp] theorem State.setSheaf_paced : (s.setSheaf k x).paced = s.paced := rfl
@[simp] theorem State.setSheaf_nvme : (s.setSheaf k x).nvme = s.nvme := rfl
@[simp] theorem State.setSheaf_ready : (s.setSheaf k x).ready = s.ready := rfl
@[simp] theorem State.setSheaf_retired : (s.setSheaf k x).retired = s.retired := rfl
@[simp] theorem State.setSheaf_repl : (s.setSheaf k x).repl = s.repl := rfl
@[simp] theorem State.setSheaf_cause : (s.setSheaf k x).cause = s.cause := rfl
@[simp] theorem State.setSheaf_spareFrames : (s.setSheaf k x).spareFrames = s.spareFrames := rfl
@[simp] theorem State.setSheaf_framesMoved : (s.setSheaf k x).framesMoved = s.framesMoved := rfl
@[simp] theorem State.setSheaf_reports : (s.setSheaf k x).reports = s.reports := rfl
@[simp] theorem State.setSheaf_appDown : (s.setSheaf k x).appDown = s.appDown := rfl
@[simp] theorem State.setSheaf_appHeld : (s.setSheaf k x).appHeld = s.appHeld := rfl
@[simp] theorem State.setSheaf_completions : (s.setSheaf k x).completions = s.completions := rfl
@[simp] theorem State.setSheaf_ages : (s.setSheaf k x).ages = s.ages := rfl
@[simp] theorem State.setSheaf_groupIds : (s.setSheaf k x).groupIds = s.groupIds := rfl
@[simp] theorem State.setSheaf_ctxNext : (s.setSheaf k x).ctxNext = s.ctxNext := rfl
@[simp] theorem State.setSheaf_firmware : (s.setSheaf k x).firmware = s.firmware := rfl
@[simp] theorem State.setSheaf_dies : (s.setSheaf k x).dies = s.dies := rfl
@[simp] theorem State.setSheaf_cores : (s.setSheaf k x).cores = s.cores := rfl
@[simp] theorem State.setSheaf_parts : (s.setSheaf k x).parts = s.parts := rfl
@[simp] theorem State.setSheaf_fws : (s.setSheaf k x).fws = s.fws := rfl
@[simp] theorem State.setSheaf_grids : (s.setSheaf k x).grids = s.grids := rfl
@[simp] theorem State.setSheaf_gangs : (s.setSheaf k x).gangs = s.gangs := rfl
@[simp] theorem State.setSheaf_wgs : (s.setSheaf k x).wgs = s.wgs := rfl
@[simp] theorem State.setSheaf_sheaves : (s.setSheaf k x).sheaves = kset s.sheaves k x := rfl
@[simp] theorem State.setSheaf_opq : (s.setSheaf k x).opq = s.opq := rfl
@[simp] theorem State.setSheaf_accs : (s.setSheaf k x).accs = s.accs := rfl
@[simp] theorem State.setSheaf_copies : (s.setSheaf k x).copies = s.copies := rfl
@[simp] theorem State.setSheaf_tops : (s.setSheaf k x).tops = s.tops := rfl
@[simp] theorem State.setSheaf_tiles : (s.setSheaf k x).tiles = s.tiles := rfl
@[simp] theorem State.setSheaf_queues : (s.setSheaf k x).queues = s.queues := rfl
@[simp] theorem State.setSheaf_windows : (s.setSheaf k x).windows = s.windows := rfl
@[simp] theorem State.setSheaf_joins : (s.setSheaf k x).joins = s.joins := rfl

end

/-! ### `State.setWg` -/

section
variable (s : State) (k : Nat) (x : Workgroup)

@[simp] theorem State.setWg_agenda : (s.setWg k x).agenda = s.agenda := rfl
@[simp] theorem State.setWg_cur : (s.setWg k x).cur = s.cur := rfl
@[simp] theorem State.setWg_word : (s.setWg k x).word = s.word := rfl
@[simp] theorem State.setWg_free : (s.setWg k x).free = s.free := rfl
@[simp] theorem State.setWg_nextKey : (s.setWg k x).nextKey = s.nextKey := rfl
@[simp] theorem State.setWg_served : (s.setWg k x).served = s.served := rfl
@[simp] theorem State.setWg_code : (s.setWg k x).code = s.code := rfl
@[simp] theorem State.setWg_cycle : (s.setWg k x).cycle = s.cycle := rfl
@[simp] theorem State.setWg_clock : (s.setWg k x).clock = s.clock := rfl
@[simp] theorem State.setWg_floorClock : (s.setWg k x).floorClock = s.floorClock := rfl
@[simp] theorem State.setWg_budget : (s.setWg k x).budget = s.budget := rfl
@[simp] theorem State.setWg_mem : (s.setWg k x).mem = s.mem := rfl
@[simp] theorem State.setWg_roots : (s.setWg k x).roots = s.roots := rfl
@[simp] theorem State.setWg_paged : (s.setWg k x).paged = s.paged := rfl
@[simp] theorem State.setWg_tlb : (s.setWg k x).tlb = s.tlb := rfl
@[simp] theorem State.setWg_shoots : (s.setWg k x).shoots = s.shoots := rfl
@[simp] theorem State.setWg_device : (s.setWg k x).device = s.device := rfl
@[simp] theorem State.setWg_devid : (s.setWg k x).devid = s.devid := rfl
@[simp] theorem State.setWg_routes : (s.setWg k x).routes = s.routes := rfl
@[simp] theorem State.setWg_linksDown : (s.setWg k x).linksDown = s.linksDown := rfl
@[simp] theorem State.setWg_remotes : (s.setWg k x).remotes = s.remotes := rfl
@[simp] theorem State.setWg_ethFor : (s.setWg k x).ethFor = s.ethFor := rfl
@[simp] theorem State.setWg_ethDown : (s.setWg k x).ethDown = s.ethDown := rfl
@[simp] theorem State.setWg_tai : (s.setWg k x).tai = s.tai := rfl
@[simp] theorem State.setWg_disciplined : (s.setWg k x).disciplined = s.disciplined := rfl
@[simp] theorem State.setWg_slew : (s.setWg k x).slew = s.slew := rfl
@[simp] theorem State.setWg_paced : (s.setWg k x).paced = s.paced := rfl
@[simp] theorem State.setWg_nvme : (s.setWg k x).nvme = s.nvme := rfl
@[simp] theorem State.setWg_ready : (s.setWg k x).ready = s.ready := rfl
@[simp] theorem State.setWg_retired : (s.setWg k x).retired = s.retired := rfl
@[simp] theorem State.setWg_repl : (s.setWg k x).repl = s.repl := rfl
@[simp] theorem State.setWg_cause : (s.setWg k x).cause = s.cause := rfl
@[simp] theorem State.setWg_spareFrames : (s.setWg k x).spareFrames = s.spareFrames := rfl
@[simp] theorem State.setWg_framesMoved : (s.setWg k x).framesMoved = s.framesMoved := rfl
@[simp] theorem State.setWg_reports : (s.setWg k x).reports = s.reports := rfl
@[simp] theorem State.setWg_appDown : (s.setWg k x).appDown = s.appDown := rfl
@[simp] theorem State.setWg_appHeld : (s.setWg k x).appHeld = s.appHeld := rfl
@[simp] theorem State.setWg_completions : (s.setWg k x).completions = s.completions := rfl
@[simp] theorem State.setWg_ages : (s.setWg k x).ages = s.ages := rfl
@[simp] theorem State.setWg_groupIds : (s.setWg k x).groupIds = s.groupIds := rfl
@[simp] theorem State.setWg_ctxNext : (s.setWg k x).ctxNext = s.ctxNext := rfl
@[simp] theorem State.setWg_firmware : (s.setWg k x).firmware = s.firmware := rfl
@[simp] theorem State.setWg_dies : (s.setWg k x).dies = s.dies := rfl
@[simp] theorem State.setWg_cores : (s.setWg k x).cores = s.cores := rfl
@[simp] theorem State.setWg_parts : (s.setWg k x).parts = s.parts := rfl
@[simp] theorem State.setWg_fws : (s.setWg k x).fws = s.fws := rfl
@[simp] theorem State.setWg_grids : (s.setWg k x).grids = s.grids := rfl
@[simp] theorem State.setWg_gangs : (s.setWg k x).gangs = s.gangs := rfl
@[simp] theorem State.setWg_wgs : (s.setWg k x).wgs = kset s.wgs k x := rfl
@[simp] theorem State.setWg_sheaves : (s.setWg k x).sheaves = s.sheaves := rfl
@[simp] theorem State.setWg_opq : (s.setWg k x).opq = s.opq := rfl
@[simp] theorem State.setWg_accs : (s.setWg k x).accs = s.accs := rfl
@[simp] theorem State.setWg_copies : (s.setWg k x).copies = s.copies := rfl
@[simp] theorem State.setWg_tops : (s.setWg k x).tops = s.tops := rfl
@[simp] theorem State.setWg_tiles : (s.setWg k x).tiles = s.tiles := rfl
@[simp] theorem State.setWg_queues : (s.setWg k x).queues = s.queues := rfl
@[simp] theorem State.setWg_windows : (s.setWg k x).windows = s.windows := rfl
@[simp] theorem State.setWg_joins : (s.setWg k x).joins = s.joins := rfl

end

/-! ### `State.setGang` -/

section
variable (s : State) (k : Nat) (x : Gang)

@[simp] theorem State.setGang_agenda : (s.setGang k x).agenda = s.agenda := rfl
@[simp] theorem State.setGang_cur : (s.setGang k x).cur = s.cur := rfl
@[simp] theorem State.setGang_word : (s.setGang k x).word = s.word := rfl
@[simp] theorem State.setGang_free : (s.setGang k x).free = s.free := rfl
@[simp] theorem State.setGang_nextKey : (s.setGang k x).nextKey = s.nextKey := rfl
@[simp] theorem State.setGang_served : (s.setGang k x).served = s.served := rfl
@[simp] theorem State.setGang_code : (s.setGang k x).code = s.code := rfl
@[simp] theorem State.setGang_cycle : (s.setGang k x).cycle = s.cycle := rfl
@[simp] theorem State.setGang_clock : (s.setGang k x).clock = s.clock := rfl
@[simp] theorem State.setGang_floorClock : (s.setGang k x).floorClock = s.floorClock := rfl
@[simp] theorem State.setGang_budget : (s.setGang k x).budget = s.budget := rfl
@[simp] theorem State.setGang_mem : (s.setGang k x).mem = s.mem := rfl
@[simp] theorem State.setGang_roots : (s.setGang k x).roots = s.roots := rfl
@[simp] theorem State.setGang_paged : (s.setGang k x).paged = s.paged := rfl
@[simp] theorem State.setGang_tlb : (s.setGang k x).tlb = s.tlb := rfl
@[simp] theorem State.setGang_shoots : (s.setGang k x).shoots = s.shoots := rfl
@[simp] theorem State.setGang_device : (s.setGang k x).device = s.device := rfl
@[simp] theorem State.setGang_devid : (s.setGang k x).devid = s.devid := rfl
@[simp] theorem State.setGang_routes : (s.setGang k x).routes = s.routes := rfl
@[simp] theorem State.setGang_linksDown : (s.setGang k x).linksDown = s.linksDown := rfl
@[simp] theorem State.setGang_remotes : (s.setGang k x).remotes = s.remotes := rfl
@[simp] theorem State.setGang_ethFor : (s.setGang k x).ethFor = s.ethFor := rfl
@[simp] theorem State.setGang_ethDown : (s.setGang k x).ethDown = s.ethDown := rfl
@[simp] theorem State.setGang_tai : (s.setGang k x).tai = s.tai := rfl
@[simp] theorem State.setGang_disciplined : (s.setGang k x).disciplined = s.disciplined := rfl
@[simp] theorem State.setGang_slew : (s.setGang k x).slew = s.slew := rfl
@[simp] theorem State.setGang_paced : (s.setGang k x).paced = s.paced := rfl
@[simp] theorem State.setGang_nvme : (s.setGang k x).nvme = s.nvme := rfl
@[simp] theorem State.setGang_ready : (s.setGang k x).ready = s.ready := rfl
@[simp] theorem State.setGang_retired : (s.setGang k x).retired = s.retired := rfl
@[simp] theorem State.setGang_repl : (s.setGang k x).repl = s.repl := rfl
@[simp] theorem State.setGang_cause : (s.setGang k x).cause = s.cause := rfl
@[simp] theorem State.setGang_spareFrames : (s.setGang k x).spareFrames = s.spareFrames := rfl
@[simp] theorem State.setGang_framesMoved : (s.setGang k x).framesMoved = s.framesMoved := rfl
@[simp] theorem State.setGang_reports : (s.setGang k x).reports = s.reports := rfl
@[simp] theorem State.setGang_appDown : (s.setGang k x).appDown = s.appDown := rfl
@[simp] theorem State.setGang_appHeld : (s.setGang k x).appHeld = s.appHeld := rfl
@[simp] theorem State.setGang_completions : (s.setGang k x).completions = s.completions := rfl
@[simp] theorem State.setGang_ages : (s.setGang k x).ages = s.ages := rfl
@[simp] theorem State.setGang_groupIds : (s.setGang k x).groupIds = s.groupIds := rfl
@[simp] theorem State.setGang_ctxNext : (s.setGang k x).ctxNext = s.ctxNext := rfl
@[simp] theorem State.setGang_firmware : (s.setGang k x).firmware = s.firmware := rfl
@[simp] theorem State.setGang_dies : (s.setGang k x).dies = s.dies := rfl
@[simp] theorem State.setGang_cores : (s.setGang k x).cores = s.cores := rfl
@[simp] theorem State.setGang_parts : (s.setGang k x).parts = s.parts := rfl
@[simp] theorem State.setGang_fws : (s.setGang k x).fws = s.fws := rfl
@[simp] theorem State.setGang_grids : (s.setGang k x).grids = s.grids := rfl
@[simp] theorem State.setGang_gangs : (s.setGang k x).gangs = kset s.gangs k x := rfl
@[simp] theorem State.setGang_wgs : (s.setGang k x).wgs = s.wgs := rfl
@[simp] theorem State.setGang_sheaves : (s.setGang k x).sheaves = s.sheaves := rfl
@[simp] theorem State.setGang_opq : (s.setGang k x).opq = s.opq := rfl
@[simp] theorem State.setGang_accs : (s.setGang k x).accs = s.accs := rfl
@[simp] theorem State.setGang_copies : (s.setGang k x).copies = s.copies := rfl
@[simp] theorem State.setGang_tops : (s.setGang k x).tops = s.tops := rfl
@[simp] theorem State.setGang_tiles : (s.setGang k x).tiles = s.tiles := rfl
@[simp] theorem State.setGang_queues : (s.setGang k x).queues = s.queues := rfl
@[simp] theorem State.setGang_windows : (s.setGang k x).windows = s.windows := rfl
@[simp] theorem State.setGang_joins : (s.setGang k x).joins = s.joins := rfl

end

/-! ### `State.setGrid` -/

section
variable (s : State) (k : Nat) (x : Grid)

@[simp] theorem State.setGrid_agenda : (s.setGrid k x).agenda = s.agenda := rfl
@[simp] theorem State.setGrid_cur : (s.setGrid k x).cur = s.cur := rfl
@[simp] theorem State.setGrid_word : (s.setGrid k x).word = s.word := rfl
@[simp] theorem State.setGrid_free : (s.setGrid k x).free = s.free := rfl
@[simp] theorem State.setGrid_nextKey : (s.setGrid k x).nextKey = s.nextKey := rfl
@[simp] theorem State.setGrid_served : (s.setGrid k x).served = s.served := rfl
@[simp] theorem State.setGrid_code : (s.setGrid k x).code = s.code := rfl
@[simp] theorem State.setGrid_cycle : (s.setGrid k x).cycle = s.cycle := rfl
@[simp] theorem State.setGrid_clock : (s.setGrid k x).clock = s.clock := rfl
@[simp] theorem State.setGrid_floorClock : (s.setGrid k x).floorClock = s.floorClock := rfl
@[simp] theorem State.setGrid_budget : (s.setGrid k x).budget = s.budget := rfl
@[simp] theorem State.setGrid_mem : (s.setGrid k x).mem = s.mem := rfl
@[simp] theorem State.setGrid_roots : (s.setGrid k x).roots = s.roots := rfl
@[simp] theorem State.setGrid_paged : (s.setGrid k x).paged = s.paged := rfl
@[simp] theorem State.setGrid_tlb : (s.setGrid k x).tlb = s.tlb := rfl
@[simp] theorem State.setGrid_shoots : (s.setGrid k x).shoots = s.shoots := rfl
@[simp] theorem State.setGrid_device : (s.setGrid k x).device = s.device := rfl
@[simp] theorem State.setGrid_devid : (s.setGrid k x).devid = s.devid := rfl
@[simp] theorem State.setGrid_routes : (s.setGrid k x).routes = s.routes := rfl
@[simp] theorem State.setGrid_linksDown : (s.setGrid k x).linksDown = s.linksDown := rfl
@[simp] theorem State.setGrid_remotes : (s.setGrid k x).remotes = s.remotes := rfl
@[simp] theorem State.setGrid_ethFor : (s.setGrid k x).ethFor = s.ethFor := rfl
@[simp] theorem State.setGrid_ethDown : (s.setGrid k x).ethDown = s.ethDown := rfl
@[simp] theorem State.setGrid_tai : (s.setGrid k x).tai = s.tai := rfl
@[simp] theorem State.setGrid_disciplined : (s.setGrid k x).disciplined = s.disciplined := rfl
@[simp] theorem State.setGrid_slew : (s.setGrid k x).slew = s.slew := rfl
@[simp] theorem State.setGrid_paced : (s.setGrid k x).paced = s.paced := rfl
@[simp] theorem State.setGrid_nvme : (s.setGrid k x).nvme = s.nvme := rfl
@[simp] theorem State.setGrid_ready : (s.setGrid k x).ready = s.ready := rfl
@[simp] theorem State.setGrid_retired : (s.setGrid k x).retired = s.retired := rfl
@[simp] theorem State.setGrid_repl : (s.setGrid k x).repl = s.repl := rfl
@[simp] theorem State.setGrid_cause : (s.setGrid k x).cause = s.cause := rfl
@[simp] theorem State.setGrid_spareFrames : (s.setGrid k x).spareFrames = s.spareFrames := rfl
@[simp] theorem State.setGrid_framesMoved : (s.setGrid k x).framesMoved = s.framesMoved := rfl
@[simp] theorem State.setGrid_reports : (s.setGrid k x).reports = s.reports := rfl
@[simp] theorem State.setGrid_appDown : (s.setGrid k x).appDown = s.appDown := rfl
@[simp] theorem State.setGrid_appHeld : (s.setGrid k x).appHeld = s.appHeld := rfl
@[simp] theorem State.setGrid_completions : (s.setGrid k x).completions = s.completions := rfl
@[simp] theorem State.setGrid_ages : (s.setGrid k x).ages = s.ages := rfl
@[simp] theorem State.setGrid_groupIds : (s.setGrid k x).groupIds = s.groupIds := rfl
@[simp] theorem State.setGrid_ctxNext : (s.setGrid k x).ctxNext = s.ctxNext := rfl
@[simp] theorem State.setGrid_firmware : (s.setGrid k x).firmware = s.firmware := rfl
@[simp] theorem State.setGrid_dies : (s.setGrid k x).dies = s.dies := rfl
@[simp] theorem State.setGrid_cores : (s.setGrid k x).cores = s.cores := rfl
@[simp] theorem State.setGrid_parts : (s.setGrid k x).parts = s.parts := rfl
@[simp] theorem State.setGrid_fws : (s.setGrid k x).fws = s.fws := rfl
@[simp] theorem State.setGrid_grids : (s.setGrid k x).grids = kset s.grids k x := rfl
@[simp] theorem State.setGrid_gangs : (s.setGrid k x).gangs = s.gangs := rfl
@[simp] theorem State.setGrid_wgs : (s.setGrid k x).wgs = s.wgs := rfl
@[simp] theorem State.setGrid_sheaves : (s.setGrid k x).sheaves = s.sheaves := rfl
@[simp] theorem State.setGrid_opq : (s.setGrid k x).opq = s.opq := rfl
@[simp] theorem State.setGrid_accs : (s.setGrid k x).accs = s.accs := rfl
@[simp] theorem State.setGrid_copies : (s.setGrid k x).copies = s.copies := rfl
@[simp] theorem State.setGrid_tops : (s.setGrid k x).tops = s.tops := rfl
@[simp] theorem State.setGrid_tiles : (s.setGrid k x).tiles = s.tiles := rfl
@[simp] theorem State.setGrid_queues : (s.setGrid k x).queues = s.queues := rfl
@[simp] theorem State.setGrid_windows : (s.setGrid k x).windows = s.windows := rfl
@[simp] theorem State.setGrid_joins : (s.setGrid k x).joins = s.joins := rfl

end

/-! ### `State.setQueue` -/

section
variable (s : State) (k : Nat) (x : Queue)

@[simp] theorem State.setQueue_agenda : (s.setQueue k x).agenda = s.agenda := rfl
@[simp] theorem State.setQueue_cur : (s.setQueue k x).cur = s.cur := rfl
@[simp] theorem State.setQueue_word : (s.setQueue k x).word = s.word := rfl
@[simp] theorem State.setQueue_free : (s.setQueue k x).free = s.free := rfl
@[simp] theorem State.setQueue_nextKey : (s.setQueue k x).nextKey = s.nextKey := rfl
@[simp] theorem State.setQueue_served : (s.setQueue k x).served = s.served := rfl
@[simp] theorem State.setQueue_code : (s.setQueue k x).code = s.code := rfl
@[simp] theorem State.setQueue_cycle : (s.setQueue k x).cycle = s.cycle := rfl
@[simp] theorem State.setQueue_clock : (s.setQueue k x).clock = s.clock := rfl
@[simp] theorem State.setQueue_floorClock : (s.setQueue k x).floorClock = s.floorClock := rfl
@[simp] theorem State.setQueue_budget : (s.setQueue k x).budget = s.budget := rfl
@[simp] theorem State.setQueue_mem : (s.setQueue k x).mem = s.mem := rfl
@[simp] theorem State.setQueue_roots : (s.setQueue k x).roots = s.roots := rfl
@[simp] theorem State.setQueue_paged : (s.setQueue k x).paged = s.paged := rfl
@[simp] theorem State.setQueue_tlb : (s.setQueue k x).tlb = s.tlb := rfl
@[simp] theorem State.setQueue_shoots : (s.setQueue k x).shoots = s.shoots := rfl
@[simp] theorem State.setQueue_device : (s.setQueue k x).device = s.device := rfl
@[simp] theorem State.setQueue_devid : (s.setQueue k x).devid = s.devid := rfl
@[simp] theorem State.setQueue_routes : (s.setQueue k x).routes = s.routes := rfl
@[simp] theorem State.setQueue_linksDown : (s.setQueue k x).linksDown = s.linksDown := rfl
@[simp] theorem State.setQueue_remotes : (s.setQueue k x).remotes = s.remotes := rfl
@[simp] theorem State.setQueue_ethFor : (s.setQueue k x).ethFor = s.ethFor := rfl
@[simp] theorem State.setQueue_ethDown : (s.setQueue k x).ethDown = s.ethDown := rfl
@[simp] theorem State.setQueue_tai : (s.setQueue k x).tai = s.tai := rfl
@[simp] theorem State.setQueue_disciplined : (s.setQueue k x).disciplined = s.disciplined := rfl
@[simp] theorem State.setQueue_slew : (s.setQueue k x).slew = s.slew := rfl
@[simp] theorem State.setQueue_paced : (s.setQueue k x).paced = s.paced := rfl
@[simp] theorem State.setQueue_nvme : (s.setQueue k x).nvme = s.nvme := rfl
@[simp] theorem State.setQueue_ready : (s.setQueue k x).ready = s.ready := rfl
@[simp] theorem State.setQueue_retired : (s.setQueue k x).retired = s.retired := rfl
@[simp] theorem State.setQueue_repl : (s.setQueue k x).repl = s.repl := rfl
@[simp] theorem State.setQueue_cause : (s.setQueue k x).cause = s.cause := rfl
@[simp] theorem State.setQueue_spareFrames : (s.setQueue k x).spareFrames = s.spareFrames := rfl
@[simp] theorem State.setQueue_framesMoved : (s.setQueue k x).framesMoved = s.framesMoved := rfl
@[simp] theorem State.setQueue_reports : (s.setQueue k x).reports = s.reports := rfl
@[simp] theorem State.setQueue_appDown : (s.setQueue k x).appDown = s.appDown := rfl
@[simp] theorem State.setQueue_appHeld : (s.setQueue k x).appHeld = s.appHeld := rfl
@[simp] theorem State.setQueue_completions : (s.setQueue k x).completions = s.completions := rfl
@[simp] theorem State.setQueue_ages : (s.setQueue k x).ages = s.ages := rfl
@[simp] theorem State.setQueue_groupIds : (s.setQueue k x).groupIds = s.groupIds := rfl
@[simp] theorem State.setQueue_ctxNext : (s.setQueue k x).ctxNext = s.ctxNext := rfl
@[simp] theorem State.setQueue_firmware : (s.setQueue k x).firmware = s.firmware := rfl
@[simp] theorem State.setQueue_dies : (s.setQueue k x).dies = s.dies := rfl
@[simp] theorem State.setQueue_cores : (s.setQueue k x).cores = s.cores := rfl
@[simp] theorem State.setQueue_parts : (s.setQueue k x).parts = s.parts := rfl
@[simp] theorem State.setQueue_fws : (s.setQueue k x).fws = s.fws := rfl
@[simp] theorem State.setQueue_grids : (s.setQueue k x).grids = s.grids := rfl
@[simp] theorem State.setQueue_gangs : (s.setQueue k x).gangs = s.gangs := rfl
@[simp] theorem State.setQueue_wgs : (s.setQueue k x).wgs = s.wgs := rfl
@[simp] theorem State.setQueue_sheaves : (s.setQueue k x).sheaves = s.sheaves := rfl
@[simp] theorem State.setQueue_opq : (s.setQueue k x).opq = s.opq := rfl
@[simp] theorem State.setQueue_accs : (s.setQueue k x).accs = s.accs := rfl
@[simp] theorem State.setQueue_copies : (s.setQueue k x).copies = s.copies := rfl
@[simp] theorem State.setQueue_tops : (s.setQueue k x).tops = s.tops := rfl
@[simp] theorem State.setQueue_tiles : (s.setQueue k x).tiles = s.tiles := rfl
@[simp] theorem State.setQueue_queues : (s.setQueue k x).queues = kset s.queues k x := rfl
@[simp] theorem State.setQueue_windows : (s.setQueue k x).windows = s.windows := rfl
@[simp] theorem State.setQueue_joins : (s.setQueue k x).joins = s.joins := rfl

end

/-! ### `State.setJoin` -/

section
variable (s : State) (k : Nat) (x : Join)

@[simp] theorem State.setJoin_agenda : (s.setJoin k x).agenda = s.agenda := rfl
@[simp] theorem State.setJoin_cur : (s.setJoin k x).cur = s.cur := rfl
@[simp] theorem State.setJoin_word : (s.setJoin k x).word = s.word := rfl
@[simp] theorem State.setJoin_free : (s.setJoin k x).free = s.free := rfl
@[simp] theorem State.setJoin_nextKey : (s.setJoin k x).nextKey = s.nextKey := rfl
@[simp] theorem State.setJoin_served : (s.setJoin k x).served = s.served := rfl
@[simp] theorem State.setJoin_code : (s.setJoin k x).code = s.code := rfl
@[simp] theorem State.setJoin_cycle : (s.setJoin k x).cycle = s.cycle := rfl
@[simp] theorem State.setJoin_clock : (s.setJoin k x).clock = s.clock := rfl
@[simp] theorem State.setJoin_floorClock : (s.setJoin k x).floorClock = s.floorClock := rfl
@[simp] theorem State.setJoin_budget : (s.setJoin k x).budget = s.budget := rfl
@[simp] theorem State.setJoin_mem : (s.setJoin k x).mem = s.mem := rfl
@[simp] theorem State.setJoin_roots : (s.setJoin k x).roots = s.roots := rfl
@[simp] theorem State.setJoin_paged : (s.setJoin k x).paged = s.paged := rfl
@[simp] theorem State.setJoin_tlb : (s.setJoin k x).tlb = s.tlb := rfl
@[simp] theorem State.setJoin_shoots : (s.setJoin k x).shoots = s.shoots := rfl
@[simp] theorem State.setJoin_device : (s.setJoin k x).device = s.device := rfl
@[simp] theorem State.setJoin_devid : (s.setJoin k x).devid = s.devid := rfl
@[simp] theorem State.setJoin_routes : (s.setJoin k x).routes = s.routes := rfl
@[simp] theorem State.setJoin_linksDown : (s.setJoin k x).linksDown = s.linksDown := rfl
@[simp] theorem State.setJoin_remotes : (s.setJoin k x).remotes = s.remotes := rfl
@[simp] theorem State.setJoin_ethFor : (s.setJoin k x).ethFor = s.ethFor := rfl
@[simp] theorem State.setJoin_ethDown : (s.setJoin k x).ethDown = s.ethDown := rfl
@[simp] theorem State.setJoin_tai : (s.setJoin k x).tai = s.tai := rfl
@[simp] theorem State.setJoin_disciplined : (s.setJoin k x).disciplined = s.disciplined := rfl
@[simp] theorem State.setJoin_slew : (s.setJoin k x).slew = s.slew := rfl
@[simp] theorem State.setJoin_paced : (s.setJoin k x).paced = s.paced := rfl
@[simp] theorem State.setJoin_nvme : (s.setJoin k x).nvme = s.nvme := rfl
@[simp] theorem State.setJoin_ready : (s.setJoin k x).ready = s.ready := rfl
@[simp] theorem State.setJoin_retired : (s.setJoin k x).retired = s.retired := rfl
@[simp] theorem State.setJoin_repl : (s.setJoin k x).repl = s.repl := rfl
@[simp] theorem State.setJoin_cause : (s.setJoin k x).cause = s.cause := rfl
@[simp] theorem State.setJoin_spareFrames : (s.setJoin k x).spareFrames = s.spareFrames := rfl
@[simp] theorem State.setJoin_framesMoved : (s.setJoin k x).framesMoved = s.framesMoved := rfl
@[simp] theorem State.setJoin_reports : (s.setJoin k x).reports = s.reports := rfl
@[simp] theorem State.setJoin_appDown : (s.setJoin k x).appDown = s.appDown := rfl
@[simp] theorem State.setJoin_appHeld : (s.setJoin k x).appHeld = s.appHeld := rfl
@[simp] theorem State.setJoin_completions : (s.setJoin k x).completions = s.completions := rfl
@[simp] theorem State.setJoin_ages : (s.setJoin k x).ages = s.ages := rfl
@[simp] theorem State.setJoin_groupIds : (s.setJoin k x).groupIds = s.groupIds := rfl
@[simp] theorem State.setJoin_ctxNext : (s.setJoin k x).ctxNext = s.ctxNext := rfl
@[simp] theorem State.setJoin_firmware : (s.setJoin k x).firmware = s.firmware := rfl
@[simp] theorem State.setJoin_dies : (s.setJoin k x).dies = s.dies := rfl
@[simp] theorem State.setJoin_cores : (s.setJoin k x).cores = s.cores := rfl
@[simp] theorem State.setJoin_parts : (s.setJoin k x).parts = s.parts := rfl
@[simp] theorem State.setJoin_fws : (s.setJoin k x).fws = s.fws := rfl
@[simp] theorem State.setJoin_grids : (s.setJoin k x).grids = s.grids := rfl
@[simp] theorem State.setJoin_gangs : (s.setJoin k x).gangs = s.gangs := rfl
@[simp] theorem State.setJoin_wgs : (s.setJoin k x).wgs = s.wgs := rfl
@[simp] theorem State.setJoin_sheaves : (s.setJoin k x).sheaves = s.sheaves := rfl
@[simp] theorem State.setJoin_opq : (s.setJoin k x).opq = s.opq := rfl
@[simp] theorem State.setJoin_accs : (s.setJoin k x).accs = s.accs := rfl
@[simp] theorem State.setJoin_copies : (s.setJoin k x).copies = s.copies := rfl
@[simp] theorem State.setJoin_tops : (s.setJoin k x).tops = s.tops := rfl
@[simp] theorem State.setJoin_tiles : (s.setJoin k x).tiles = s.tiles := rfl
@[simp] theorem State.setJoin_queues : (s.setJoin k x).queues = s.queues := rfl
@[simp] theorem State.setJoin_windows : (s.setJoin k x).windows = s.windows := rfl
@[simp] theorem State.setJoin_joins : (s.setJoin k x).joins = kset s.joins k x := rfl

end

/-! ### `State.mapSheaves` -/

section
variable (s : State) (f : Nat → Sheaf → Sheaf)

@[simp] theorem State.mapSheaves_agenda : (s.mapSheaves f).agenda = s.agenda := rfl
@[simp] theorem State.mapSheaves_cur : (s.mapSheaves f).cur = s.cur := rfl
@[simp] theorem State.mapSheaves_word : (s.mapSheaves f).word = s.word := rfl
@[simp] theorem State.mapSheaves_free : (s.mapSheaves f).free = s.free := rfl
@[simp] theorem State.mapSheaves_nextKey : (s.mapSheaves f).nextKey = s.nextKey := rfl
@[simp] theorem State.mapSheaves_served : (s.mapSheaves f).served = s.served := rfl
@[simp] theorem State.mapSheaves_code : (s.mapSheaves f).code = s.code := rfl
@[simp] theorem State.mapSheaves_cycle : (s.mapSheaves f).cycle = s.cycle := rfl
@[simp] theorem State.mapSheaves_clock : (s.mapSheaves f).clock = s.clock := rfl
@[simp] theorem State.mapSheaves_floorClock : (s.mapSheaves f).floorClock = s.floorClock := rfl
@[simp] theorem State.mapSheaves_budget : (s.mapSheaves f).budget = s.budget := rfl
@[simp] theorem State.mapSheaves_mem : (s.mapSheaves f).mem = s.mem := rfl
@[simp] theorem State.mapSheaves_roots : (s.mapSheaves f).roots = s.roots := rfl
@[simp] theorem State.mapSheaves_paged : (s.mapSheaves f).paged = s.paged := rfl
@[simp] theorem State.mapSheaves_tlb : (s.mapSheaves f).tlb = s.tlb := rfl
@[simp] theorem State.mapSheaves_shoots : (s.mapSheaves f).shoots = s.shoots := rfl
@[simp] theorem State.mapSheaves_device : (s.mapSheaves f).device = s.device := rfl
@[simp] theorem State.mapSheaves_devid : (s.mapSheaves f).devid = s.devid := rfl
@[simp] theorem State.mapSheaves_routes : (s.mapSheaves f).routes = s.routes := rfl
@[simp] theorem State.mapSheaves_linksDown : (s.mapSheaves f).linksDown = s.linksDown := rfl
@[simp] theorem State.mapSheaves_remotes : (s.mapSheaves f).remotes = s.remotes := rfl
@[simp] theorem State.mapSheaves_ethFor : (s.mapSheaves f).ethFor = s.ethFor := rfl
@[simp] theorem State.mapSheaves_ethDown : (s.mapSheaves f).ethDown = s.ethDown := rfl
@[simp] theorem State.mapSheaves_tai : (s.mapSheaves f).tai = s.tai := rfl
@[simp] theorem State.mapSheaves_disciplined : (s.mapSheaves f).disciplined = s.disciplined := rfl
@[simp] theorem State.mapSheaves_slew : (s.mapSheaves f).slew = s.slew := rfl
@[simp] theorem State.mapSheaves_paced : (s.mapSheaves f).paced = s.paced := rfl
@[simp] theorem State.mapSheaves_nvme : (s.mapSheaves f).nvme = s.nvme := rfl
@[simp] theorem State.mapSheaves_ready : (s.mapSheaves f).ready = s.ready := rfl
@[simp] theorem State.mapSheaves_retired : (s.mapSheaves f).retired = s.retired := rfl
@[simp] theorem State.mapSheaves_repl : (s.mapSheaves f).repl = s.repl := rfl
@[simp] theorem State.mapSheaves_cause : (s.mapSheaves f).cause = s.cause := rfl
@[simp] theorem State.mapSheaves_spareFrames : (s.mapSheaves f).spareFrames = s.spareFrames := rfl
@[simp] theorem State.mapSheaves_framesMoved : (s.mapSheaves f).framesMoved = s.framesMoved := rfl
@[simp] theorem State.mapSheaves_reports : (s.mapSheaves f).reports = s.reports := rfl
@[simp] theorem State.mapSheaves_appDown : (s.mapSheaves f).appDown = s.appDown := rfl
@[simp] theorem State.mapSheaves_appHeld : (s.mapSheaves f).appHeld = s.appHeld := rfl
@[simp] theorem State.mapSheaves_completions : (s.mapSheaves f).completions = s.completions := rfl
@[simp] theorem State.mapSheaves_ages : (s.mapSheaves f).ages = s.ages := rfl
@[simp] theorem State.mapSheaves_groupIds : (s.mapSheaves f).groupIds = s.groupIds := rfl
@[simp] theorem State.mapSheaves_ctxNext : (s.mapSheaves f).ctxNext = s.ctxNext := rfl
@[simp] theorem State.mapSheaves_firmware : (s.mapSheaves f).firmware = s.firmware := rfl
@[simp] theorem State.mapSheaves_dies : (s.mapSheaves f).dies = s.dies := rfl
@[simp] theorem State.mapSheaves_cores : (s.mapSheaves f).cores = s.cores := rfl
@[simp] theorem State.mapSheaves_parts : (s.mapSheaves f).parts = s.parts := rfl
@[simp] theorem State.mapSheaves_fws : (s.mapSheaves f).fws = s.fws := rfl
@[simp] theorem State.mapSheaves_grids : (s.mapSheaves f).grids = s.grids := rfl
@[simp] theorem State.mapSheaves_gangs : (s.mapSheaves f).gangs = s.gangs := rfl
@[simp] theorem State.mapSheaves_wgs : (s.mapSheaves f).wgs = s.wgs := rfl
@[simp] theorem State.mapSheaves_sheaves : (s.mapSheaves f).sheaves = s.sheaves.map (fun p => (p.1, f p.1 p.2)) := rfl
@[simp] theorem State.mapSheaves_opq : (s.mapSheaves f).opq = s.opq := rfl
@[simp] theorem State.mapSheaves_accs : (s.mapSheaves f).accs = s.accs := rfl
@[simp] theorem State.mapSheaves_copies : (s.mapSheaves f).copies = s.copies := rfl
@[simp] theorem State.mapSheaves_tops : (s.mapSheaves f).tops = s.tops := rfl
@[simp] theorem State.mapSheaves_tiles : (s.mapSheaves f).tiles = s.tiles := rfl
@[simp] theorem State.mapSheaves_queues : (s.mapSheaves f).queues = s.queues := rfl
@[simp] theorem State.mapSheaves_windows : (s.mapSheaves f).windows = s.windows := rfl
@[simp] theorem State.mapSheaves_joins : (s.mapSheaves f).joins = s.joins := rfl

end

/-! ### `State.bump` -/

section
variable (s : State)

@[simp] theorem State.bump_agenda : (s.bump).agenda = s.agenda := rfl
@[simp] theorem State.bump_cur : (s.bump).cur = s.cur := rfl
@[simp] theorem State.bump_word : (s.bump).word = s.word := rfl
@[simp] theorem State.bump_free : (s.bump).free = s.free := rfl
@[simp] theorem State.bump_nextKey : (s.bump).nextKey = s.nextKey + 1 := rfl
@[simp] theorem State.bump_served : (s.bump).served = s.served := rfl
@[simp] theorem State.bump_code : (s.bump).code = s.code := rfl
@[simp] theorem State.bump_cycle : (s.bump).cycle = s.cycle := rfl
@[simp] theorem State.bump_clock : (s.bump).clock = s.clock := rfl
@[simp] theorem State.bump_floorClock : (s.bump).floorClock = s.floorClock := rfl
@[simp] theorem State.bump_budget : (s.bump).budget = s.budget := rfl
@[simp] theorem State.bump_mem : (s.bump).mem = s.mem := rfl
@[simp] theorem State.bump_roots : (s.bump).roots = s.roots := rfl
@[simp] theorem State.bump_paged : (s.bump).paged = s.paged := rfl
@[simp] theorem State.bump_tlb : (s.bump).tlb = s.tlb := rfl
@[simp] theorem State.bump_shoots : (s.bump).shoots = s.shoots := rfl
@[simp] theorem State.bump_device : (s.bump).device = s.device := rfl
@[simp] theorem State.bump_devid : (s.bump).devid = s.devid := rfl
@[simp] theorem State.bump_routes : (s.bump).routes = s.routes := rfl
@[simp] theorem State.bump_linksDown : (s.bump).linksDown = s.linksDown := rfl
@[simp] theorem State.bump_remotes : (s.bump).remotes = s.remotes := rfl
@[simp] theorem State.bump_ethFor : (s.bump).ethFor = s.ethFor := rfl
@[simp] theorem State.bump_ethDown : (s.bump).ethDown = s.ethDown := rfl
@[simp] theorem State.bump_tai : (s.bump).tai = s.tai := rfl
@[simp] theorem State.bump_disciplined : (s.bump).disciplined = s.disciplined := rfl
@[simp] theorem State.bump_slew : (s.bump).slew = s.slew := rfl
@[simp] theorem State.bump_paced : (s.bump).paced = s.paced := rfl
@[simp] theorem State.bump_nvme : (s.bump).nvme = s.nvme := rfl
@[simp] theorem State.bump_ready : (s.bump).ready = s.ready := rfl
@[simp] theorem State.bump_retired : (s.bump).retired = s.retired := rfl
@[simp] theorem State.bump_repl : (s.bump).repl = s.repl := rfl
@[simp] theorem State.bump_cause : (s.bump).cause = s.cause := rfl
@[simp] theorem State.bump_spareFrames : (s.bump).spareFrames = s.spareFrames := rfl
@[simp] theorem State.bump_framesMoved : (s.bump).framesMoved = s.framesMoved := rfl
@[simp] theorem State.bump_reports : (s.bump).reports = s.reports := rfl
@[simp] theorem State.bump_appDown : (s.bump).appDown = s.appDown := rfl
@[simp] theorem State.bump_appHeld : (s.bump).appHeld = s.appHeld := rfl
@[simp] theorem State.bump_completions : (s.bump).completions = s.completions := rfl
@[simp] theorem State.bump_ages : (s.bump).ages = s.ages := rfl
@[simp] theorem State.bump_groupIds : (s.bump).groupIds = s.groupIds := rfl
@[simp] theorem State.bump_ctxNext : (s.bump).ctxNext = s.ctxNext := rfl
@[simp] theorem State.bump_firmware : (s.bump).firmware = s.firmware := rfl
@[simp] theorem State.bump_dies : (s.bump).dies = s.dies := rfl
@[simp] theorem State.bump_cores : (s.bump).cores = s.cores := rfl
@[simp] theorem State.bump_parts : (s.bump).parts = s.parts := rfl
@[simp] theorem State.bump_fws : (s.bump).fws = s.fws := rfl
@[simp] theorem State.bump_grids : (s.bump).grids = s.grids := rfl
@[simp] theorem State.bump_gangs : (s.bump).gangs = s.gangs := rfl
@[simp] theorem State.bump_wgs : (s.bump).wgs = s.wgs := rfl
@[simp] theorem State.bump_sheaves : (s.bump).sheaves = s.sheaves := rfl
@[simp] theorem State.bump_opq : (s.bump).opq = s.opq := rfl
@[simp] theorem State.bump_accs : (s.bump).accs = s.accs := rfl
@[simp] theorem State.bump_copies : (s.bump).copies = s.copies := rfl
@[simp] theorem State.bump_tops : (s.bump).tops = s.tops := rfl
@[simp] theorem State.bump_tiles : (s.bump).tiles = s.tiles := rfl
@[simp] theorem State.bump_queues : (s.bump).queues = s.queues := rfl
@[simp] theorem State.bump_windows : (s.bump).windows = s.windows := rfl
@[simp] theorem State.bump_joins : (s.bump).joins = s.joins := rfl

end

end Sys2Proof.Machine
end

