-- ==== Sys2Proof/Laws/Lists.lean ====
section
/-! SUPPORT. The helpers of Machine/Data.lean over keyed lists, lists by position and lane masks: each says once what it does. -/

namespace Sys2Proof.Machine

/-! ### Keyed lists -/

@[simp] theorem kget_kset_same {α : Type} (l : List (Nat × α)) (k : Nat) (x : α) : kget (kset l k x) k = some x := by
  induction l with
  | nil => simp [kset, kget]
  | cons p l ih =>
    obtain ⟨j, y⟩ := p
    by_cases h : j = k <;> simp [kset, kget, h, ih]

theorem kget_kset_other {α : Type} (l : List (Nat × α)) {k j : Nat} (x : α) (h : j ≠ k) :
    kget (kset l k x) j = kget l j := by
  induction l with
  | nil => simp [kset, kget, Ne.symm h]
  | cons p l ih =>
    obtain ⟨i, y⟩ := p
    by_cases hi : i = k
    · subst hi; simp [kset, kget, Ne.symm h]
    · by_cases hj : i = j
      · subst hj; simp [kset, kget, hi]
      · simp [kset, kget, hi, hj, ih]

@[simp] theorem kset_kset {α : Type} (l : List (Nat × α)) (k : Nat) (x y : α) : kset (kset l k x) k y = kset l k y := by
  induction l with
  | nil => simp [kset]
  | cons p l ih =>
    obtain ⟨j, z⟩ := p
    by_cases h : j = k <;> simp [kset, h, ih]

/-- Writing back what stands there changes nothing. -/
theorem kset_kget {α : Type} (l : List (Nat × α)) {k : Nat} {x : α} (h : kget l k = some x) : kset l k x = l := by
  induction l with
  | nil => simp [kget] at h
  | cons p l ih =>
    obtain ⟨j, y⟩ := p
    by_cases hj : j = k
    · simp [kget, hj] at h; simp [kset, hj, h]
    · simp [kget, hj] at h; simp [kset, hj, ih h]

/-! ### Lists by position -/

@[simp] theorem lset_length {α : Type} (l : List α) (i : Nat) (x : α) : (lset l i x).length = l.length := by
  induction l generalizing i with
  | nil => rfl
  | cons y l ih => cases i <;> simp [lset, ih]

@[simp] theorem lmod_length {α : Type} (f : α → α) (l : List α) (i : Nat) : (lmod f l i).length = l.length := by
  induction l generalizing i with
  | nil => rfl
  | cons y l ih => cases i <;> simp [lmod, ih]

@[simp] theorem lset_lset {α : Type} (l : List α) (i : Nat) (x y : α) : lset (lset l i x) i y = lset l i y := by
  induction l generalizing i with
  | nil => rfl
  | cons z l ih => cases i <;> simp [lset, ih]

theorem lget_lset_same {α : Type} (d : α) (l : List α) (i : Nat) (x : α) (h : i < l.length) :
    lget d (lset l i x) i = x := by
  induction l generalizing i with
  | nil => simp at h
  | cons y l ih =>
    cases i with
    | zero => rfl
    | succ i => simpa [lset, lget] using ih i (by simpa using h)

theorem lget_lset_other {α : Type} (d : α) (l : List α) (i j : Nat) (x : α) (h : i ≠ j) :
    lget d (lset l i x) j = lget d l j := by
  induction l generalizing i j with
  | nil => rfl
  | cons y l ih =>
    cases i <;> cases j
    · exact absurd rfl h
    · rfl
    · rfl
    · simpa [lset, lget] using ih _ _ (by simpa using h)

@[simp] theorem getElem?_lset {α : Type} (l : List α) (i j : Nat) (x : α) :
    (lset l i x)[j]? = if i = j ∧ j < l.length then some x else l[j]? := by
  induction l generalizing i j with
  | nil => simp [lset]
  | cons y l ih => cases i <;> cases j <;> simp [lset, ih]

theorem getElem?_mapIdxFrom {α β : Type} (f : Nat → α → β) (n : Nat) (l : List α) (j : Nat) :
    (mapIdxFrom f n l)[j]? = l[j]?.map (f (n + j)) := by
  induction l generalizing n j with
  | nil => simp [mapIdxFrom]
  | cons y l ih =>
    cases j with
    | zero => simp [mapIdxFrom]
    | succ j => simp [mapIdxFrom, ih, Nat.add_assoc, Nat.add_comm 1 j]

@[simp] theorem mapIdxFrom_length {α β : Type} (f : Nat → α → β) (n : Nat) (l : List α) :
    (mapIdxFrom f n l).length = l.length := by
  induction l generalizing n with
  | nil => rfl
  | cons y l ih => simp [mapIdxFrom, ih]

theorem getElem?_lmod {α : Type} (f : α → α) (l : List α) (i j : Nat) :
    (lmod f l i)[j]? = if i = j then l[j]?.map f else l[j]? := by
  induction l generalizing i j with
  | nil => simp [lmod]
  | cons y l ih => cases i <;> cases j <;> simp [lmod, ih]

/-- Applying a function at each of some distinct positions is applying it at those positions. -/
theorem foldl_lmod {α : Type} (f : Nat → Nat → α → α) (ps : List (Nat × Nat)) (l : List α) (j : Nat)
    (h : (ps.map (·.2)).Nodup) :
    (ps.foldl (fun acc p => lmod (f p.1 p.2) acc p.2) l)[j]? =
      match ps.find? (fun p => p.2 == j) with
      | some p => l[j]?.map (f p.1 p.2)
      | none => l[j]? := by
  induction ps generalizing l with
  | nil => rfl
  | cons p ps ih =>
    have hn := List.nodup_cons.mp (by simpa using h : (p.2 :: ps.map (·.2)).Nodup)
    rw [List.foldl_cons, ih _ hn.2]
    by_cases hp : p.2 = j
    · subst hp
      have hnone : ps.find? (fun q => q.2 == p.2) = none := by
        rw [List.find?_eq_none]
        intro q hq hqp
        exact hn.1 (by rw [← eq_of_beq hqp]; exact List.mem_map_of_mem hq)
      simp [hnone, getElem?_lmod]
    · have : (p.2 == j) = false := by simpa using hp
      simp [this, getElem?_lmod, hp]

/-! ### Lane masks -/

theorem mem_maskLanes (m : Mask) (i : Nat) : i ∈ maskLanes m ↔ m.getLsbD i = true := by
  simp only [maskLanes, List.mem_filter, List.mem_range, and_iff_right_iff_imp]
  exact BitVec.lt_of_getLsbD

theorem maskLanes_nodup (m : Mask) : (maskLanes m).Nodup := List.Pairwise.filter _ List.nodup_range

@[simp] theorem maskLanes_zero : maskLanes 0 = [] := by decide

theorem getLsbD_maskOf (l : List Nat) (i : Nat) (h : i < 64) : (maskOf l).getLsbD i = decide (i ∈ l) := by
  induction l with
  | nil => simp [maskOf]
  | cons j l ih =>
    rw [maskOf, BitVec.getLsbD_or, ih, BitVec.getLsbD_shiftLeft, BitVec.getLsbD_one]
    by_cases hj : j = i
    · subst hj; simp [h]
    · by_cases hl : i < j
      · simp [hl, Ne.symm hj]
      · have : i - j ≠ 0 := by omega
        simp [this, Ne.symm hj]

end Sys2Proof.Machine
end

