-- ==== Sys2Proof/Laws/Issue.lean ====
section
/-! SUPPORT. What the shared operations of Machine/Ops.lean do: the issuing split, what replaces it, parking at a fault. -/

namespace Sys2Proof.Machine

/-! ### The issuing split -/

/-- What a context says of its state. -/
theorem State.ctx_some {s : State} {c : Ctx} (h : s.ctx = some c) :
    s.cur = .sheaf c.k c.j ∧ s.sheaf c.k = some c.sh ∧ c.sh.ctl.splits[c.j]? = some c.sp ∧ s.wg c.sh.wg = some c.wg := by
  unfold State.ctx at h
  split at h
  · split at h
    · cases h
    · split at h
      · cases h; exact ⟨by assumption, by assumption, by assumption, by assumption⟩
      · cases h
  · cases h

theorem issue_some {s : State} {c : Ctx} (f : Ctx → State) (h : s.ctx = some c) : issue s f = .next (f c) := by
  simp [issue, h]

theorem issueStop_some {s : State} {c : Ctx} (f : Ctx → State) (h : s.ctx = some c) :
    issueStop s f = .next (if c.sh.pend.isSome && c.sh.hand.isNone then s.stall c 21 else f c) := by
  simp [issueStop, issue, h]

theorem issueEdge_some {s : State} {c : Ctx} (f : Ctx → State) (h : s.ctx = some c) :
    issueEdge s f = .next (if c.sh.haltReq then (s.stall c 22).modSheaf c.k Sheaf.halt else f c) := by
  simp [issueEdge, issue, h]

/-- An instruction word issues exactly where a split does. -/
theorem issue_total (s : State) (f : Ctx → State) :
    (∃ t, issue s f = .next t) ∨ (s.ctx = none ∧ issue s f = .fault .noSplit) := by
  unfold issue
  cases h : s.ctx <;> simp

/-! ### A sheaf changed where it stands -/

theorem State.modSheaf_some {s : State} {k : Nat} {sh : Sheaf} (f : Sheaf → Sheaf) (h : s.sheaf k = some sh) :
    s.modSheaf k f = s.setSheaf k (f sh) := by
  simp [State.modSheaf, h]

@[simp] theorem State.sheaf_setSheaf (s : State) (k : Nat) (x : Sheaf) : (s.setSheaf k x).sheaf k = some x :=
  kget_kset_same _ _ _

theorem State.sheaf_setSheaf_other (s : State) {k j : Nat} (x : Sheaf) (h : j ≠ k) : (s.setSheaf k x).sheaf j = s.sheaf j :=
  kget_kset_other _ _ h

@[simp] theorem State.setSheaf_setSheaf (s : State) (k : Nat) (x y : Sheaf) : (s.setSheaf k x).setSheaf k y = s.setSheaf k y := by
  simp [State.setSheaf]

theorem State.setSheaf_self {s : State} {k : Nat} {sh : Sheaf} (h : s.sheaf k = some sh) : s.setSheaf k sh = s := by
  simp [State.setSheaf, kset_kget _ h]

@[simp] theorem State.modSheaf_setSheaf (s : State) (k : Nat) (x : Sheaf) (f : Sheaf → Sheaf) :
    (s.setSheaf k x).modSheaf k f = s.setSheaf k (f x) := by
  rw [State.modSheaf_some f (State.sheaf_setSheaf s k x), State.setSheaf_setSheaf]

theorem State.putSplit_some {s : State} {c : Ctx} {sh : Sheaf} (sp : Split) (h : s.sheaf c.k = some sh) :
    s.putSplit c sp = s.setSheaf c.k { sh with ctl := { sh.ctl with splits := lset sh.ctl.splits c.j sp } } := by
  simp [State.putSplit, State.modSheaf_some _ h]

@[simp] theorem State.putSplit_setSheaf (s : State) (c : Ctx) (sh : Sheaf) (sp : Split) :
    (s.setSheaf c.k sh).putSplit c sp = s.setSheaf c.k { sh with ctl := { sh.ctl with splits := lset sh.ctl.splits c.j sp } } := by
  simp [State.putSplit]

/-! ### Faults -/

/-- A fault raised in a handler kills the workgroup (R270). -/
theorem State.raiseLanes_in_handler {s : State} {c : Ctx} {sh : Sheaf} (lanes : Mask) (e : Exc) (target : DWord)
    (h : s.sheaf c.k = some sh) (hh : sh.hand.isSome = true) : s.raiseLanes c lanes e target = s.kill sh.wg := by
  simp [State.raiseLanes, h, hh]

/-- A fault of the whole split, with none pending, no handler running and no access of a replay open: the split leaves as a fault-parked group, every
other split stops, and the fault is recorded (R265, R266). -/
theorem State.raise_first {s : State} {c : Ctx} (e : Exc) (h : s.sheaf c.k = some c.sh)
    (hs : c.sh.ctl.splits[c.j]? = some c.sp) (hh : c.sh.hand.isSome = false) (hp : c.sh.pend = none)
    (ho : c.sp.replay.bind (·.op) = none) :
    s.raise c e = s.setSheaf c.k { c.sh with
      ctl := { c.sh.ctl with splits := stopOthers none (c.sh.ctl.splits.eraseIdx c.j)
                             groups := c.sh.ctl.groups ++ [⟨c.sp.pc, c.sp.mask, true⟩] }
      pend := some (e.record s.word c.sp.pc c.sp.mask c.sh.trapEntry) } := by
  have hz : maskDiff c.sp.mask c.sp.mask = 0 := by simp [maskDiff]
  simp [State.raise, State.raiseLanes, Ctx.stops, h, hs, hh, hp, hz, ho]

end Sys2Proof.Machine
end

