-- ==== Sys2Proof/Laws/GroupOps.lean ====
section
/-! SUPPORT. What the shared operations of group-set instructions do (07 R113 to R115, 06 R104, R105): reading the sources, the checks,
writing the destination. -/

namespace Sys2Proof.Machine

/-! ### The issuing sheaf changed does not change what its instruction reads -/

theorem gRead_setSheaf (s : State) (c : Ctx) (n : Nat) (x : GSrc) (k : Nat) (sh : Sheaf) :
    gRead (s.setSheaf k sh) c n x = gRead s c n x := by
  cases x <;> simp [gRead, blockRead, seesPair, seesTo, specialVal, State.setSheaf]

theorem seesPair_setSheaf (s : State) (c : Ctx) (n k : Nat) (sh : Sheaf) : seesPair (s.setSheaf k sh) c n = seesPair s c n := rfl

/-- What a source leaves of how far the block registers are seen. -/
def seenOne (s : State) (c : Ctx) (seen : List Nat) (u : GUse) : List Nat :=
  match u.src with
  | .b k => lset (lset seen (k.val / 2 * 2) (seesPair s c k.val).1) (k.val / 2 * 2 + 1) (seesPair s c k.val).2
  | _ => seen

theorem seenAfter_eq (s : State) (c : Ctx) (us : List GUse) : seenAfter s c us = us.foldl (seenOne s c) c.sh.seen := rfl

theorem noteSeen_setSheaf (s : State) (c : Ctx) (u : GUse) (sh : Sheaf) :
    (s.setSheaf c.k sh).noteSeen c u.src = s.setSheaf c.k { sh with seen := seenOne s c sh.seen u } := by
  cases hu : u.src <;> simp only [State.noteSeen, seenOne, hu, seesPair_setSheaf]
  exact State.modSheaf_setSheaf _ _ _ _

/-- Sources without ports: each gives what stands in it, and the sheaf has now seen the block registers it read. -/
theorem gValues_portless (s : State) (c : Ctx) (us : List GUse) (sh : Sheaf) (h : ∀ u ∈ us, u.src.port = none) :
    (s.setSheaf c.k sh).gValues c us =
      (us.map (fun u => gRead s c u.words u.src), s.setSheaf c.k { sh with seen := us.foldl (seenOne s c) sh.seen }) := by
  induction us generalizing sh with
  | nil => rfl
  | cons u us ih =>
    have hu : u.src.port = none := h u (List.mem_cons_self ..)
    simp only [State.gValues, hu, noteSeen_setSheaf, List.map_cons, List.foldl_cons]
    rw [ih _ (fun v hv => h v (List.mem_cons_of_mem _ hv)), gRead_setSheaf]

theorem groupPorts_portless (us : List GUse) (d : Option GDst) (h : portlessGroup us d = true) : groupPorts us d = [] := by
  simp only [portlessGroup, Bool.and_eq_true, List.all_eq_true, Option.isNone_iff_eq_none] at h
  have h1 : us.filterMap (fun u => u.src.port.map (fun p => (⟨u.field, p, false, 1⟩ : PortUse))) = [] := by
    rw [List.filterMap_eq_nil_iff]
    intro u hu
    simp [h.1 u hu]
  simp [groupPorts, h.2, h1]

theorem writerFault_eq (c : Ctx) (d : GDst) : writerFault c (some d) = !mayWrite c d := by
  cases d <;> simp [writerFault, mayWrite, bne]

/-- A group-set instruction without ports whose destination its sheaf may write goes on with the sources' values. -/
theorem groupStep_portless {s : State} {c : Ctx} (us : List GUse) (d : Option GDst) (go : List DWord → State → State)
    (hs : s.sheaf c.k = some c.sh) (hp : portlessGroup us d = true) (hw : ∀ x, d = some x → mayWrite c x = true) :
    groupStep s c us d go =
      go (us.map (fun u => gRead s c u.words u.src)) (s.setSheaf c.k { c.sh with seen := seenAfter s c us }) := by
  have hf : writerFault c d = false := by
    cases d with
    | none => rfl
    | some x => simp [writerFault_eq, hw x rfl]
  have hu : ∀ u ∈ us, u.src.port = none := by
    simp only [portlessGroup, Bool.and_eq_true, List.all_eq_true, Option.isNone_iff_eq_none] at hp
    exact hp.1
  have hv := gValues_portless s c us c.sh hu
  rw [State.setSheaf_self hs] at hv
  simp only [groupStep, hf, groupPorts_portless us d hp, hv, seenAfter_eq]
  simp [State.portNeeds, State.portsReady]

/-- A block register that the sheaf may not write traps with 0x05 (R104). -/
theorem groupStep_not_writer {s : State} {c : Ctx} (us : List GUse) (d : GDst) (go : List DWord → State → State)
    (h : mayWrite c d = false) : groupStep s c us (some d) go = s.trap c 0x05 1 := by
  simp [groupStep, writerFault_eq, h]

/-- Words written to a destination that is no port, and the split at the next word. -/
theorem gWrite_advance {s : State} {c : Ctx} (us : List GUse) (d : GDst) (ws : List Word) (hd : d.port = none)
    (hg : s.wg c.sh.wg = some c.wg) :
    ((s.setSheaf c.k { c.sh with seen := seenAfter s c us }).gWrite c d ws).advance c = groupWritten s c us d ws := by
  cases d with
  | g k => simp [State.gWrite, State.advance, State.goto, groupWritten, Ctx.onward]
  | b k =>
    have hg' : kget s.wgs c.sh.wg = some c.wg := hg
    simp [State.gWrite, State.modWg, State.wg, State.setSheaf, hg', State.setWg, State.advance, State.goto, groupWritten, Ctx.onward,
      State.putSplit, State.modSheaf, State.sheaf]
  | h k => simp [GDst.port] at hd

/-- What `groupAlu`, the operation of every group-set instruction that computes one value, does without ports. -/
theorem groupAlu_portless {s : State} {c : Ctx} (us : List GUse) (d : GDst) (words : Nat) (f : List DWord → DWord) (h : s.ctx = some c)
    (hp : portlessGroup us (some d) = true) (hw : mayWrite c d = true) :
    groupAlu s us d words f = .next (groupWritten s c us d (valWords words (f (us.map (fun u => gRead s c u.words u.src))))) := by
  obtain ⟨-, hs, -, hg⟩ := State.ctx_some h
  have hd : d.port = none := by
    simp only [portlessGroup, Bool.and_eq_true, Option.isNone_iff_eq_none] at hp
    simpa using hp.2
  rw [groupAlu, issue_some _ h, groupStep_portless us (some d) _ hs hp (fun x hx => by cases hx; exact hw), gWrite_advance us d _ hd hg]

end Sys2Proof.Machine
end

