-- ==== Sys2Proof/Laws/LaneOps.lean ====
section
/-! SUPPORT. What `laneOp` does when no queue port is named: lanes that fault, lanes that complete, and the sheaf that results
(01 R10 to R16, 18 R265). -/

namespace Sys2Proof.Machine

/-- No source field names a queue port. -/
def noPorts (us : List SrcUse) : Prop := ∀ u ∈ us, u.src.reg.port = none

theorem popFields_portless (s : State) (k n : Nat) (us : List SrcUse) (h : noPorts us) :
    s.popFields k n us = (us.map (fun _ => []), s) := by
  induction us with
  | nil => rfl
  | cons u us ih =>
    have hu : u.src.reg.port = none := h u (by simp)
    simp [State.popFields, hu, ih (fun v hv => h v (by simp [hv]))]

theorem laneValues_portless (free : Nat) (sh : Sheaf) (lane rank : Nat) (us : List SrcUse) (ps : List (List Word))
    (h : noPorts us) :
    laneValues free sh lane rank us ps = us.map (fun u => regsRead free sh lane u.src.reg u.words) := by
  induction us generalizing ps with
  | nil => rfl
  | cons u us ih =>
    have hu : u.src.reg.port = none := h u (by simp)
    simp [laneValues, hu, ih ps.tail (fun v hv => h v (by simp [hv]))]

theorem lanePorts_portless (us : List SrcUse) (d : LDst) (n : Nat) (h : noPorts us) (hd : d.port = none) :
    lanePorts us d n = [] := by
  simp only [lanePorts, hd, List.append_nil, List.filterMap_eq_nil_iff]
  intro u hu
  simp [h u hu]

/-- A check of named registers that all lie within the declared count changes nothing. -/
theorem checkNamed_within (s : State) (c : Ctx) (regs : List (Nat × Option Nat)) (go : State)
    (h : namedFault c.sh.named regs = none) : checkNamed s c regs go = go := by
  simp [checkNamed, h]

theorem checkNamed_beyond (s : State) (c : Ctx) (regs : List (Nat × Option Nat)) (go : State) (f : Nat)
    (h : namedFault c.sh.named regs = some f) : checkNamed s c regs go = s.trap c 0x04 f := by
  simp [checkNamed, h]

theorem namedFault_eq (named : Nat) (regs : List (Nat × Option Nat)) :
    namedFault named regs = regs.findSome? (fun p => match p.2 with
      | some n => if named ≤ n then some p.1 else none
      | none => none) := by
  induction regs with
  | nil => rfl
  | cons p l ih =>
    obtain ⟨f, o⟩ := p
    cases o with
    | none => simp [namedFault, ih]
    | some k => by_cases h : named ≤ k <;> simp [namedFault, h, ih]

/-! ### Lanes sifted -/

/-- Without faults every lane completes. -/
theorem siftLanes_none (f : Nat → Nat → Option Exc) (rank : Nat) (ls : List Nat) (h : ∀ l ∈ ls, ∀ r, f l r = none) :
    siftLanes f rank ls = (ls, []) := by
  induction ls generalizing rank with
  | nil => rfl
  | cons l ls ih =>
    simp [siftLanes, h l (by simp) rank, ih (rank + 1) (fun m hm => h m (by simp [hm]))]

/-- A test that does not look at the rank sifts lane by lane. -/
theorem siftLanes_eq (g : Nat → Option Exc) (rank : Nat) (ls : List Nat) :
    siftLanes (fun l _ => g l) rank ls =
      (ls.filter (fun l => (g l).isNone), ls.filterMap (fun l => (g l).map (fun e => (l, e)))) := by
  induction ls generalizing rank with
  | nil => rfl
  | cons l ls ih => cases h : g l <;> simp [siftLanes, h, ih]

/-! ### Lanes changed -/

theorem mapIdxFrom_rank_lane (ls : List Nat) (n : Nat) :
    (mapIdxFrom (fun rank l => (rank, l)) n ls).map (·.2) = ls := by
  induction ls generalizing n with
  | nil => rfl
  | cons l ls ih => simp [mapIdxFrom, ih]

theorem find?_rank_lane (ls : List Nat) (n j : Nat) :
    ((mapIdxFrom (fun rank l => (rank, l)) n ls).find? (fun p => p.2 == j)).isSome = decide (j ∈ ls) := by
  induction ls generalizing n with
  | nil => simp [mapIdxFrom]
  | cons l ls ih =>
    by_cases h : l = j
    · simp [mapIdxFrom, h]
    · have : (l == j) = false := by simpa using h
      simp [mapIdxFrom, this, ih, Ne.symm h]

/-- Distinct lanes changed by a function of the lane. -/
theorem modLanes_eq {s : State} {k : Nat} {sh : Sheaf} (ls : List Nat) (f : Nat → Lane → Lane)
    (h : s.sheaf k = some sh) (hn : ls.Nodup) :
    s.modLanes k ls (fun _ l ln => f l ln) =
      s.setSheaf k { sh with lanes := mapIdxFrom (fun l ln => if l ∈ ls then f l ln else ln) 0 sh.lanes } := by
  rw [State.modLanes, State.modSheaf_some _ h]
  congr 2
  apply List.ext_getElem?
  intro j
  rw [foldl_lmod (fun _ l => f l) _ _ _ (by rw [mapIdxFrom_rank_lane]; exact hn), getElem?_mapIdxFrom]
  have hf := find?_rank_lane ls 0 j
  split
  · next p hp =>
    have hj : p.2 = j := by simpa using List.find?_some hp
    rw [hp] at hf
    have : j ∈ ls := by simpa using hf
    simp [hj, this]
  · next hp =>
    rw [hp] at hf
    have : j ∉ ls := by simpa using hf
    simp [this]

/-- `laneOp` without ports and with its named registers in range: the lanes whose test finds no fault complete, the others
leave the split with theirs; a sheaf that stops before a fault has none (R266). -/
theorem laneOp_portless {s : State} {c : Ctx} (us : List SrcUse) (d : LDst) (words : Nat)
    (extra : Sheaf → Nat → List (List Word) → Option Exc) (f : Sheaf → Nat → List (List Word) → List Entry)
    (h : s.ctx = some c) (hp : noPorts us) (hd : d.port = none)
    (hn : namedFault c.sh.named ((1, d.top words) :: us.map (fun u => (u.field, u.src.reg.top u.words))) = none)
    (hb : c.stops = true → ∀ l ∈ maskLanes c.active,
      laneFault s c.sh us l (extra c.sh l (us.map (fun u => regsRead s.free c.sh l u.src.reg u.words))) = none) :
    let vals : Nat → List (List Word) := fun l => us.map (fun u => regsRead s.free c.sh l u.src.reg u.words)
    let bad : Nat → Option Exc := fun l => laneFault s c.sh us l (extra c.sh l (vals l))
    laneOp s us d words extra f = .next ((s.setSheaf c.k { c.sh with
        lanes := mapIdxFrom (fun l ln => if c.active.getLsbD l && (bad l).isNone then
          (ln.killUses us).writeEntries d (f c.sh l (vals l)) else ln) 0 c.sh.lanes
        ctl := c.onward }).raiseSome c ((maskLanes c.active).filterMap (fun l => (bad l).map (fun e => (l, e))))) := by
  intro vals bad
  have hs := (State.ctx_some h).2.1
  have hsift : siftLanes (fun l _ => laneFault s c.sh us l
      (extra c.sh l (us.map (fun u => regsRead s.free c.sh l u.src.reg u.words)))) 0 (maskLanes c.active) =
      ((maskLanes c.active).filter (fun l => (bad l).isNone),
        (maskLanes c.active).filterMap (fun l => (bad l).map (fun e => (l, e)))) :=
    siftLanes_eq bad 0 _
  rw [laneOp, issue_some _ h, checkNamed_within _ _ _ _ hn]
  have hmod : (s.modLanes c.k ((maskLanes c.active).filter (fun l => (bad l).isNone)) (fun _ l ln =>
      (ln.killUses us).writeEntries d (f c.sh l (vals l)))) = s.setSheaf c.k { c.sh with
        lanes := mapIdxFrom (fun l ln => if c.active.getLsbD l && (bad l).isNone then
          (ln.killUses us).writeEntries d (f c.sh l (vals l)) else ln) 0 c.sh.lanes } := by
    rw [modLanes_eq _ (fun l ln => (ln.killUses us).writeEntries d (f c.sh l (vals l))) hs
      (List.Pairwise.filter _ (maskLanes_nodup _))]
    congr 3
    funext l ln
    simp [List.mem_filter, mem_maskLanes]
  simp only [laneValues_portless _ _ _ _ _ _ hp, hsift, lanePorts_portless us d _ hp hd, popFields_portless _ _ _ _ hp,
    List.findSome?_nil, State.portNeeds, List.filterMap_nil, State.portsReady, List.all_nil, Bool.not_true, hd]
  have hst : (!((maskLanes c.active).filterMap (fun l => (bad l).map (fun e => (l, e)))).isEmpty && c.stops) = false := by
    cases hc : c.stops
    · simp
    · have : (maskLanes c.active).filterMap (fun l => (bad l).map (fun e => (l, e))) = [] := by
        simp only [List.filterMap_eq_nil_iff, Option.map_eq_none_iff]
        exact hb hc
      simp [this]
  rw [if_neg (by simp [hst]), if_neg (by simp), hmod, State.advance, State.goto, State.putSplit_setSheaf]
  rfl

end Sys2Proof.Machine
end

