-- ==== Sys2Proof/Laws/LaneAlu.lean ====
section
/-! SUPPORT. What `laneAlu`, the operation of every lane instruction whose lanes compute each alone, does in terms of the form that the
statements give the instruction. -/

namespace Sys2Proof.Machine

theorem beyond_none {r : LaneForm} {named : Nat} (h : r.beyond named = none) :
    namedFault named ((1, r.dst.top r.words) :: r.srcs.map (fun u => (u.field, u.src.reg.top u.words))) = none := by
  rw [namedFault_eq]; exact h

theorem portless_iff {r : LaneForm} (h : r.portless = true) : noPorts r.srcs ∧ r.dst.port = none := by
  simp [LaneForm.portless] at h
  exact ⟨fun u hu => h.2 u hu, h.1⟩

/-- What `laneAlu` does where its form is ready: every active lane's destination takes the form's value, and nothing else changes but
the marked sources' liveness and the split's address. -/
theorem laneAlu_form {s : State} {c : Ctx} (r : LaneForm) (f : List DWord → DWord) (h : s.ctx = some c)
    (hr : r.ready s c = true) (hv : ∀ l, f (r.reads s c l) = r.val (r.reads s c l)) :
    laneAlu s r.srcs r.dst r.words f = .next (s.setSheaf c.k (r.sheaf s c c.active)) := by
  simp [LaneForm.ready] at hr
  obtain ⟨⟨hp, hb⟩, hl⟩ := hr
  obtain ⟨hp1, hp2⟩ := portless_iff hp
  have hdead : ∀ l, c.active.getLsbD l = true → deadField s.free c.sh l r.srcs = none := by
    intro l hal
    unfold deadField
    split
    · next hs =>
      simp [LaneForm.live, hs] at hl
      have := hl l ((mem_maskLanes _ _).2 hal)
      simpa [LaneForm.deadIn] using this
    · rfl
  unfold laneAlu
  rw [laneOp_portless r.srcs r.dst r.words noExtra (fun _ _ vs => (valWords r.words (f (vs.map wordsVal))).map Entry.val!) h hp1 hp2
    (beyond_none hb) (fun _ l hl2 => by simp [laneFault, hdead l ((mem_maskLanes _ _).1 hl2), noExtra])]
  have hbad : (maskLanes c.active).filterMap (fun l => (laneFault s c.sh r.srcs l (noExtra c.sh l (r.srcs.map (fun u => regsRead s.free c.sh l u.src.reg u.words)))).map (fun e => (l, e))) = [] := by
    rw [List.filterMap_eq_nil_iff]
    intro l hl2
    simp [laneFault, hdead l ((mem_maskLanes _ _).1 hl2), noExtra]
  rw [hbad]
  simp only [State.raiseSome]
  congr 2
  unfold LaneForm.sheaf
  congr 1
  congr 1
  funext l ln
  by_cases hal : c.active.getLsbD l = true
  · simp only [hal, laneFault, hdead l hal, noExtra, LaneForm.lane]
    have := hv l
    simp only [LaneForm.reads] at this ⊢
    simp only [List.map_map]
    have e : (wordsVal ∘ fun (u : SrcUse) => regsRead s.free c.sh l u.src.reg u.words) =
        fun (u : SrcUse) => wordsVal (regsRead s.free c.sh l u.src.reg u.words) := rfl
    rw [e, this]
    simp [valWords]
    rfl
  · simp [hal]

end Sys2Proof.Machine
end

