-- ==== Sys2Proof/Laws/Memory.lean ====
section
/-! SUPPORT. The laws of `Memory`: every operation keeps the canonical form, and a read after a write. -/

namespace Sys2Proof.Machine

theorem Memory.wfFrom_mono {m : Memory} {a b : Nat} (h : b ≤ a) (hw : Memory.wfFrom a m = true) :
    Memory.wfFrom b m = true := by
  cases m with
  | nil => rfl
  | cons p m =>
    obtain ⟨x, v⟩ := p
    simp only [Memory.wfFrom, Bool.and_eq_true, decide_eq_true_eq] at hw ⊢
    exact ⟨⟨by omega, hw.1.2⟩, hw.2⟩

theorem Memory.wfFrom_cons {m : Memory} {lo a : Nat} (b : Byte) (h : lo ≤ a) (hw : Memory.wfFrom (a + 1) m = true) :
    Memory.wfFrom lo (Memory.cons a b m) = true := by
  unfold Memory.cons
  split
  · exact Memory.wfFrom_mono (by omega) hw
  · simp_all [Memory.wfFrom]

theorem Memory.wfFrom_set (m : Memory) (lo x : Nat) (v : Byte) (h : lo ≤ x) (hw : Memory.wfFrom lo m = true) :
    Memory.wfFrom lo (Memory.set m x v) = true := by
  induction m generalizing lo with
  | nil => exact Memory.wfFrom_cons v h rfl
  | cons p m ih =>
    obtain ⟨a, b⟩ := p
    simp only [Memory.wfFrom, Bool.and_eq_true, decide_eq_true_eq] at hw
    unfold Memory.set
    split
    · refine Memory.wfFrom_cons v h ?_
      simp only [Memory.wfFrom, Bool.and_eq_true, decide_eq_true_eq]
      exact ⟨⟨by omega, hw.1.2⟩, hw.2⟩
    · split
      · subst_vars; exact Memory.wfFrom_cons v h hw.2
      · simp only [Memory.wfFrom, Bool.and_eq_true, decide_eq_true_eq]
        exact ⟨hw.1, ih (a + 1) (by omega) hw.2⟩

/-- A byte written keeps the canonical form. -/
theorem Memory.set_keeps_wf (m : Memory) (x : Nat) (v : Byte) (h : m.wf = true) : (m.set x v).wf = true :=
  Memory.wfFrom_set m 0 x v (Nat.zero_le x) h

/-- Bytes written keep the canonical form. -/
theorem Memory.write_keeps_wf (m : Memory) (a : Nat) (bs : List Byte) (h : m.wf = true) : (m.write a bs).wf = true := by
  induction bs generalizing m a with
  | nil => exact h
  | cons b bs ih => exact ih _ _ (Memory.set_keeps_wf m a b h)

theorem Memory.wf_nil : Memory.wf [] = true := rfl

/-- The memory of the machine at reset is in canonical form. -/
theorem reset_mem_wf : State.reset.mem.wf = true := rfl

/-! ### Reading after writing -/

theorem Memory.get_below {m : Memory} {lo x : Nat} (hw : Memory.wfFrom lo m = true) (h : x < lo) : m.get x = 0 := by
  cases m with
  | nil => rfl
  | cons p m =>
    obtain ⟨a, b⟩ := p
    simp only [Memory.wfFrom, Bool.and_eq_true, decide_eq_true_eq] at hw
    simp only [Memory.get]
    rw [if_neg (by omega), if_pos (by omega)]

theorem Memory.get_cons {m : Memory} {a : Nat} (b : Byte) (y : Nat) (hw : Memory.wfFrom (a + 1) m = true) :
    (Memory.cons a b m).get y = if y = a then b else m.get y := by
  unfold Memory.cons
  split
  · next hb =>
    split
    · subst_vars; exact Memory.get_below hw (by omega)
    · rfl
  · simp only [Memory.get]
    split
    · subst_vars; simp
    · next h =>
      rw [if_neg (Ne.symm h)]
      split
      · exact (Memory.get_below hw (by omega)).symm
      · rfl

theorem Memory.get_set_from (m : Memory) (lo x y : Nat) (v : Byte) (h : lo ≤ x) (hw : Memory.wfFrom lo m = true) :
    (m.set x v).get y = if y = x then v else m.get y := by
  induction m generalizing lo with
  | nil => rw [Memory.set, Memory.get_cons v y rfl]
  | cons p m ih =>
    obtain ⟨a, b⟩ := p
    have hw' := hw
    simp only [Memory.wfFrom, Bool.and_eq_true, decide_eq_true_eq] at hw'
    unfold Memory.set
    split
    · next hx =>
      refine Memory.get_cons v y ?_
      simp only [Memory.wfFrom, Bool.and_eq_true, decide_eq_true_eq]
      exact ⟨⟨by omega, hw'.1.2⟩, hw'.2⟩
    · next hx =>
      split
      · subst_vars
        rw [Memory.get_cons v y hw'.2]
        split
        · rfl
        · next hy =>
          simp only [Memory.get]
          rw [if_neg (Ne.symm hy)]
          split
          · exact Memory.get_below hw'.2 (by omega)
          · rfl
      · next hxa =>
        simp only [Memory.get]
        split
        · subst_vars; rw [if_neg (Ne.symm hxa)]
        · split
          · rw [if_neg (by omega)]
          · exact ih (a + 1) (by omega) hw'.2

/-- A read after a byte is written: the byte there, every other address as before. -/
theorem Memory.get_set (m : Memory) (x y : Nat) (v : Byte) (h : m.wf = true) :
    (m.set x v).get y = if y = x then v else m.get y :=
  Memory.get_set_from m 0 x y v (Nat.zero_le x) h

/-- Bytes below a written range are untouched. -/
theorem Memory.get_write_below (m : Memory) (a y : Nat) (bs : List Byte) (h : m.wf = true) (hy : y < a) :
    (m.write a bs).get y = m.get y := by
  induction bs generalizing m a with
  | nil => rfl
  | cons b bs ih =>
    rw [Memory.write, ih _ _ (Memory.set_keeps_wf m a b h) (by omega), Memory.get_set m a y b h, if_neg (by omega)]

/-- A read after a range is written: the range reads back, every other address as before. -/
theorem Memory.get_write (m : Memory) (a y : Nat) (bs : List Byte) (h : m.wf = true) :
    (m.write a bs).get y = if a ≤ y ∧ y < a + bs.length then (bs[y - a]?).getD 0 else m.get y := by
  induction bs generalizing m a with
  | nil => rw [if_neg (by simp only [List.length_nil]; omega), Memory.write]
  | cons b bs ih =>
    by_cases hy : y = a
    · subst hy
      rw [Memory.write, Memory.get_write_below _ _ _ _ (Memory.set_keeps_wf m y b h) (by omega), Memory.get_set m y y b h]
      simp
    · rw [Memory.write, ih _ _ (Memory.set_keeps_wf m a b h), Memory.get_set m a y b h, if_neg hy]
      by_cases hr : a + 1 ≤ y ∧ y < a + 1 + bs.length
      · rw [if_pos hr, if_pos (by simp; omega), show y - a = (y - (a + 1)) + 1 by omega]
        simp
      · rw [if_neg hr, if_neg (by simp; omega)]

/-- What was written reads back. -/
theorem Memory.read_write_same (m : Memory) (a : Nat) (bs : List Byte) (h : m.wf = true) :
    (m.write a bs).read a bs.length = bs := by
  induction bs generalizing m a with
  | nil => rfl
  | cons b bs ih =>
    simp only [Memory.write, List.length_cons, Memory.read]
    rw [Memory.get_write_below _ _ _ _ (Memory.set_keeps_wf m a b h) (by omega), Memory.get_set m a a b h, if_pos rfl,
      ih _ _ (Memory.set_keeps_wf m a b h)]

end Sys2Proof.Machine
end

