-- ==== Sys2Proof/Tests/Examples.lean ====
section
/-! SUPPORT. Small states for the tests, and the spec's own worked examples: each theorem is about one instruction, its expected
value taken from the table or text of the rule that its comment names. -/

namespace Sys2Proof.Tests

-- One test after the other: tests that wait for one another would each hold a thread.
set_option Elab.async false

open Sys2Proof.Machine

/-! ### Small states -/

/-- The smallest program, its sheaf about to issue. -/
def base : State := { State.reset.loadSmallest with cur := .sheaf 0 0 }

/-- The same with the sheaf changed. -/
def withSheaf (f : Sheaf → Sheaf) (s : State := base) : State := { s with sheaves := s.sheaves.map (fun p => (p.1, f p.2)) }

/-- The same with the workgroup changed. -/
def withWg (f : Workgroup → Workgroup) (s : State := base) : State := { s with wgs := s.wgs.map (fun p => (p.1, f p.2)) }

/-- The sheaf as issued from, with its named registers n0, n1, ... live with these values in every lane, and its queue entries. -/
def named (ns : List Word) (qs : List Word := []) (s : State := base) : State :=
  withSheaf (fun sh => { sh with lanes := sh.lanes.map (fun l =>
    { l with n := lsets l.n 0 (ns.map (fun w => ⟨w, true, none⟩)), q := lsets l.q 0 (qs.map (fun w => ⟨w, true, none⟩)) }) }) s

/-- With its group-uniform registers g0, g1, ... -/
def group (gs : List Word) (s : State := base) : State := withSheaf (fun sh => { sh with g := lsets sh.g 0 gs }) s

/-- The context of a state that has one; of any other, one that no statement is about. -/
def ctxOf (s : State) : Ctx :=
  (s.ctx).getD ⟨0, 0, { (Sheaf.launch 0 0 0 ⟨0, 0, 8, 0, 1⟩ loadKernel 0 [] [] false 0) with named := 0 }, Split.fresh 0 0, loadWorkgroup 0⟩

theorem ctx_of {s : State} (h : s.ctx.isSome = true) : s.ctx = some (ctxOf s) := by
  unfold ctxOf
  cases hc : s.ctx with
  | none => simp [hc] at h
  | some c => rfl

/-- The sheaf after an instruction. -/
def after (i : Instr) (s : State) : Option Sheaf :=
  match exec i s with
  | .next t => t.sheaf 0
  | _ => none

/-- The queue's newest entries of lane 0 after an instruction. -/
def pushed (i : Instr) (s : State) (n : Nat := 1) : List Word :=
  match after i s with
  | some sh => ((lget (⟨[], [], []⟩ : Lane) sh.lanes 0).q.take n).map (·.val)
  | none => []

/-- A named register of a lane after an instruction. -/
def reg (i : Instr) (s : State) (k : Nat) (lane : Nat := 0) : Word :=
  match after i s with
  | some sh => (lget Entry.dead (lget (⟨[], [], []⟩ : Lane) sh.lanes lane).n k).val
  | none => 0

/-- A group-uniform register after an instruction. -/
def greg (i : Instr) (s : State) (k : Nat) : Word :=
  match after i s with
  | some sh => lget 0 sh.g k
  | none => 0

/-- What is pushed by an instruction of n0, n1, ... -/
def of (ws : List Word) (i : Instr) : Word := (pushed i (named ws)).headD 0xDEAD

/-- A named source. -/
def r (k : Fin 32) : LSrc := ⟨.n k, false⟩

/-! ### Integer examples -/

-- R60: the three examples of wrap against saturation, and the remainder of -7 by 2
theorem test_add_wraps_or_saturates :
    of [0x7FFFFFFF, 1] (.addR ⟨false, false⟩ false .push (r 0) (r 1)) = 0x80000000 ∧
    of [0x7FFFFFFF, 1] (.addR ⟨false, false⟩ true .push (r 0) (r 1)) = 0x7FFFFFFF ∧
    of [0xFFFFFFF0, 0x20] (.addR ⟨false, true⟩ false .push (r 0) (r 1)) = 0x10 ∧
    of [0xFFFFFFF0, 0x20] (.addR ⟨false, true⟩ true .push (r 0) (r 1)) = 0xFFFFFFFF := by decide +kernel
theorem test_sub_wraps_or_saturates :
    of [3, 5] (.subR ⟨false, true⟩ false .push (r 0) (r 1)) = 0xFFFFFFFE ∧
    of [3, 5] (.subR ⟨false, true⟩ true .push (r 0) (r 1)) = 0 := by decide +kernel
theorem test_division :
    of [0xFFFFFFF9, 2] (.rem ⟨false, false⟩ .push (r 0) (r 1)) = 0xFFFFFFFF ∧
    of [0x80000000, 0xFFFFFFFF] (.divInt ⟨false, false⟩ false .push (r 0) (r 1)) = 0x80000000 ∧
    of [0x80000000, 0xFFFFFFFF] (.divInt ⟨false, false⟩ true .push (r 0) (r 1)) = 0x7FFFFFFF ∧
    of [7, 0] (.divInt ⟨false, false⟩ true .push (r 0) (r 1)) = 0xFFFFFFFF ∧
    of [7, 0] (.rem ⟨false, true⟩ .push (r 0) (r 1)) = 7 := by decide +kernel
-- R67: movl then movt
theorem test_movt_keeps_the_low_half : reg (.movt (.n 5) 0x1234) (named [0, 0, 0, 0, 0, 0x5678]) 5 = 0x12345678 := by
  decide +kernel
-- R10, R11: a 64-bit result is pushed high word first, so that q0 is the low word
theorem test_pair_is_pushed_low_word_newest :
    pushed (.addI64 .push (r 0) 4) (named [0xFFFFFFFE, 1]) 2 = [2, 2] := by decide +kernel

/-! ### Float, conversion and packed examples -/

-- R85's table
theorem test_rounded_functions :
    of [0x00200000] (.rcp .rne .push (r 0) 0) = 0x7F800000 ∧ of [0x00200000] (.rcp .rtz .push (r 0) 0) = 0x7F7FFFFF ∧
    of [0xC3150000] (.exp2 .rne .push (r 0) 0) = 1 ∧ of [0x41100000] (.sqrt .rne .push (r 0) 0) = 0x40400000 := by
  decide +kernel
theorem test_exp2_far_below :
    of [0xC3200000] (.exp2 .rup .push (r 0) 0) = 1 ∧ of [0xC3200000] (.exp2 .rne .push (r 0) 0) = 0 := by decide +kernel
-- R86's table
theorem test_conversions :
    of [0x40AAAAAB] (.cvt .e4m3 .f32 .rne false .push (r 0)) = 0x4B ∧
    of [0x40A00000] (.cvt .e2m1 .f32 .rne false .push (r 0)) = 6 ∧
    of [0x40A00000] (.cvt .e2m1 .f32 .rup false .push (r 0)) = 7 ∧
    of [0x01000001] (.cvt .f32 .i32 .rne false .push (r 0)) = 0x4B800000 ∧
    of [0x01000001] (.cvt .f32 .i32 .rup false .push (r 0)) = 0x4B800001 := by decide +kernel
theorem test_conversions_to_integers :
    of [0xC0200000] (.cvt .i32 .f32 .rne false .push (r 0)) = 0xFFFFFFFE ∧
    of [0x4F400000] (.cvt .i32 .f32 .rne false .push (r 0)) = 0x7FFFFFFF ∧
    of [0xBF800000] (.cvt .n32 .f32 .rne false .push (r 0)) = 0 ∧
    of [0xFFFFFFFF] (.cvt .n32 .i32 .rne false .push (r 0)) = 0xFFFFFFFF ∧
    of [0xFFFFFFFF] (.cvt .n32 .i32 .rne true .push (r 0)) = 0 := by decide +kernel
-- R87, R88
theorem test_pack_and_unpk :
    of [0x11223344, 0xAB] (.pack .b8 .push (r 0) (r 1)) = 0xAB112233 ∧
    of [0xAB112233, 3] (.unpk .b8 true .push (r 0) (r 1)) = 0xFFFFFFAB ∧
    of [0xAB112233, 7] (.unpk .b8 false .push (r 0) (r 1)) = 0xAB := by decide +kernel
-- R89: single rounding; R90: a tie
theorem test_dot_and_scale :
    of [0x3F804700, 0x3F804700, 0xCE800000] (.dot .bf16 (r 0) (r 1) (r 2)) = 0x3F800000 ∧
    of [3, 0x7E] (.scale .rne .push (r 0) (r 1)) = 2 ∧ of [3, 0x7E] (.scale .rtz .push (r 0) (r 1)) = 1 := by decide +kernel
-- R81: the two zeros, and a NaN beside a number
theorem test_extrema :
    of [0x80000000, 0] (.fmin .f32 .push (r 0) (r 1)) = 0x80000000 ∧ of [0x80000000, 0] (.fmax .f32 .push (r 0) (r 1)) = 0 ∧
    of [0x7FC00000, 0x3F800000] (.fmax .f32 .push (r 0) (r 1)) = 0x3F800000 := by decide +kernel

/-! ### Deaths, dead reads, traps -/

-- R16: a dead register reads 0; under `.strict` it traps with 0x03
theorem test_dead_read :
    of [7] (.addR ⟨false, false⟩ false .push (r 0) (r 9)) = 7 ∧
    ((after (.addR ⟨false, false⟩ false .push (r 0) (r 9)) (withSheaf (fun sh => { sh with strict := true }) (named [7]))).bind
      (fun sh => sh.pend.map (fun f => (f.code, f.opnd)))) = some (0x03, 3) := by decide +kernel
-- R15: a marked source dies
theorem test_marked_source_dies :
    ((after (.addR ⟨false, false⟩ false .push ⟨.n 0, true⟩ (r 1)) (named [7, 8])).map
      (fun sh => ((lget (⟨[], [], []⟩ : Lane) sh.lanes 7).n.take 2).map (·.live))) = some [false, true] := by decide +kernel
-- R14, R36: a register from the declared count on traps with 0x04 and has no effect
theorem test_register_out_of_range :
    ((after (.addR ⟨false, false⟩ false .push (r 0) (r 9)) (withSheaf (fun sh => { sh with named := 8 }) (named [7]))).bind
      (fun sh => sh.pend.map (fun f => (f.code, f.opnd)))) = some (0x04, 3) := by decide +kernel
-- R275: `trap` parks its split, with the code in IMM and RPC at the next word
theorem test_trap_parks :
    ((after (.trap 0x123) base).bind (fun sh => sh.pend.map (fun f => (f.code, f.imm, f.rpc)))) = some (0x18, 0x123, 0x10004) := by
  decide +kernel

/-! ### The group set and the lanes -/

-- R119: each lane its own index
theorem test_laneid : reg (.laneid (.n 3)) base 3 5 = 5 := by decide +kernel
-- R74, R20: a taken branch counts words from itself
theorem test_branch :
    ((after (.br (-1)) base).map (fun sh => sh.ctl.splits.map (·.pc))) = some [0x3FFF] ∧
    ((after (.bz (.g 0) 4) base).map (fun sh => sh.ctl.splits.map (·.pc))) = some [0x4004] := by decide +kernel
-- R75: `call` links the next word
theorem test_call_links : greg (.call 4) base 30 = 0x10004 ∧ greg (.call 4) base 31 = 0 := by decide +kernel
-- R114: the immediate is sign-extended
theorem test_group_add : greg (.gAddI (.g 3) (.g 3) (-1)) (group [0, 0, 0, 5]) 3 = 4 := by decide +kernel
-- R72: counters above their limit stall with the class's reason (R318)
theorem test_waitc_stalls :
    ((after (.waitc 0 15 15 15) (withSheaf (fun sh => { sh with loads := 1 }))).map (fun sh => sh.ctl.splits.map (·.stall))) =
      some [3] := by decide +kernel
-- R97: lanes that disagree divide
theorem test_lane_branch_divides :
    let s := withSheaf (fun sh => { sh with lanes := mapIdxFrom (fun l ln =>
      { ln with n := lset ln.n 0 ⟨BitVec.ofNat 32 (l % 2), true, none⟩ }) 0 sh.lanes })
    ((after (.brl (.n 0) 8) s).map (fun sh => sh.ctl.splits.map (fun x => (x.pc, x.mask)))) =
      some [(0x4001, 0x55), (0x4008, 0xAA)] := by decide +kernel

end Sys2Proof.Tests
end

