-- ==== Sys2Proof/Tests/Words.lean ====
section
/-! SUPPORT. A word for every constructor that has an encoding, written out field by field from R24 to R34 and R308, decodes to
the instruction it stands for; and the worked words of the spec. -/

namespace Sys2Proof.Tests

-- One test after the other: tests that wait for one another would each hold a thread.
set_option Elab.async false

/-! ### The formats of R24, R25 and R308 -/

/-- Lane format R. -/
def laneR (op : BitVec 8) (d a : BitVec 6) (la : BitVec 1) (b : BitVec 6) (lb : BitVec 1) (sub : BitVec 4) : Word :=
  op ++ d ++ a ++ la ++ b ++ lb ++ sub
/-- Lane format I. -/
def laneI (op : BitVec 8) (d a : BitVec 6) (la : BitVec 1) (imm : BitVec 11) : Word := op ++ d ++ a ++ la ++ imm
/-- Lane format K. -/
def laneK (op : BitVec 8) (d : BitVec 6) (sub : BitVec 2) (imm : BitVec 16) : Word := op ++ d ++ sub ++ imm
/-- Lane format T. -/
def laneT (op : BitVec 8) (a : BitVec 6) (la : BitVec 1) (b : BitVec 6) (lb : BitVec 1) (c : BitVec 6) (lc : BitVec 1)
    (md : BitVec 3) : Word := op ++ a ++ la ++ b ++ lb ++ c ++ lc ++ md
/-- Lane format M. -/
def laneM (op : BitVec 8) (d base : BitVec 6) (lb : BitVec 1) (seg : BitVec 3) (off : BitVec 8) : Word :=
  op ++ d ++ base ++ lb ++ seg ++ off
/-- Lane format A. -/
def laneA (op : BitVec 8) (d base : BitVec 6) (lb : BitVec 1) (seg scope : BitVec 3) (ord : BitVec 2) (sub : BitVec 3) : Word :=
  op ++ d ++ base ++ lb ++ seg ++ scope ++ ord ++ sub
/-- Lane format X. -/
def laneX (op : BitVec 8) (t set : BitVec 2) (a : BitVec 6) (b : BitVec 3) (f : BitVec 6) (reuse zero : BitVec 1)
    (sub : BitVec 3) : Word := op ++ t ++ set ++ a ++ b ++ f ++ reuse ++ zero ++ sub
/-- Group format R. -/
def groupR (op : BitVec 8) (d a b sub : BitVec 6) : Word := op ++ d ++ a ++ b ++ sub
/-- Group format I. -/
def groupI (op : BitVec 8) (d a : BitVec 6) (imm : BitVec 12) : Word := op ++ d ++ a ++ imm
/-- Group format K. -/
def groupK (op : BitVec 8) (d : BitVec 6) (sub : BitVec 2) (imm : BitVec 16) : Word := op ++ d ++ sub ++ imm
/-- Group format B. -/
def groupB (op : BitVec 8) (c : BitVec 6) (off : BitVec 18) : Word := op ++ c ++ off
/-- Group format W. -/
def groupW (op : BitVec 8) (l s c t : BitVec 4) (sub : BitVec 8) : Word := op ++ l ++ s ++ c ++ t ++ sub
/-- The R-type layout of Xirbcp. -/
def xirbcp (f7 : BitVec 7) (rs2 rs1 : BitVec 5) (f3 : BitVec 3) (rd : BitVec 5) : Word := f7 ++ rs2 ++ rs1 ++ f3 ++ rd ++ 0x0B#7

/-- Every word of the list decodes to the instruction beside it. -/
def decodes (l : List (Word × Instr)) : Bool := l.all (fun p => decodeTableWord 32 p.1.toNat == some p.2)

/-- A named register as a source, not marked. -/
def nn (k : Fin 32) : LSrc := ⟨.n k, false⟩
/-- A named register as a source, marked. -/
def nx (k : Fin 32) : LSrc := ⟨.n k, true⟩
/-- A queue entry as a source, not marked. -/
def qq (k : Fin 16) : LSrc := ⟨.q k, false⟩

/-! ### Lane integer cells (R29, R30): destination n5 = 21, source n6 = 22 marked, source q3 -/

theorem test_words_lane_arithmetic : decodes [
    (laneR 0x01 21 22 1 3 0 0b0010, .addR ⟨false, false⟩ true (.n 5) (nx 6) (qq 3)),
    (laneI 0x02 21 22 1 0x7FF, .addI32 (.n 5) (nx 6) (-1)),
    (laneI 0x03 20 22 1 4, .addI64 (.n 4) (nx 6) 4),
    (laneR 0x04 20 22 1 3 0 0b1100, .subR ⟨true, true⟩ false (.n 4) (nx 6) (qq 3)),
    (laneR 0x05 0 22 1 3 0 0b0100, .mulR ⟨false, true⟩ false .push (nx 6) (qq 3)),
    (laneR 0x06 20 22 1 3 0 0b1000, .mulhi ⟨true, false⟩ (.n 4) (nx 6) (qq 3)),
    (laneT 0x07 22 1 3 0 24 1 0b111, .mad ⟨true, true⟩ true (nx 6) (qq 3) (nx 8)),
    (laneR 0x08 56 22 1 3 0 0b0000, .divInt ⟨false, false⟩ false (.h 0) (nx 6) (qq 3)),
    (laneR 0x09 21 22 1 3 0 0b0100, .rem ⟨false, true⟩ (.n 5) (nx 6) (qq 3)),
    (laneR 0x0A 21 22 1 3 0 0b0000, .minInt ⟨false, false⟩ (.n 5) (nx 6) (qq 3)),
    (laneR 0x0A 21 22 1 3 0 0b0101, .maxInt ⟨false, true⟩ (.n 5) (nx 6) (qq 3)),
    (laneR 0x0B 21 22 1 3 0 0b1010, .cmpSigned .lt true (.n 5) (nx 6) (qq 3)),
    (laneR 0x1B 21 22 1 3 0 0b0101, .cmpUnsigned .ge false (.n 5) (nx 6) (qq 3))] = true := by decide +kernel

theorem test_words_lane_logic : decodes [
    (laneR 0x0C 21 22 1 48 0 0b0000, .andR false (.n 5) (nx 6) ⟨.g 0, false⟩),
    (laneR 0x0D 20 22 1 4 1 0b1000, .orR true (.n 4) (nx 6) ⟨.q 4, true⟩),
    (laneR 0x0E 21 22 1 57 0 0b0000, .xorR false (.n 5) (nx 6) ⟨.h 1, false⟩),
    (laneI 0x0F 21 22 1 0x400, .andI (.n 5) (nx 6) (-1024)),
    (laneI 0x10 21 22 1 0x3FF, .orI (.n 5) (nx 6) 1023),
    (laneI 0x11 21 22 1 1, .xorI (.n 5) (nx 6) 1),
    (laneR 0x12 20 22 1 3 0 0b1000, .shlR true (.n 4) (nx 6) (qq 3)),
    (laneR 0x13 21 22 1 3 0 0b0000, .shrR false (.n 5) (nx 6) (qq 3)),
    (laneR 0x14 21 22 1 3 0 0b0000, .sarR false (.n 5) (nx 6) (qq 3)),
    (laneI 0x15 20 22 1 0x7F, .shlI true (.n 4) (nx 6) 63),
    (laneI 0x16 21 22 1 0x1F, .shrI false (.n 5) (nx 6) 31),
    (laneI 0x17 21 22 1 0x04, .sarI false (.n 5) (nx 6) 4),
    (laneT 0x18 22 1 3 0 24 1 0b001, .bfx true (nx 6) (qq 3) (nx 8)),
    (laneT 0x19 22 1 3 0 24 1 0b000, .bfi (nx 6) (qq 3) (nx 8)),
    (laneR 0x1A 20 22 1 0 0 0b1011, .bit .brev true (.n 4) (nx 6)),
    (laneT 0x1C 22 1 3 0 24 1 0b000, .sel (nx 6) (qq 3) (nx 8))] = true := by decide +kernel

theorem test_words_lane_constants : decodes [
    (laneK 0x1D 21 0 0x5678, .movl (.n 5) 0x5678),
    (laneK 0x1D 0 1 0x8000, .movs .push 0x8000),
    (laneK 0x1D 21 2 0x1234, .movt (.n 5) 0x1234),
    (laneR 0x1E 21 22 1 0 0 0, .nget (.n 5) (nx 6)),
    (laneR 0x1F 0 22 1 3 0 0, .nset (nx 6) (qq 3))] = true := by decide +kernel

/-! ### Lane float, conversion and packed cells (R29, R30, R32) -/

theorem test_words_lane_float : decodes [
    (laneR 0x20 21 22 1 3 0 0b0001, .fadd .f32 .rtz (.n 5) (nx 6) (qq 3)),
    (laneR 0x21 21 22 1 3 0 0b0110, .fsub .f16 .rdn (.n 5) (nx 6) (qq 3)),
    (laneR 0x22 21 22 1 3 0 0b1011, .fmul .bf16 .rup (.n 5) (nx 6) (qq 3)),
    (laneR 0x25 21 22 1 3 0 0b0000, .fdiv .f32 .rne (.n 5) (nx 6) (qq 3)),
    (laneT 0x23 22 1 3 0 24 1 0b101, .fma true .rtz (nx 6) (qq 3) (nx 8)),
    (laneR 0x24 21 22 1 3 0 0b0100, .fmin .f16 (.n 5) (nx 6) (qq 3)),
    (laneR 0x24 21 22 1 3 0 0b1001, .fmax .bf16 (.n 5) (nx 6) (qq 3)),
    (laneR 0x26 21 22 1 3 0 0b1110, .fcmp .uo true (.n 5) (nx 6) (qq 3)),
    (laneR 0x27 21 22 1 0 0 0b0000, .abs .f32 (.n 5) (nx 6) 0),
    (laneR 0x27 21 22 1 0 0 0b0101, .neg .f16 (.n 5) (nx 6) 0),
    (laneR 0x27 21 22 1 3 0 0b1010, .csgn .bf16 (.n 5) (nx 6) (qq 3)),
    (laneR 0x28 21 22 1 0 0 0b0000, .rcp .rne (.n 5) (nx 6) 0),
    (laneR 0x29 21 22 1 0 0 0b0001, .rsqrt .rtz (.n 5) (nx 6) 0),
    (laneR 0x2A 21 22 1 0 0 0b0010, .sqrt .rdn (.n 5) (nx 6) 0),
    (laneR 0x2B 21 22 1 0 0 0b0011, .exp2 .rup (.n 5) (nx 6) 0),
    (laneR 0x2C 21 22 1 0 0 0b0000, .log2 .rne (.n 5) (nx 6) 0),
    (laneR 0x2D 21 22 1 0 0 0b0100, .class .f16 (.n 5) (nx 6))] = true := by decide +kernel

theorem test_words_lane_packed : decodes [
    (laneR 0x30 21 22 1 0b011000 0 0b0100, .cvt .e4m3 .f32 .rne true (.n 5) (nx 6)),
    (laneR 0x31 21 22 1 3 0 0b0001, .pack .b8 (.n 5) (nx 6) (qq 3)),
    (laneR 0x32 21 22 1 3 0 0b0110, .unpk .b16 true (.n 5) (nx 6) (qq 3)),
    (laneT 0x33 22 1 3 0 24 1 0b110, .dot .i4 (nx 6) (qq 3) (nx 8)),
    (laneR 0x34 21 22 1 3 0 0b0001, .scale .rtz (.n 5) (nx 6) (qq 3))] = true := by decide +kernel

/-! ### Lane-mask, memory and matrix cells (R30, R31) -/

theorem test_words_lane_mask : decodes [
    (laneR 0x38 21 0 0 0 0 0, .laneid (.n 5)),
    (laneR 0x39 20 22 1 0 0 0b1010, .lmask .eq true (.n 4) (nx 6)),
    (laneR 0x3A 21 22 1 0 0 0b0001, .lcount .z false (.n 5) (nx 6)),
    (laneR 0x3B 21 22 1 0 0 0b0011, .lrank .ne false (.n 5) (nx 6)),
    (laneR 0x3C 21 22 1 3 0 0b0010, .lpullR .rot (.n 5) (nx 6) (qq 3)),
    (laneI 0x3D 21 22 1 0b00_01_1111111, .lpullI .step (.n 5) (nx 6) (-1)),
    (laneR 0x3E 21 22 1 0 0 0b1010, .lred .max true (.n 5) (nx 6) 0)] = true := by decide +kernel

theorem test_words_lane_plain_memory : decodes [
    (laneM 0x40 0 16 1 1 0x80, .ldI8 .push ⟨nx 0, 1, 0x80⟩),
    (laneM 0x41 21 16 0 0 0x7F, .ldFp8 (.n 5) ⟨nn 0, 0, 0x7F⟩),
    (laneM 0x42 21 2 1 2 0, .ldH16 (.n 5) ⟨⟨.q 2, true⟩, 2, 0⟩),
    (laneM 0x43 21 16 0 3 1, .ldW32 (.n 5) ⟨nn 0, 3, 1⟩),
    (laneM 0x44 20 16 0 4 1, .ldD64 (.n 4) ⟨nn 0, 4, 1⟩),
    (laneM 0x45 20 16 0 5 1, .ldq (.n 4) ⟨nn 0, 5, 1⟩),
    (laneM 0x46 48 16 0 6 1, .stB8 (.g 0) ⟨nn 0, 6, 1⟩),
    (laneM 0x47 57 16 0 7 1, .stH16 (.h 1) ⟨nn 0, 7, 1⟩),
    (laneM 0x48 15 16 0 0 1, .stW32 (.q 15) ⟨nn 0, 0, 1⟩),
    (laneM 0x49 14 16 0 0 1, .stD64 (.q 14) ⟨nn 0, 0, 1⟩),
    (laneM 0x4A 12 16 0 0 1, .stq (.q 12) ⟨nn 0, 0, 1⟩)] = true := by decide +kernel

theorem test_words_lane_ordered_memory : decodes [
    (laneA 0x50 20 16 1 1 2 1 1, .ldOrdered true (.n 4) ⟨nx 0, 1, .gg, .acq⟩),
    (laneA 0x51 21 16 0 0 3 2 0, .stOrdered false (.n 5) ⟨nn 0, 0, .dv, .rel⟩),
    (laneA 0x52 21 16 0 0 4 3 6, .atom32 .minn (.n 5) ⟨nn 0, 0, .pd, .ar⟩),
    (laneA 0x53 20 16 0 0 0 0 3, .atom64 .xor (.n 4) ⟨nn 0, 0, .sh, .rlx⟩),
    (laneA 0x54 20 16 0 0 1 1 1, .xchg true (.n 4) ⟨nn 0, 0, .wg, .acq⟩),
    (laneA 0x55 20 16 0 0 1 3 0, .cas false (.n 4) ⟨nn 0, 0, .wg, .ar⟩),
    (laneA 0x56 0 0 0 0 3 2 0, .fence .rel .dv)] = true := by decide +kernel

theorem test_words_matrix : decodes [
    (laneX 0x60 1 2 24 3 50 1 1 0, .mma ⟨1, 2⟩ (.n 8) 3 (.g 2) true true),
    (laneX 0x61 1 2 0 0 50 0 0 0, .accz ⟨1, 2⟩ (.g 2)),
    (laneX 0x62 1 2 32 5 51 0 0 1, .accrd ⟨1, 2⟩ (.n 16) 5 (.g 3) true),
    (laneX 0x63 1 2 32 5 51 0 0 0, .accwr ⟨1, 2⟩ (.n 16) 5 (.g 3))] = true := by decide +kernel

/-! ### Group cells (R33, R34): destination g4, source b2 = 34, source %cycle = 54 -/

theorem test_words_group_arithmetic : decodes [
    (groupR 0x81 4 34 54 0b001110, .gAddR ⟨true, true⟩ true (.g 4) (.b 2) (.sp .cycle)),
    (groupI 0x82 4 34 0xFFF, .gAddI (.g 4) (.b 2) (-1)),
    (groupR 0x83 4 34 48 0b000000, .gSub ⟨false, false⟩ false (.g 4) (.b 2) (.sp .sheaf)),
    (groupR 0x84 4 34 49 0b000010, .gMul ⟨false, false⟩ true (.g 4) (.b 2) (.sp .wg)),
    (groupR 0x85 4 34 50 0b000100, .gMulhi ⟨false, true⟩ (.g 4) (.b 2) (.sp .gang)),
    (groupR 0x86 4 34 51 0b000000, .gMin ⟨false, false⟩ (.g 4) (.b 2) (.sp .stage)),
    (groupR 0x86 4 34 52 0b000101, .gMax ⟨false, true⟩ (.g 4) (.b 2) (.sp .width)),
    (groupR 0x87 4 34 54 0b011101, .gCmp .ge true true (.g 4) (.b 2) (.sp .cycle)),
    (groupR 0x88 32 56 53 0b000000, .gAndR false (.b 0) (.h 0) (.sp .wgsize)),
    (groupR 0x89 4 54 54 0b001000, .gOrR true (.g 4) (.sp .cycle) (.sp .cycle)),
    (groupR 0x8A 57 34 55 0b000000, .gXorR false (.h 1) (.b 2) (.sp .part)),
    (groupI 0x8B 4 34 0x800, .gAndI (.g 4) (.b 2) 0x800),
    (groupI 0x8C 4 34 1, .gOrI (.g 4) (.b 2) 1),
    (groupI 0x8D 4 34 2, .gXorI (.g 4) (.b 2) 2)] = true := by decide +kernel

theorem test_words_group_shifts : decodes [
    (groupR 0x8E 4 34 3 0b001000, .gShlR true (.g 4) (.b 2) (.g 3)),
    (groupR 0x8F 4 34 3 0b000000, .gShrR false (.g 4) (.b 2) (.g 3)),
    (groupR 0x90 4 34 3 0b000000, .gSarR false (.g 4) (.b 2) (.g 3)),
    (groupI 0x91 4 34 0b0000_0_1_000100, .gShlI true (.g 4) (.b 2) 4),
    (groupI 0x92 4 34 0b0000_0_0_011111, .gShrI false (.g 4) (.b 2) 31),
    (groupI 0x93 4 34 0b0000_0_1_111111, .gSarI true (.g 4) (.b 2) 63),
    (groupR 0x94 4 34 0 0b000001, .gBit .clz false (.g 4) (.b 2)),
    (groupR 0x95 4 34 3 0b000001, .gBfx true (.g 4) (.b 2) (.g 3)),
    (groupR 0x96 4 31 0 0, .gMov (.g 4) (.g 31)),
    (groupK 0x97 4 0 0xFFFF, .gMovl (.g 4) 0xFFFF),
    (groupK 0x97 4 1 0xFFFF, .gMovs (.g 4) 0xFFFF),
    (groupK 0x97 47 2 0xFFFF, .gMovt (.b 15) 0xFFFF),
    (groupR 0x98 4 21 3 0, .rdlane (.g 4) (.n 5) (.g 3)),
    (groupR 0x99 4 7 0 0, .rdfirst (.g 4) (.q 7)),
    (groupR 0x9A 4 0 0 0, .amask (.g 4))] = true := by decide +kernel

theorem test_words_control : decodes [
    (groupB 0xA0 0 0x3FFFF, .br (-1)), (groupB 0xA1 55 9, .bz (.sp .part) 9), (groupB 0xA2 4 8, .bnz (.g 4) 8),
    (groupB 0xA3 0 0x20000, .call 0x20000), (groupR 0xA4 0 0 0 0, .ret), (groupR 0xA5 0 34 0 0, .jmp (.b 2)),
    (groupB 0xA6 20 0x3FFFB, .brl (.n 4) (-5)), (groupB 0xA7 3 1, .brlz (.q 3) 1), (groupR 0xA8 0 0 0 0, .merge),
    (groupR 0xA9 0 0 0 0, .exit), (groupR 0xAA 0 0 0 0, .nop), (groupW 0xB0 1 2 3 15 0, .waitc 1 2 3 15),
    (groupR 0xB1 0 0 0 0, .barWg), (groupR 0xB1 0 0 0 1, .barGg), (groupR 0xB2 0 0 0 0, .yield),
    (groupI 0xB3 0 0 0xFFF, .sleep 0xFFF), (groupR 0xB4 0 34 0 0, .tmset (.b 2)),
    (groupR 0xB5 0 34 4 0b011_101, .watch .dv 5 (.b 2) (.g 4)), (groupR 0xB6 0 34 4 0b000_101, .await 5 (.b 2) (.g 4)),
    (groupR 0xF8 0 34 0 0, .enter (.b 2)), (groupR 0xF9 0 0 0 0, .leave)] = true := by decide +kernel

theorem test_words_copies_and_leases : decodes [
    (groupR 0xC0 0 8 24 0b00_0_101, .copy (.g 8) (.g 24) 5), (groupR 0xC0 0 8 0 0b00_1_000, .copyNa (.g 8)),
    (groupR 0xC1 0 16 24 0b00_0_000, .copy2d (.g 16) (.g 24) 0), (groupR 0xC1 0 40 0 0b00_1_000, .copy2dNa (.b 8)),
    (groupR 0xC2 0 8 14 2, .mcast (.g 8) (.g 14)), (groupR 0xC3 0 8 14 5, .cred .xor (.g 8) (.g 14)),
    (groupR 0xC4 0 0 0 0, .mfence), (groupR 0xC5 0 0 0 3, .mlease 3), (groupR 0xC6 0 0 0 2, .mpass 2),
    (groupR 0xC7 0 0 0 1, .mfree 1)] = true := by decide +kernel

theorem test_words_queues_tasks_joins : decodes [
    (groupR 0xD0 58 3 0 0, .qbind false 2 (.g 3)), (groupR 0xD0 58 3 0 1, .qbind true 2 (.g 3)),
    (groupR 0xD1 20 58 0 0, .qpopRec (.n 4) 2), (groupR 0xD2 0 20 59 0, .qpushRec (.n 4) 3), (groupR 0xD3 58 0 0 0, .qunbind 2),
    (groupR 0xD4 0 8 0 0, .spawn (.g 8)), (groupR 0xD5 0 8 10 0, .depset (.g 8) (.g 10)), (groupR 0xD6 0 8 0 0, .depdec (.g 8)),
    (groupR 0xD7 12 8 10 0, .fread (.g 12) (.g 8) (.g 10)), (groupR 0xD8 12 8 10 0, .fwrite (.g 12) (.g 8) (.g 10)),
    (groupR 0xD9 0 26 28 1, .jbind 1 (.g 26) (.g 28)), (groupR 0xDA 0 32 5 0b000_0_00, .qcontrib 0 (.n 16) (.g 5)),
    (groupR 0xDA 0 20 5 0b000_1_01, .qcontribRow 1 (.g 20) (.g 5)), (groupR 0xDB 0 0 0 3, .qarrive 3),
    (groupR 0xDC 0 0 0 2, .qkpt 2), (groupR 0xDD 0 0 0 1, .qwait 1)] = true := by decide +kernel

theorem test_words_segments_and_granary : decodes [
    (groupR 0xE0 0 4 0 0b000_101, .setsegBase 5 (.g 4)), (groupR 0xE0 0 4 0 0b001_110, .setsegLast 6 (.g 4)),
    (groupR 0xE0 0 4 0 0b010_111, .setsegHi 7 (.g 4)), (groupR 0xE0 0 0 0 0b100_101, .setsegClr 5),
    (groupR 0xE1 4 0 0 0b000_001, .getseg 0 1 (.g 4)), (groupR 0xE2 5 6 8 0, .grant (.g 5) (.g 6) (.g 8)),
    (groupR 0xE3 0 5 0 0, .gfree (.g 5)), (groupR 0xE4 0 5 6 0, .grank (.g 5) (.g 6)), (groupR 0xE5 0 5 0 0, .shadow (.g 5)),
    (groupR 0xE6 6 0 0 0, .gstatLevel (.g 6)), (groupR 0xE6 6 4 0 1, .gstatAlloc (.g 6) (.g 4)), (groupR 0xE7 0 0 0 0, .lret),
    (groupR 0xE8 8 0 0 0, .tsread (.g 8)), (groupR 0xE9 4 0 0 3, .ctrd (.g 4) 3)] = true := by decide +kernel

theorem test_words_traps : decodes [
    (groupI 0xF0 0 0 0x123, .trap 0x123), (groupI 0xF1 0 0 1, .syscall 1), (groupI 0xF2 0 0 0xFFF, .brk 0xFFF),
    (groupR 0xF3 0 0 0 0, .tret), (groupR 0xF4 0 0 0 0, .rgnBegin), (groupR 0xF4 0 0 0 1, .rgnEnd),
    (groupR 0xF5 21 0 0 15, .qfrd (.n 5) 15), (groupR 0xF6 0 34 0 3, .saveopq (.b 2) 3),
    (groupR 0xF7 0 34 0 3, .loadopq (.b 2) 3)] = true := by decide +kernel

theorem test_words_firmware : decodes [
    (xirbcp 0 12 11 0 10, .ringf 10 11 12), (xirbcp 0 12 11 1 10, .bfe 10 11 12), (xirbcp 0 0 6 2 5, .sigw 5 6),
    (xirbcp 0 12 11 3 10, .disp 10 11 12)] = true := by decide +kernel

/-! ### Words that the spec works out -/

theorem test_spec_words : decodes [
    (0x01596810, .addR ⟨false, false⟩ false (.n 6) (nx 6) ⟨.q 0, true⟩), (0xA653FFFB, .brl (.n 4) (-5)),
    (0x30554B04, .cvt .e4m3 .f32 .rne true (.n 5) (nx 4)), (0x23020D68, .fma false .rne ⟨.q 0, true⟩ ⟨.q 1, true⟩ (nx 6)),
    (0x34016830, .scale .rne .push (nx 6) ⟨.q 1, true⟩), (0x60060E40, .mma ⟨0, 0⟩ (.n 8) 1 (.g 2) false false),
    (0x61000640, .accz ⟨0, 0⟩ (.g 2)), (0x62082E60, .accrd ⟨0, 0⟩ (.n 16) 5 (.g 3) false),
    (0xC0008008, .copyNa (.g 8)), (0xC2008382, .mcast (.g 8) (.g 14)), (0xD2014EC0, .qpushRec (.n 4) 3),
    (0xD8308280, .fwrite (.g 12) (.g 8) (.g 10)), (0xDA014145, .qcontribRow 1 (.g 20) (.g 5)),
    (0xE1100001, .getseg 0 1 (.g 4)), (0xE6184001, .gstatAlloc (.g 6) (.g 4)), (0x0003228B, .sigw 5 6)] = true := by
  decide +kernel

/-! ### Words that are no instructions (R36, in its order) -/

theorem test_refused_words :
    [decode 0, decode 0xFFFFFFFF, decode (laneR 0x35 0 0 0 0 0 0), decode (laneR 0x01 0 16 0 16 0 1),
     decode (laneR 0x0B 0 16 0 16 0 6), decode (laneI 0x15 0 16 0 32), decode (laneR 0x30 0 16 0 0b001001 0 0),
     decode (laneA 0x50 0 16 0 0 5 0 0), decode (laneA 0x50 0 16 0 0 0 2 0), decode (laneR 0x38 21 1 0 0 0 0),
     decode (groupR 0xA8 1 0 0 0), decode (groupR 0xC2 0 8 14 3)].all
      (fun x => match x with | .error .illegal => true | _ => false) = true := by decide +kernel

/-- The word is refused at a field. -/
def refusedAt (w : Word) (f : Nat) : Bool :=
  match decode w with
  | .error (.operand g) => g == f
  | _ => false

theorem test_refused_operands :
    (refusedAt (laneR 0x01 1 16 0 16 0 0) 1 && refusedAt (laneR 0x01 0 48 1 16 0 0) 2 &&
     refusedAt (laneR 0x01 0 16 0 17 0 0b1000) 3 && refusedAt (laneT 0x1C 16 0 16 0 56 1 0) 4 &&
     refusedAt (groupR 0xE0 0 4 0 0b000_100) 0 && refusedAt (laneK 0x1D 0 2 0) 1) = true := by decide +kernel

end Sys2Proof.Tests
end

