-- ==== Sys2Proof/Tests/Slice0.lean ====
section
/-! SUPPORT. The smoke test of WellFormed: for each check an ill-formed term that it refuses, beside a term that it accepts. -/

namespace Sys2Proof.Tests

-- One test after the other: tests that wait for one another would each hold a thread.
set_option Elab.async false

/-- Terms that are no instructions. -/
def illFormed : List Instr :=
  [.addR ⟨false, false⟩ false (.n 5) ⟨.g 0, true⟩ (nn 0),       -- a last-use bit on a group register (R15)
   .addR ⟨false, false⟩ false (.n 5) (nn 0) ⟨.h 3, true⟩,       -- and on a port
   .addR ⟨true, false⟩ false (.n 5) (nn 0) (nn 2),              -- an odd destination pair (R11)
   .addR ⟨true, false⟩ false (.h 1) (nn 0) (nn 2),              -- a port as a 64-bit destination (R58)
   .addR ⟨true, false⟩ false .push (nn 1) (nn 2),               -- an odd named pair
   .addR ⟨true, false⟩ false .push (qq 15) (nn 2),              -- a queue pair past q15
   .addR ⟨true, false⟩ false .push ⟨.g 5, false⟩ (nn 2),        -- an odd group pair
   .shlI false (.n 5) (nn 0) 32,                                -- a reserved shift count (R62)
   .movt .push 0, .movt (.h 0) 0,                               -- `movt` of no named register (R67)
   .cvt .f16 .bf16 .rne false (.n 5) (nn 0), .cvt .f32 .f32 .rne false (.n 5) (nn 0),   -- reserved selectors (R32)
   .lmask .nz true (.n 4) (nn 0), .lpullI .at (.n 5) (nn 0) 64, -- R120, R122
   .ldW32 (.h 0) ⟨nn 0, 0, 0⟩, .ldW32 (.n 5) ⟨nn 1, 0, 0⟩,      -- R26, R19
   .ldW32 (.n 5) ⟨⟨.g 0, false⟩, 0, 0⟩, .ldq (.n 2) ⟨nn 0, 0, 0⟩,
   .stq (.q 13) ⟨nn 0, 0, 0⟩, .stD64 (.h 0) ⟨nn 0, 0, 0⟩,       -- R70
   .ldOrdered false (.n 5) ⟨nn 0, 0, .dv, .rel⟩, .stOrdered false (.n 5) ⟨nn 0, 0, .dv, .acq⟩,   -- R31
   .atom32 .add (.h 0) ⟨nn 0, 0, .dv, .rlx⟩, .cas true (.n 2) ⟨nn 0, 0, .dv, .rlx⟩, .fence .rlx .dv,
   .mma ⟨0, 0⟩ (.n 2) 0 (.g 0) false false, .mma ⟨0, 0⟩ (.q 0) 0 (.g 0) false false,      -- R26
   .accz ⟨0, 0⟩ (.h 0),                                         -- R214
   .gAddR ⟨true, false⟩ false (.g 4) (.sp .sheaf) (.g 0), .gAddR ⟨true, false⟩ false (.g 5) (.g 0) (.g 0),   -- R27, R113
   .gMovt (.h 0) 0, .rdlane (.g 0) (.g 1) (.g 0), .bz (.h 0) 0, .jmp (.g 31), .brl (.h 0) 0,   -- R34
   .copy (.g 28) (.g 0) 0, .copy2d (.b 10) (.g 0) 0, .copy (.g 3) (.g 0) 0, .qpopRec (.q 0) 0, .qcontrib 0 (.n 2) (.g 0),
   .setsegBase 4 (.g 0), .setsegClr 0, .grant (.g 0) (.g 1) (.g 2), .qfrd (.h 0) 0,
   .levelNotice 0 25, .levelRise 0 0, .siloRetirement 416, .feed 0 0 [[]], .queueCreate 4096 (.hbm 0) 4 0 0 ⟨false, []⟩,
   .queueCreate 0 (.hbm 0) 17 0 0 ⟨false, []⟩, .budgetChange 1000 [1, 1, 1, 1] ⟨1750, 1750⟩]

/-- Terms that are. -/
def wellFormed : List Instr :=
  [.addR ⟨true, false⟩ false (.n 4) (qq 14) ⟨.g 6, false⟩, .addR ⟨false, false⟩ false (.h 1) (nx 31) ⟨.h 3, false⟩,
   .shlI true (.n 4) (nn 0) 63, .movt (.n 31) 0, .cvt .n32 .n32 .rne false (.n 5) (nn 0), .lmask .ne true (.n 4) (nn 0),
   .lpullI .step (.n 5) (nn 0) 64, .ldq (.n 28) ⟨qq 14, 7, 0⟩, .stq (.q 12) ⟨nn 0, 0, 0⟩, .stW32 (.h 7) ⟨nn 0, 0, 0⟩,
   .cas true (.n 28) ⟨nn 0, 0, .pd, .ar⟩, .fence .acq .sh, .mma ⟨3, 3⟩ (.n 28) 7 (.q 15) true true,
   .gAddR ⟨true, false⟩ false (.b 14) (.sp .cycle) (.g 30), .gMovt (.b 0) 0, .bz (.sp .part) 0, .jmp (.b 14), .brl (.q 15) 0,
   .copy (.g 26) (.b 0) 0, .copy2d (.b 8) (.g 0) 0, .qpopRec (.n 31) 7, .setsegClr 5, .grant (.h 0) (.h 1) (.b 12), .qfrd .push 15,
   .levelNotice 3 24, .levelRise 0 1, .siloRetirement 415, .queueCreate 4095 (.hbm 0) 16 0 0 ⟨false, [(0, 0x7FFF)]⟩,
   .budgetChange 3400 [24, 24, 24, 1] ⟨1750, 1750⟩]

theorem test_wellFormed_refuses : illFormed.all (fun i => !i.wf) = true := by decide +kernel
theorem test_wellFormed_accepts : wellFormed.all Instr.wf = true := by decide +kernel

end Sys2Proof.Tests
end

