-- ==== Sys2Proof/Tests/Witness1.lean ====
section
/-! SUPPORT. Concrete states that meet the hypotheses of the statements about words, steps, lanes, groups and control, one for each
clause. -/

namespace Sys2Proof.Tests

-- One test after the other: tests that wait for one another would each hold a thread.
set_option Elab.async false

open Sys2Proof.Machine

/-! ### Words, steps, the machine as a whole -/

theorem test_witness_decode_of_encode :
    ∃ (i : Instr) (w : Word), i.wf = true ∧ (∀ d c a, i ≠ .grantRelight d c a) ∧ encode i = some w ∧ decode w = .ok i :=
  ⟨.nop, 0xAA000000, by decide, (fun _ _ _ => nofun), rfl, rfl⟩

theorem test_witness_decode_xirbcp : ∃ (w : Word) (i : Instr), decodeXirbcp w = some i := ⟨0x00C5950B, .bfe 10 11 12, by decide⟩

/-- The smallest program with `nop` at its entry, placed. -/
def placed : State := State.reset.withFetchWord 32 0xAA000000
/-- The same with its first split at an address that nothing maps. -/
def lost : State := { withSheaf (fun sh => { sh with ctl := { sh.ctl with splits := sh.ctl.splits.map (fun x => x.at 0x800000) } }) placed
  with agenda := placed.agenda }
/-- A firmware core's turn at a Xirbcp word, at a word outside it, and at one that R307 refuses. -/
def fwPlaced : State := State.reset.withFetchWord 32 0x00C5950B
/-- A firmware core's turn at a word. -/
def fwAt (w : Word) : State := { State.reset.setFw 0 { FwCore.reset with mem := Memory.write [] 0 (leBytes 4 w.toNat) } with agenda := [.fw 0] }

theorem test_witness_step_issue :
    placed.nextMove = some (.issue 0 0) ∧ placed.mayIssue 0 0 = true ∧
    (let s0 : State := { placed with cur := .sheaf 0 0, word := 0 }
     s0.ctx.isSome = true ∧ s0.fetch (ctxOf s0) = .word 0xAA000000) := by decide +kernel
theorem test_witness_step_no_instruction :
    (let s := State.reset.withFetchWord 32 0
     s.nextMove = some (.issue 0 0) ∧ s.mayIssue 0 0 = true ∧
     (let s0 : State := { s with cur := .sheaf 0 0, word := 0 }
      s0.ctx.isSome = true ∧ s0.fetch (ctxOf s0) = .word 0)) := by decide +kernel
theorem test_witness_step_fetch_fault :
    lost.nextMove = some (.issue 0 0) ∧ lost.mayIssue 0 0 = true ∧
    (let s0 : State := { lost with cur := .sheaf 0 0, word := 0 }
     s0.ctx.isSome = true ∧ s0.fetch (ctxOf s0) = .fault 0x09 ∧ (ctxOf s0).calm = true) := by decide +kernel
/-- The same program in no code object. -/
def unloaded : State := { placed with code := [] }
/-- A firmware core with a software interrupt pending and enabled. -/
def interrupted : State := { State.reset.setFw 0 { FwCore.reset with mstatus := 8, mie := 8, mip := 8 } with agenda := [.fw 0] }
theorem test_witness_step_not_loaded :
    unloaded.nextMove = some (.issue 0 0) ∧ unloaded.mayIssue 0 0 = true ∧ unloaded.firmware.memHold = false ∧
    (let s0 : State := { unloaded with cur := .sheaf 0 0, word := 0 }
     s0.ctx.isSome = true ∧ s0.fetch (ctxOf s0) = .absent) := by decide +kernel
theorem test_witness_step_interrupt :
    interrupted.nextMove = some (.fw 0) ∧ (interrupted.fw 0).failed = false ∧ interrupted.firmware.memHold = false ∧
    ((interrupted.fw 0).interrupt.map (fun c => c.mcause)) = some 0x80000003 := by decide +kernel
theorem test_witness_step_firmware :
    fwPlaced.nextMove = some (.fw 0) ∧ (fwPlaced.fw 0).failed = false ∧ (fwPlaced.fw 0).interrupt = none ∧ fwPlaced.firmware.memHold = false ∧ fwPlaced.fwWord 0 = 0x00C5950B ∧
    decodeXirbcp 0x00C5950B = some (.bfe 10 11 12) ∧
    (fwAt 0x400B).nextMove = some (.fw 0) ∧ (fwAt 0x400B).fwWord 0 = 0x400B ∧ decodeXirbcp 0x400B = none ∧
    (fwAt 0x13).nextMove = some (.fw 0) ∧ (fwAt 0x13).fwWord 0 = 0x13 := by decide +kernel
theorem test_witness_step_event :
    ({ State.reset with agenda := [.event (.ptpCorrection 5)] } : State).nextMove = some (.event (.ptpCorrection 5)) := by
  decide +kernel

/-- Whether an outcome is a next state. -/
def goesOn (o : Host.Outcome State Fault Refusal) : Bool := match o with | .next _ => true | _ => false

-- an `addi x0, x0, 0`, a base word, goes on as well
theorem test_steps_go_on : goesOn (step placed) = true ∧ goesOn (step State.reset) = true ∧ goesOn (step (fwAt 0x13)) = true := by
  decide +kernel
theorem test_witness_invariants : placed.memories.all Memory.wf = true ∧
    placed.sheaves.all (fun p => decide ((p.2.ctl.splits.filter (fun x => x.replay.isNone)).map (fun x => x.pc)).Nodup) = true := by
  decide +kernel

/-! ### Lanes that compute each alone -/

/-- n0 to n3 live. -/
def live : State := named [1, 2, 3, 4] [5, 6]
/-- The same, `.strict`. -/
def strict : State := withSheaf (fun sh => { sh with strict := true }) live
/-- The same with 8 named registers declared. -/
def few : State := withSheaf (fun sh => { sh with named := 8 }) live

theorem test_witness_integer_lanes :
    ∃ (i : Instr) (r : LaneForm) (s : State) (c : Ctx), arithForm i = some r ∧ s.ctx = some c ∧ r.ready s c = true ∧ c.sh.strict = true :=
  ⟨.addR ⟨true, false⟩ true (.n 4) (Tests.r 0) (Tests.r 2), _, strict, ctxOf strict, rfl, ctx_of (by decide +kernel),
    by decide +kernel, by decide +kernel⟩
theorem test_witness_logic_lanes : ∃ (i : Instr) (r : LaneForm) (s : State) (c : Ctx), logicForm i = some r ∧ s.ctx = some c ∧ r.ready s c = true :=
  ⟨.movt (.n 31) 7, _, live, ctxOf live, rfl, ctx_of (by decide +kernel), by decide +kernel⟩
theorem test_witness_float_lanes : ∃ (i : Instr) (r : LaneForm) (s : State) (c : Ctx), floatForm i = some r ∧ s.ctx = some c ∧ r.ready s c = true :=
  ⟨.fma false .rup ⟨.q 0, true⟩ (Tests.r 1) (Tests.r 9), _, live, ctxOf live, rfl, ctx_of (by decide +kernel), by decide +kernel⟩
theorem test_witness_packed_lanes : ∃ (i : Instr) (r : LaneForm) (s : State) (c : Ctx), packForm i = some r ∧ s.ctx = some c ∧ r.ready s c = true :=
  ⟨.dot .e2m1 (Tests.r 0) (Tests.r 1) (Tests.r 2), _, live, ctxOf live, rfl, ctx_of (by decide +kernel), by decide +kernel⟩
theorem test_witness_mask_lanes : ∃ (i : Instr) (r : MaskForm) (s : State) (c : Ctx), maskForm i = some r ∧ s.ctx = some c ∧ r.fields.ready s c = true :=
  ⟨.lpullR .rot .push (Tests.r 0) (Tests.r 1), _, strict, ctxOf strict, rfl, ctx_of (by decide +kernel), by decide +kernel⟩

/-- A form whose instruction completes on live registers, and one with a queue port. -/
def readyForm (r : LaneForm) : Bool := match live.ctx with | some c => r.ready live c | none => false
theorem test_witness_single_rules :
    (readyForm (.two true (.n 4) 2 (Tests.r 0) (Tests.r 2) (fun x _ => x)) && readyForm (.one false .push 1 (Tests.r 0) id) &&
     readyForm ⟨.push, 1, [⟨2, Tests.r 0, 1⟩, ⟨3, Tests.r 1, 1⟩, ⟨4, Tests.r 2, 1⟩], fun v => v.getD 1 0⟩ && readyForm (.const (.n 5) 0)) = true := by
  decide +kernel
theorem test_witness_register_beyond :
    ∃ (i : Instr) (r : LaneForm) (s : State) (c : Ctx) (f : Nat), laneForm i = some r ∧ s.ctx = some c ∧ c.calm = true ∧ r.beyond c.sh.named = some f :=
  ⟨.andR true .push (Tests.r 6) (Tests.r 8), _, few, ctxOf few, 3, rfl, ctx_of (by decide +kernel), by decide +kernel,
    by decide +kernel⟩
/-- `.strict` with n0 dead in lane 3 alone. -/
def oneDead : State := withSheaf (fun sh => { sh with lanes := mapIdxFrom (fun l ln =>
  if l = 3 then { ln with n := lset ln.n 0 ⟨0, false, none⟩ } else ln) 0 sh.lanes }) strict
theorem test_witness_dead_read :
    ∃ (i : Instr) (r : LaneForm) (s : State) (c : Ctx) (l : Nat) (f : Nat) (rest : List (Nat × Nat)), laneForm i = some r ∧ s.ctx = some c ∧ c.calm = true ∧ c.sp.replay = none ∧ r.portless = true ∧
      r.beyond c.sh.named = none ∧ c.sh.strict = true ∧ r.deadLanes s c = (l, f) :: rest :=
  ⟨.subR ⟨false, false⟩ false .push (Tests.r 1) (Tests.r 0), _, oneDead, ctxOf oneDead, 3, 3, [], rfl, ctx_of (by decide +kernel),
    by decide +kernel, by decide +kernel, by decide +kernel, by decide +kernel, by decide +kernel, by decide +kernel⟩
theorem test_witness_mask_dead_read :
    ∃ (i : Instr) (r : MaskForm) (s : State) (c : Ctx) (l : Nat) (f : Nat) (rest : List (Nat × Nat)), maskForm i = some r ∧ s.ctx = some c ∧ c.calm = true ∧ r.fields.portless = true ∧
      r.fields.beyond c.sh.named = none ∧ c.sh.strict = true ∧ r.fields.deadLanes s c = (l, f) :: rest :=
  ⟨.lmask .nz false (.n 2) (Tests.r 0), _, oneDead, ctxOf oneDead, 3, 2, [], rfl, ctx_of (by decide +kernel),
    by decide +kernel, by decide +kernel, by decide +kernel, by decide +kernel, by decide +kernel⟩

theorem test_witness_indexed_moves :
    ∃ (s : State) (c : Ctx), s.ctx = some c ∧ c.calm = true ∧ c.sp.replay = none ∧ c.sh.named ≤ 32 ∧
      (LaneForm.one false .push 1 (Tests.r 0) id).beyond c.sh.named = none ∧
      (LaneForm.two false .push 1 (Tests.r 0) (Tests.r 1) (fun x _ => x)).beyond c.sh.named = none ∧
      liveOrLax s c (fun _ => .n 0) = true ∧ liveOrLax s c (fun _ => .n 1) = true ∧
      liveOrLax s c (fun l => .n (Fin.ofNat 32 (indexIn s c (Tests.r 0) l))) = true :=
  ⟨strict, ctxOf strict, ctx_of (by decide +kernel), by decide +kernel, by decide +kernel, by decide +kernel, by decide +kernel,
    by decide +kernel, by decide +kernel, by decide +kernel, by decide +kernel⟩

/-! ### Queue ports -/

/-- A queue of two records. -/
def queue (state : QState := .opened) (tail : Word := 2) : Queue :=
  { ring := .hbm 0x100000, log2 := 4, part := 0, owner := 0, dispatch := false, head := 0, tail := tail, floor := 0, state := state
    done := [], taken := [], popped := 0, bad := [], inc := 0 }
/-- Ports h0 popping queue 7 and h1 pushing queue 8. -/
def ported (q : Queue) (s : State := live) : State :=
  withSheaf (fun sh => { sh with ports := [some ⟨7, 0, false, 0, 0⟩, some ⟨8, 0, true, 0, 0⟩, none, none, none, none, none, none] })
    { s with queues := [(7, q), (8, queue .opened 0)] }

theorem test_witness_lane_ports :
    ∃ (i : Instr) (r : LaneForm) (s : State) (c : Ctx), laneForm i = some r ∧ s.ctx = some c ∧ c.sh.strict = false ∧ r.beyond c.sh.named = none ∧ r.portless = false ∧
      (r.ports (maskLanes c.active).length).findSome? (s.portFault c.sh (r.ports (maskLanes c.active).length)) = none ∧
      s.portsReady (s.portNeeds c.sh (r.ports (maskLanes c.active).length)) = true :=
  ⟨.addR ⟨false, false⟩ false (.h 1) ⟨.h 0, false⟩ (Tests.r 0), _, ported (queue), ctxOf (ported (queue)), rfl,
    ctx_of (by decide +kernel), by decide +kernel, by decide +kernel, by decide +kernel, by decide +kernel, by decide +kernel⟩
theorem test_witness_lane_ports_stall :
    ∃ (i : Instr) (r : LaneForm) (s : State) (c : Ctx), laneForm i = some r ∧ s.ctx = some c ∧ c.sh.strict = false ∧ r.beyond c.sh.named = none ∧
      (r.ports (maskLanes c.active).length).findSome? (s.portFault c.sh (r.ports (maskLanes c.active).length)) = none ∧
      s.portsReady (s.portNeeds c.sh (r.ports (maskLanes c.active).length)) = false :=
  ⟨.addR ⟨false, false⟩ false .push ⟨.h 0, false⟩ (Tests.r 0), _, ported (queue .opened 0), ctxOf (ported (queue .opened 0)), rfl,
    ctx_of (by decide +kernel), by decide +kernel, by decide +kernel, by decide +kernel, by decide +kernel⟩
theorem test_witness_lane_ports_fault :
    ∃ (i : Instr) (r : LaneForm) (s : State) (c : Ctx) (code : Nat) (f : Nat), laneForm i = some r ∧ s.ctx = some c ∧ c.sh.strict = false ∧ r.beyond c.sh.named = none ∧
      (r.ports (maskLanes c.active).length).findSome? (s.portFault c.sh (r.ports (maskLanes c.active).length)) = some (code, f) ∧ c.calm = true :=
  ⟨.addR ⟨false, false⟩ false .push (Tests.r 0) ⟨.h 0, false⟩, _, ported (queue .draining), ctxOf (ported (queue .draining)), 0x17, 3,
    rfl, ctx_of (by decide +kernel), by decide +kernel, by decide +kernel, by decide +kernel, by decide +kernel⟩

theorem test_witness_group_ports :
    ∃ (i : Instr) (r : GroupForm) (s : State) (c : Ctx), groupForm i = some r ∧ s.ctx = some c ∧ mayWrite c r.dst = true ∧
      (groupUses r.srcs (some r.dst)).findSome? (s.portFault c.sh (groupUses r.srcs (some r.dst))) = none ∧
      s.portsReady (s.portNeeds c.sh (groupUses r.srcs (some r.dst))) = true :=
  ⟨.gMov (.h 1) (.h 0), _, ported (queue), ctxOf (ported (queue)), rfl, ctx_of (by decide +kernel), by decide +kernel,
    by decide +kernel, by decide +kernel⟩
theorem test_witness_group_ports_stall :
    ∃ (i : Instr) (r : GroupForm) (s : State) (c : Ctx), groupForm i = some r ∧ s.ctx = some c ∧ mayWrite c r.dst = true ∧
      (groupUses r.srcs (some r.dst)).findSome? (s.portFault c.sh (groupUses r.srcs (some r.dst))) = none ∧
      s.portsReady (s.portNeeds c.sh (groupUses r.srcs (some r.dst))) = false :=
  ⟨.gMov (.g 1) (.h 0), _, ported (queue .opened 0), ctxOf (ported (queue .opened 0)), rfl, ctx_of (by decide +kernel),
    by decide +kernel, by decide +kernel, by decide +kernel⟩
theorem test_witness_group_ports_fault :
    ∃ (i : Instr) (r : GroupForm) (s : State) (c : Ctx) (code : Nat) (f : Nat), groupForm i = some r ∧ s.ctx = some c ∧ mayWrite c r.dst = true ∧
      (groupUses r.srcs (some r.dst)).findSome? (s.portFault c.sh (groupUses r.srcs (some r.dst))) = some (code, f) ∧ c.calm = true :=
  ⟨.gMov (.h 2) (.g 0), _, ported (queue), ctxOf (ported (queue)), 0x06, 1, rfl, ctx_of (by decide +kernel), by decide +kernel,
    by decide +kernel, by decide +kernel⟩

/-! ### The group set -/

theorem test_witness_group_alu :
    ∃ (i : Instr) (r : GroupForm) (s : State) (c : Ctx), groupForm i = some r ∧ s.ctx = some c ∧ portlessGroup r.srcs (some r.dst) = true ∧ mayWrite c r.dst = true :=
  ⟨.gMulhi ⟨true, true⟩ (.b 14) (.g 30) (.sp .cycle), _, base, ctxOf base, rfl, ctx_of (by decide +kernel), by decide +kernel,
    by decide +kernel⟩
/-- The sheaf as sheaf 1 of its workgroup. -/
def second : State := withSheaf (fun sh => { sh with sidx := 1 })
theorem test_witness_not_sheaf_zero :
    ∃ (i : Instr) (s : State) (c : Ctx) (k : Fin 16), (∃ (r : GroupForm), groupForm i = some r ∧ r.dst = .b k) ∧ s.ctx = some c ∧ c.calm = true ∧
      c.sh.sidx ≠ 0 :=
  ⟨.gMovl (.b 15) 1, second, ctxOf second, 15, ⟨_, rfl, rfl⟩, ctx_of (by decide +kernel), by decide +kernel, by decide +kernel⟩
theorem test_witness_not_sheaf_zero_lanes :
    second.ctx.isSome = true ∧ (ctxOf second).calm = true ∧ (ctxOf second).sh.sidx ≠ 0 ∧
    (LReg.n 31).top 1 = some 31 ∧ 31 < (ctxOf second).sh.named ∧ (LReg.q 3).top 1 = none := by decide +kernel
theorem test_witness_rdlane :
    live.ctx.isSome = true ∧ portlessGroup [⟨3, .g 0, 1⟩] (some (.g 4)) = true ∧ mayWrite (ctxOf live) (.g 4) = true ∧
    ((LReg.n 0).top 1).all (· < (ctxOf live).sh.named) = true ∧
    (gRead live (ctxOf live) 1 (.g 0)).toNat < (ctxOf live).sh.width ∧ (ctxOf live).sh.strict = false ∧
    (let s := group [8] live
     s.ctx.isSome = true ∧ (ctxOf s).sh.width ≤ (gRead s (ctxOf s) 1 (.g 0)).toNat) ∧
    (let s := group [3] oneDead
     s.ctx.isSome = true ∧ (gRead s (ctxOf s) 1 (.g 0)).toNat = 3 ∧ (ctxOf s).sh.strict = true ∧
       regsDead s.free (ctxOf s).sh 3 (.n 0) 1 = true ∧ (ctxOf s).calm = true) := by decide +kernel
/-- `.strict` with only lane 3 in the split, and n0 dead there. -/
def laneThree : State := withSheaf (fun sh => { sh with ctl := { sh.ctl with splits := sh.ctl.splits.map (fun x => { x with mask := 8 }) } })
  oneDead
theorem test_witness_rdfirst :
    live.ctx.isSome = true ∧ maskLanes (ctxOf live).sp.mask = 0 :: [1, 2, 3, 4, 5, 6, 7] ∧
    laneThree.ctx.isSome = true ∧ maskLanes (ctxOf laneThree).sp.mask = [3] ∧ (ctxOf laneThree).sh.strict = true ∧
    regsDead laneThree.free (ctxOf laneThree).sh 3 (.n 0) 1 = true ∧ (ctxOf laneThree).calm = true := by decide +kernel

/-! ### Control flow -/

theorem test_witness_returns_and_jumps :
    (let s := withSheaf (fun sh => { sh with g := lset sh.g 30 0x10008 })
     s.ctx.isSome = true ∧ (DWord.ofPair (lget 0 (ctxOf s).sh.g 30) (lget 0 (ctxOf s).sh.g 31)).toNat % 4 = 0) ∧
    (let s := withSheaf (fun sh => { sh with g := lset sh.g 30 0x10009 })
     s.ctx.isSome = true ∧ (DWord.ofPair (lget 0 (ctxOf s).sh.g 30) (lget 0 (ctxOf s).sh.g 31)).toNat % 4 ≠ 0 ∧
       (ctxOf s).calm = true ∧ (gRead s (ctxOf s) 2 (.g 30)).toNat % 4 ≠ 0) ∧
    base.ctx.isSome = true ∧ (gRead base (ctxOf base) 2 (.b 0)).toNat % 4 = 0 := by decide +kernel
theorem test_witness_region_marks :
    base.ctx.isSome = true ∧ (ctxOf base).sh.haltReq = false ∧
    (let s := withSheaf (fun sh => { sh with haltReq := true })
     s.ctx.isSome = true ∧ (ctxOf s).sh.haltReq = true) := by decide +kernel
theorem test_witness_lane_branches :
    live.ctx.isSome = true ∧ (LReg.n 0).port = none ∧ ((LReg.n 0).top 1).all (· < (ctxOf live).sh.named) = true ∧
    deadOf live (ctxOf live) (ctxOf live).sp.mask (.n 0) = 0 ∧
    oneDead.ctx.isSome = true ∧ (ctxOf oneDead).calm = true ∧
    deadOf oneDead (ctxOf oneDead) (ctxOf oneDead).sp.mask (.n 0) = 8 ∧ (ctxOf oneDead).sp.mask &&& ~~~(8#64) ≠ 0 := by
  decide +kernel
/-- A record of a `trap`. -/
def aFault : FaultRec :=
  { code := 0x18, opnd := 0, imm := 0, word := 0, pc := 0x4000, lanes := 1, addr := 0, alloc := 0, aux := 0, rpc := 0x10004
    save := 0, restore := false, target := 0x18000, site := 0 }
/-- A fault recorded, no handler running. -/
def pending : State := withSheaf (fun sh => { sh with pend := some aFault })
theorem test_witness_rendezvous :
    base.ctx.isSome = true ∧ (ctxOf base).sh.pend = none ∧ pending.ctx.isSome = true ∧ (ctxOf pending).sh.pend ≠ none ∧
    (ctxOf pending).sh.hand = none := by decide +kernel

end Sys2Proof.Tests
end

