-- ==== Sys2Proof/Tests/Witness2.lean ====
section
/-! SUPPORT. Concrete states that meet the hypotheses of the statements about memory, waits and the granary, one for each clause. -/

namespace Sys2Proof.Tests

-- One test after the other: tests that wait for one another would each hold a thread.
set_option Elab.async false

open Sys2Proof.Machine

/-! ### Lane memory -/

/-- n0:n1 holds 0x100, n2:n3 a value. -/
def pair : State := named [0x100, 0, 7, 8]
/-- n0:n1 lies outside the argument segment, which is empty. -/
def at0 : MemM := ⟨r 0, 0, 0⟩
/-- The machine after an instruction. -/
def ran (i : Instr) (s : State) : State := match exec i s with | .next t => t | _ => s

theorem test_witness_lane_access :
    ∃ (i : Instr) (q : MemReq) (s : State) (c : Ctx), memForm i = some q ∧ s.ctx = some c ∧ q.ready s c = true :=
  ⟨.stD64 (.n 2) at0, _, pair, ctxOf pair, rfl, ctx_of (by decide +kernel), by decide +kernel⟩
theorem test_witness_lane_access_ordered :
    ∃ (i : Instr) (q : MemReq) (s : State) (c : Ctx), memForm i = some q ∧ s.ctx = some c ∧ q.ready s c = true :=
  ⟨.cas false (.n 2) ⟨r 0, 0, .pd, .ar⟩, _, pair, ctxOf pair, rfl, ctx_of (by decide +kernel), by decide +kernel⟩
theorem test_witness_outside_segment :
    ∃ (i : Instr) (q : MemReq) (s : State) (c : Ctx) (l : Nat) (rest : List Nat), memForm i = some q ∧ s.ctx = some c ∧
      c.calm = true ∧ c.sp.replay = none ∧ q.beyond c.sh.named = false ∧
      (match q.data with | some (v, _) => v.port.isNone | none => true) = true ∧
      (if q.dst.isNone then c.sh.stores else c.sh.loads) < 63 ∧ maskLanes c.active = l :: rest ∧
      (maskLanes c.active).all (fun m => q.live s c m && (q.address s c m).isNone) = true :=
  ⟨.stW32 (.n 2) ⟨r 0, 4, 0⟩, _, pair, ctxOf pair, 0, [1, 2, 3, 4, 5, 6, 7], rfl, ctx_of (by decide +kernel), by decide +kernel,
    by decide +kernel, by decide +kernel, by decide +kernel, by decide +kernel, by decide +kernel, by decide +kernel⟩
/-- Both counters at 63. -/
def full : State := withSheaf (fun sh => { sh with loads := 63, stores := 63, copies := 63, tiles := 63 }) pair
theorem test_witness_full_counter :
    ∃ (i : Instr) (q : MemReq) (s : State) (c : Ctx), memForm i = some q ∧ s.ctx = some c ∧ q.beyond c.sh.named = false ∧
      63 ≤ (if q.dst.isNone then c.sh.stores else c.sh.loads) :=
  ⟨.ldq .push at0, _, full, ctxOf full, rfl, ctx_of (by decide +kernel), by decide +kernel, by decide +kernel⟩

/-- A load, a store, an atomic issued by lane 0 alone. -/
def single : State := withSheaf (fun sh => { sh with ctl := { sh.ctl with splits := sh.ctl.splits.map (fun x => { x with mask := 1 }) } })
  pair
/-- The loads of an access's sheaf stand in order. -/
def orderly (s : State) (a : Acc) : Bool :=
  s.idsDistinct && decide ((s.sameOp a).map (·.lane)).Nodup && (s.sameOp a).all (fun b => b.stage != .done) &&
  s.accs.all (fun b => b.k != a.k || !b.kind.loads || b.op == a.op || b.stage != .seen)
theorem orderly_holds {s : State} {a : Acc} (h : orderly s a = true) : s.Orderly a := by
  simp only [orderly, Bool.and_eq_true, decide_eq_true_eq, List.all_eq_true, bne_iff_ne, Bool.or_eq_true, Bool.not_eq_true',
    beq_iff_eq] at h
  obtain ⟨⟨⟨h1, h2⟩, h3⟩, h4⟩ := h
  exact ⟨h1, h2, h3, fun b hb hk hl ho => by rcases h4 b hb with ((h | h) | h) | h <;> simp_all⟩
theorem test_witness_load_arrives :
    (let s := ran (.ldI8 .push at0) single
     match s.acc 5 with
     | some a => a.kind == .load 1 0 true && a.size == 1 && a.stage == .issued && s.mayPerform a && orderly s a &&
        (s.sameOp a).all (fun b => b.kind == .load 1 0 true && b.size == 1 && b.id == a.id) &&
        (s.sheaf a.k).isSome && (s.loadBytes a.site a.place 1 (a.pk != .so)).1.length == 1
     | none => false) = true := by decide +kernel
theorem test_witness_store_performs :
    (let s := ran (.stW32 (.n 2) at0) single
     match s.acc 5 with
     | some a => a.kind == .store && a.place == .hbm 0x60100 && s.idsDistinct && s.mates a == [a] && a.size == a.data.length &&
        (s.sheaf a.k).isSome && a.stage == .issued && s.mayPerform a
     | none => false) = true := by decide +kernel
theorem test_witness_store_lands :
    (let s := ran (.storePerform 5) (ran (.stW32 (.n 2) at0) single)
     match s.acc 5 with
     | some a => a.kind == .store && a.place == .hbm 0x60100 && s.idsDistinct && s.mates a == [a] && a.size == a.data.length &&
        (s.sheaf a.k).isSome && a.stage == .path && !s.drainBlocked a && s.plainAt 0x60100 && s.mem.wf
     | none => false) = true := by decide +kernel
theorem test_witness_atomic_performs :
    (let s := ran (.cas false (.n 2) ⟨r 0, 0, .dv, .ar⟩) single
     match s.acc 5 with
     | some a => a.kind == .atom (.cas 8) false 7 && a.place == .hbm 0x60100 && s.mayPerform a &&
        !(s.path a.site).any (fun b => a.place.meets a.size b.place b.size) && s.plainAt 0x60100 && s.mem.wf &&
        (s.sheaf a.k).isSome && orderly s a && (s.sameOp a).all (fun b => b.kind == .atom (.cas 8) false 7)
     | none => false) = true := by decide +kernel

/-- A store outstanding, then a second one to the same bytes of the same lane. -/
def twoStores : State := ran (.stW32 (.n 3) at0) (ran (.stW32 (.n 2) at0) single)
theorem test_witness_fence :
    (let s := ran (.stW32 (.n 2) at0) single
     s.ctx.isSome = true ∧
     s.accs.any (fun x => x.k == (ctxOf s).k && !x.kind.isFence && decide (x.id < s.nextKey)) = true) := by decide +kernel
theorem test_witness_local_edge :
    (match twoStores.accs with
     | [x, y] => x.k == y.k && decide (x.id < y.id) && x.op != y.op && !x.kind.isFence && x.stage == .issued && x.lane == y.lane &&
        x.place.meets x.size y.place y.size && y.stage == .issued && y.kind == .store && (twoStores.acc y.id == some y)
     | _ => false) = true := by decide +kernel
theorem test_witness_local_edge_ordered :
    (let s := ran (.stOrdered false (.n 3) ⟨r 2, 0, .dv, .rel⟩) (ran (.ldOrdered false .push ⟨r 0, 0, .dv, .acq⟩) (named [0x100, 0, 0x200, 0] [] single))
     match s.accs with
     | [x, y] => x.k == y.k && decide (x.id < y.id) && x.op != y.op && x.stage == .issued && x.ord.acquires && x.kind.reads &&
        y.pk != .un && y.ord.releases && y.kind.writes && x.pk != .un
     | _ => false) = true := by decide +kernel
theorem test_witness_local_edge_fence :
    (let s := ran (.stW32 (.n 3) ⟨r 2, 0, 0⟩) (ran (.fence .rel .dv) (ran (.stW32 (.n 2) at0) (named [0x100, 0, 0x200, 0] [] single)))
     s.accs.any (fun x => s.accs.any (fun f => s.accs.any (fun y => x.k == y.k && x.op != y.op && !x.kind.isFence && x.stage == .issued &&
       f.kind == .fence && f.k == x.k && decide (x.id < f.id ∧ f.id < y.id) && f.ord.releases && y.kind.writes)))) = true := by
  decide +kernel
theorem test_witness_light_fault :
    base.firmware.memHold = false ∧ (0x100 : Addr).getLsbD 79 = false ∧ kget base.roots loadAsid.toNat = some loadRoot ∧
    (walk base.mem 0x100 loadRoot levels).isSome = true ∧ base.mem.wf = true := by decide +kernel

/-! ### Waits -/

/-- An allocation of the workgroup of the smallest program. -/
def anAlloc (id : BitVec 16) (state : AllocState) (rank : Nat) (backing : DWord) : Alloc :=
  { id := id, state := state, rank := rank, decl := false, relit := false, woff := (id.toNat - 1) * 16384, size := 1, seq := 0
    handler := 0x10000, backing := backing, wg := 3, handSheaf := none, writeback := none, journal := false, data := [] }
/-- Allocations on core 0. -/
def withAllocs (l : List Alloc) (s : State := base) : State := s.setCore 0 { s.core 0 with allocs := l, nextId := 9, nextSeq := 9 }
theorem test_witness_waitc :
    base.ctx.isSome = true ∧ waitcHeld (ctxOf base) 0 0 0 0 = none ∧
    full.ctx.isSome = true ∧ waitcHeld (ctxOf full) 15 14 0 0 = some 4 := by decide +kernel
theorem test_witness_mfence :
    base.ctx.isSome = true ∧ (ctxOf base).sh.loads = 0 ∧ base.accs = [] ∧ (ctxOf full).sh.loads ≠ 0 := by decide +kernel
/-- Two sheaves of one workgroup, the second waiting at a barrier or not. -/
def twoSheaves (w : Option Wait) : State :=
  { base with sheaves := base.sheaves ++ (base.sheaves.map (fun p => (9, { p.2 with sidx := 1, age := 1, wait := w }))) }
theorem test_witness_barriers :
    (∀ b ∈ [false, true],
      (let s := twoSheaves none
       s.ctx.isSome = true ∧ (ctxOf s).held s b (ctxOf s).sh = true ∧ (ctxOf s).only = true ∧ (ctxOf s).sh.pend = none ∧
        s.sheaves.any (fun p => p.1 != (ctxOf s).k && (ctxOf s).held s b p.2 && !p.2.finished && p.2.wait != some (if b then .barGg else .barWg)) = true) ∧
      (let s := twoSheaves (some (if b then .barGg else .barWg))
       s.ctx.isSome = true ∧ (ctxOf s).only = true ∧ (ctxOf s).drained s b = true ∧
        (match s.sheaves with
         | (k, sh) :: rest => k == (ctxOf s).k && sh == (ctxOf s).sh &&
            rest.all (fun p => p.1 != k && (!(ctxOf s).held s b p.2 || p.2.wait == some (if b then .barGg else .barWg)))
         | _ => false) = true)) ∧
    (let s := ran (.brl (.n 0) 8) (withSheaf (fun sh => { sh with lanes := mapIdxFrom (fun l ln =>
        { ln with n := lset ln.n 0 ⟨BitVec.ofNat 32 (l % 2), true, none⟩ }) 0 sh.lanes }))
     s.ctx.isSome = true ∧ (ctxOf s).only = false) := by decide +kernel
theorem test_witness_sleep_and_timer :
    (let s := withSheaf (fun sh => { sh with sleep := some 0, ctl := { sh.ctl with cmp := 1 } })
     let sh := s.sheaf 0
     sh.isSome = true ∧ sh.all (fun x => !s.haltNow 0 x) = true ∧ sh.all (fun x => x.sleep == some 0 && x.timerFree && x.ctl.cmp != 0) = true) := by decide +kernel
theorem test_witness_port_stall :
    (let s := ran (.addR ⟨false, false⟩ false .push ⟨.h 0, false⟩ (r 0)) (ported (queue .opened 0))
     match s.sheaf 0 with
     | some sh => (match sh.ctl.splits with | [x] => x.stall == 8 && !x.parked | _ => false) && sh.wait.isNone
     | none => false) = true := by decide +kernel
theorem test_witness_watch :
    (let s := group [0x100, 0, 7] base
     s.ctx.isSome = true ∧ (ctxOf s).sp.replay = none ∧ (ctxOf s).sh.pend = none ∧
     ((ctxOf s).spot s [⟨2, .g 0, 2⟩, ⟨3, .g 2, 1⟩] 0 (gRead s (ctxOf s) 2 (.g 0)) 4 4 .rd).isSome = true ∧
     (match (ctxOf s).spot s [⟨2, .g 0, 2⟩, ⟨3, .g 2, 1⟩] 0 (gRead s (ctxOf s) 2 (.g 0)) 8 8 .rd with
      | some (ea, _ :: _) => !s.unpinned (viaOf 0 (ctxOf s).sh (ctxOf s).wg 0) ea 8
      | _ => false) = true) := by decide +kernel
theorem test_witness_reread :
    (∀ w ∈ [Wait.watch 0 0x100 (.hbm 0x60100) .dv 0 0, .await 0 0x100 (.hbm 0x60100) 3 0],
      let s := withSheaf (fun sh => { sh with wait := some w })
      (s.sheaf 0).isSome = true ∧ (s.wg (ctxOf base).sh.wg).isSome = true ∧
      (let v := viaOf 0 (ctxOf base).sh (ctxOf base).wg 0
       s.reach v 0x100 4 .rd = .ok (.hbm 0x60100) .rc ∧ s.reach v 0x100 8 .rd = .ok (.hbm 0x60100) .rc ∧
       s.reach v 0x800000000 4 .rd = .fault 0x09 0 ∧ s.reach v 0x800000000 8 .rd = .fault 0x09 0)) ∧
    (let s := group [0x08, 0, 7] (withAllocs [anAlloc 1 .lit 0 0])
     s.ctx.isSome = true ∧ (ctxOf s).calm = true ∧
     (ctxOf s).address 1 (gRead s (ctxOf s) 2 (.g 0)) 8 = some 0x7FFFFFFFFF0000000008 ∧
     s.unpinned (viaOf 0 (ctxOf s).sh (ctxOf s).wg 1) 0x7FFFFFFFFF0000000008 8 = true) := by decide +kernel

/-! ### Segments and the granary -/

theorem test_witness_segments :
    base.ctx.isSome = true ∧ (GSrc.g 0).port = none ∧ 5 ≤ (5 : Fin 8).val ∧ (4 : Fin 8).val < 5 ∧ (ctxOf base).calm = true ∧
    (GDst.g 4).port = none ∧ mayWrite (ctxOf base) (.g 4) = true ∧ (base.die ((ctxOf base).wg.site / 104)).level < 256 ∧
    (base.die ((ctxOf base).wg.site / 104)).pending = none ∧ (base.core (ctxOf base).wg.site).usable < 256 := by decide +kernel
theorem test_witness_grant :
    (let s := group [0x05004000, 0, 0, 0, 0x10000] base
     s.ctx.isSome = true ∧ (pairAfter (.g 4)).port = none ∧
     (let w := (gRead s (ctxOf s) 1 (.g 0)).lo
      w.getLsbD 31 = false ∧ w.toNat / 2 ^ 27 = 0 ∧ w.toNat % 2 ^ 24 = 16384 ∧ (gRead s (ctxOf s) 2 (.g 4)).toNat % 4 = 0 ∧
      s.granulesFit (ctxOf s).wg.site 1 5 = true ∧ s.windowRoom (ctxOf s).wg.site 1 = true)) ∧
    (let s := group [0, 0, 0, 0, 2] base
     s.ctx.isSome = true ∧ (gRead s (ctxOf s) 1 (.g 0)).lo.toNat % 2 ^ 24 = 0 ∧ (ctxOf s).calm = true ∧
      (gRead s (ctxOf s) 2 (.g 4)).toNat % 4 ≠ 0) ∧
    (let s := group [0x600000] base
     s.ctx.isSome = true ∧ s.granulesFit (ctxOf s).wg.site 384 0 = true ∧ (gRead s (ctxOf s) 1 (.g 0)).lo.toNat = 6291456) ∧
    (let s := group [0x600000] (withAllocs [anAlloc 1 .lit 0 0])
     s.ctx.isSome = true ∧ s.granulesFit (ctxOf s).wg.site 384 0 = false) := by decide +kernel
/-- A handler in progress. -/
def handler (glean : Bool) : Handler :=
  { glean := glean, fault := { aFault with code := if glean then 0x0C else 0x18 }, saved := (ctxOf base).sh.ctl, site := 0, id := 1, no := 0 }
theorem test_witness_relight :
    (let s := withSheaf (fun sh => { sh with hand := some (handler true), g := lset sh.g 1 0x80000001 })
        (withAllocs [{ anAlloc 1 .refilling 0 0 with handSheaf := some 0 }])
     s.ctx.isSome = true ∧ (gRead s (ctxOf s) 1 (.g 1)).lo.getLsbD 31 = true ∧ (gRead s (ctxOf s) 1 (.g 1)).lo.toNat / 2 ^ 16 = 0x8000 ∧
      (ctxOf s).relights s 1 = some 0 ∧ (ctxOf s).relights s 2 = none) ∧
    (let s := group [0, 0xC0000001] base
     s.ctx.isSome = true ∧ (ctxOf s).calm = true ∧ (gRead s (ctxOf s) 1 (.g 1)).lo.getLsbD 31 = true ∧
      (gRead s (ctxOf s) 1 (.g 1)).lo.toNat / 2 ^ 16 ≠ 0x8000) := by decide +kernel
theorem test_witness_allocations :
    (let s := group [0, 6, 7, 8] (withAllocs [])
     s.ctx.isSome = true ∧ (ctxOf s).allocNamed s (gRead s (ctxOf s) 1 (.g 0)).lo = none ∧ (ctxOf s).calm = true ∧
      (gRead s (ctxOf s) 1 (.g 1)).lo.toNat < 7 ∧ (gRead s (ctxOf s) 1 (.g 2)).lo.toNat = 7 ∧ 8 ≤ (gRead s (ctxOf s) 1 (.g 3)).lo.toNat) ∧
    (let s := group [1] (withAllocs [anAlloc 1 .lit 0 0x8000])
     s.ctx.isSome = true ∧ ((ctxOf s).allocNamed s (gRead s (ctxOf s) 1 (.g 0)).lo).isSome = true ∧
      (((ctxOf s).allocNamed s 1).bind (fun x => (ctxOf s).backingSpot s [⟨2, .g 0, 1⟩] x)).isSome = true) ∧
    (∀ st ∈ [AllocState.refilling, .dark, .shadowed],
      let s := group [1] (withAllocs [anAlloc 1 st 0 0x8000])
      s.ctx.isSome = true ∧ ((ctxOf s).allocNamed s (gRead s (ctxOf s) 1 (.g 0)).lo).map (·.state) = some st) := by decide +kernel
theorem test_witness_write_back :
    (let s := ran (.shadow (.g 0)) (group [1] (withAllocs [anAlloc 1 .lit 0 0x8000]))
     match s.alloc 0 1, s.waiterCtx 0 with
     | some a, some c => a.writeback == some 0 && s.untouched 0 1 &&
        (match s.hwPages (viaOf 0 c.sh c.wg 0) .wr (a.size * 16384 / 65536 + 2) (a.backing.setWidth 80) (a.size * 16384) with
         | (u, .ok ps) => u.accs == [] && u.sheaf 0 == some c.sh && u.alloc 0 1 == some a &&
            ps.all (fun p => match p.1 with | .gran .. => false | _ => true)
         | _ => false)
     | _, _ => false) = true := by decide +kernel
-- the tables of the address space are gone: nothing can be written back
theorem test_witness_write_back_fails :
    (let t := ran (.shadow (.g 0)) (group [1] (withAllocs [anAlloc 1 .lit 0 0x8000]))
     let s := { t with roots := [] }
     match s.alloc 0 1, s.waiterCtx 0 with
     | some a, some c => a.writeback == some 0 && s.untouched 0 1 &&
        (match s.hwPages (viaOf 0 c.sh c.wg 0) .wr (a.size * 16384 / 65536 + 2) (a.backing.setWidth 80) (a.size * 16384) with
         | (u, .error code) => code == 0x09 && u.accs == [] && u.sheaf 0 == some c.sh && u.alloc 0 1 == some a
         | _ => false)
     | _, _ => false) = true := by decide +kernel
theorem test_witness_levels :
    (1 ≤ 1 ∧ 24 ≤ 24) ∧ (base.die 0).level = 24 ∧ 1750 ≤ base.floorClock ∧ ({ base with floorClock := 875 } : State).floorClock < 1750 ∧ ((base.setDie 0 { base.die 0 with level := 3 }).die 0).level < 4 := by decide +kernel
/-- A die with a pending level that is due. -/
def due : State :=
  let s := withAllocs [anAlloc 1 .lit 7 0, anAlloc 2 .lit 0 0, anAlloc 3 .refilling 1 0]
  s.setDie 0 { s.die 0 with pending := some (1, 0) }
theorem test_witness_loss_point :
    (due.die 0).pending = some (1, 0) ∧ due.accs = [] ∧
    due.cores.all (fun x => x.1 / 104 == 0 && decide (pinnedGranules x.2.allocs ≤ 16) && decide (1 ≤ x.2.usable) &&
      x.2.allocs.all (fun a => a.writeback.isNone && decide (a.rank ≤ 7))) = true ∧
    1 < (due.core 0).usable ∧ due.writingBack 0 = false ∧ pinnedGranules (due.core 0).allocs ≤ 16 ∧
    (due.core 0).allocs.all (fun a => decide (a.rank ≤ 7)) = true ∧ 1 ≤ (due.die (0 / 104)).level ∧
    ((due.setCore 0 { due.core 0 with relocating := true }).core 0).relocating = true := by decide +kernel

end Sys2Proof.Tests
end

