-- ==== Sys2Proof/Tests/Witness3.lean ====
section
/-! SUPPORT. Concrete states that meet the hypotheses of the statements about faults, handlers, regions, saves, copies, leases and
tile operations, one for each clause. -/

namespace Sys2Proof.Tests

-- One test after the other: tests that wait for one another would each hold a thread.
set_option Elab.async false

open Sys2Proof.Machine

/-! ### Faults, handlers, regions, saves -/

/-- What holds of a sheaf and its workgroup, both there. -/
def sheafIs (s : State) (k : Nat) (f : Sheaf → Workgroup → Bool) : Bool :=
  match s.sheaf k with
  | some sh => (match s.wg sh.wg with | some wg => f sh wg | none => false)
  | none => false
/-- What holds of the context, there being one. -/
def ctxIs (s : State) (f : Ctx → Bool) : Bool := match s.ctx with | some c => f c | none => false
/-- What an answer is. -/
def answers {ε α : Type} [BEq α] (r : Except ε α) (x : α) : Bool := match r with | .ok y => y == x | .error _ => false
/-- A debugger's halt is asked for. -/
def halting : State := withSheaf (fun sh => { sh with haltReq := true })
/-- A handler of a trap runs, or of a loss. -/
def inHandler (glean : Bool) (s : State := base) : State := withSheaf (fun sh => { sh with hand := some (handler glean) }) s
theorem test_witness_trap_instructions :
    base.ctx.isSome = true ∧ (ctxOf base).calm = true ∧ (ctxOf base).sh.haltReq = false ∧
    (match decode (groupR 0xA8 1 0 0 0) with | .error .illegal => true | _ => false) = true ∧
    refusedAt (laneR 0x01 1 16 0 16 0 0) 1 = true ∧
    halting.ctx.isSome = true ∧ (ctxOf halting).sh.haltReq = true ∧
    pending.ctx.isSome = true ∧ (ctxOf pending).sh.pend ≠ none ∧ (ctxOf pending).sh.hand = none ∧ (ctxOf pending).halts = true ∧
    (ctxOf pending).sh.haltReq = false := by decide +kernel
theorem test_witness_double_faults :
    (inHandler false).ctx.isSome = true ∧ (ctxOf (inHandler false)).sh.haltReq = false ∧
    (ctxOf (inHandler false)).sh.hand = some (handler false) ∧ (handler false).glean = false ∧
    (inHandler true).ctx.isSome = true ∧ (ctxOf (inHandler true)).sh.hand = some (handler true) ∧ (handler true).glean = true ∧
    (ctxOf base).sh.hand = none := by decide +kernel
/-- A fault recorded and every split stopped; `target` is where its handler stands. -/
def stopped (target : DWord) : State := withSheaf (fun sh =>
  { sh with pend := some { aFault with target := target }
            ctl := { sh.ctl with splits := [], groups := [⟨0x4000, 0xFF, true⟩] } })
/-- Whether a sheaf may enter a handler now. -/
def entering (sh : Sheaf) : Bool :=
  sh.hand.isNone && !sh.ended && !sh.restarting && !sh.halted && !sh.haltReq && sh.loads == 0 && sh.openOps.isEmpty
theorem test_witness_no_handler :
    sheafIs (stopped 0) 0 (fun sh _ => sh.pend.any (fun f => f.target == 0 && f.code != 0x0C) && entering sh && sh.wait.isNone &&
      sh.stopped) = true := by decide +kernel
theorem test_witness_handler_entry :
    (let s := stopped 0x18000
     sheafIs s 0 (fun sh wg => entering sh && s.clearOver (.hbm 0x61000) 64 && s.plainAt 0x61000 && sh.wait.isNone &&
       sh.ctl.splits.all (fun x => x.parked || x.stall == 21) &&
       sh.pend.any (fun f => f.target != 0 && decide (f.code < 256) && decide (f.opnd < 8)) &&
       answers (s.reachRange (viaOf 0 sh wg 3) (lget ⟨0, 0, false⟩ sh.segs 3).base 64 .wr) [((.hbm 0x61000 : Place), 64)])) = true := by
  decide +kernel
/-- A save is asked for. -/
def preempted : State := withSheaf (fun sh => { sh with preempt := true, trapEntry := 0x18000 })
theorem test_witness_save_entry :
    sheafIs preempted 0 (fun sh wg => entering sh && sh.pend.isNone && sh.preempt && !sh.finished && sh.saving == .none &&
      preempted.drained sh.wg && !preempted.haltNow 0 sh && !sh.writing && sh.trapEntry != 0 && preempted.clearOver (.hbm 0x61000) 64 && preempted.plainAt 0x61000 &&
      answers ((preempted.savePoint 0 sh wg).reachRange (viaOf 0 sh wg 3) (lget ⟨0, 0, false⟩ sh.segs 3).base 64 .wr)
        [((.hbm 0x61000 : Place), 64)]) = true := by decide +kernel
theorem test_witness_returns :
    (let s := inHandler false
     s.ctx.isSome = true ∧ (ctxOf s).sh.hand = some (handler false) ∧ (handler false).fits (s.entryRoom 0 (ctxOf s).sh) = true ∧ (ctxOf s).sh.slice = false ∧
      (handler false).fits 4 = true ∧ (ctxOf s).k = 0 ∧ (ctxOf s).sh.stores = 0 ∧ (ctxOf s).address 3 0x30 8 = some 0x1030 ∧
      answers (s.reachRange (viaOf (ctxOf s).k (ctxOf s).sh (ctxOf s).wg 3) 0x1030 8 .rd) [((.hbm 0x61030 : Place), 8)] = true) ∧
    (let s := withSheaf (fun sh => { sh with stores := 1 }) (inHandler false)
     s.ctx.isSome = true ∧ (ctxOf s).sh.stores ≠ 0 ∧ (ctxOf s).sh.hand = some (handler false)) ∧
    (let s := inHandler true
     s.ctx.isSome = true ∧ (ctxOf s).sh.hand = some (handler true) ∧ (handler true).glean = true ∧ (handler true).fits (s.entryRoom 0 (ctxOf s).sh) = true ∧
      (ctxOf s).sh.wait = none ∧ s.accs = [] ∧ (ctxOf s).sh.slice = false) ∧
    (let s := ran (.stW32 (.n 2) at0) (inHandler true single)
     s.ctx.isSome = true ∧ (ctxOf s).sh.hand = some (handler true) ∧
      s.accs.any (fun a => a.k == (ctxOf s).k && a.kind.writes && !a.performedAt .gg) = true) := by decide +kernel
/-- A region open at the sheaf's entry. -/
def opened : State := withSheaf (fun sh => { sh with ctl := { sh.ctl with origin := some (0x4000, 0xFF) } })
theorem test_witness_regions :
    (ctxOf base).calm = true ∧ (ctxOf base).sh.ctl.origin = none ∧ (ctxOf base).wg.task = none ∧ (ctxOf base).sh.haltReq = false ∧
    (ctxOf base).halts = false ∧ (ctxOf opened).halts = false ∧ base.ctx.isSome = true ∧
    opened.ctx.isSome = true ∧ (ctxOf opened).calm = true ∧ (ctxOf opened).sh.ctl.origin ≠ none ∧ (ctxOf opened).wg.task = none ∧
      (ctxOf opened).sh.haltReq = false := by decide +kernel
theorem test_witness_region_restart :
    [none, some aFault, some { aFault with code := 0x1B }].all (fun p =>
      sheafIs (withSheaf (fun sh => { sh with restarting := true, pend := p }) opened) 0 (fun sh wg =>
        sh.ctl.origin == some (0x4000, 0xFF) && sh.restarting && sh.hand.isNone && !sh.writing && wg.task.isNone && sh.copies == 0 &&
        sh.tiles == 0 && sh.pend == p)) = true := by decide +kernel

/-- A copy in flight, of the smallest program's sheaf. -/
def aCopy : CopyOp :=
  { id := 30, k := 0, wg := 3, site := 0, asid := 0xFFFF, pc := 0x4000, word := 0, after := 0, region := none
    chunks := [⟨0x100, 0x200, 4, none, none, none, false, false, false⟩], red := none, group := none, srcs := [(0x100, 4)]
    discard := false, stalled := none, byHand := none }
/-- A matrix multiplication in flight. -/
def aMma : TileOp :=
  { id := 31, k := 0, wg := 3, t := 0, set := 0, mask := 1, fn := .mma 0 [] [] false, from_ := none, lost := false, pc := 0x4000, word := 0
    region := none, byHand := none }
/-- Operations in flight. -/
def engines (s : State := base) : State :=
  withSheaf (fun sh => { sh with copies := 1, tiles := 1 }) { s with copies := [aCopy], tops := [aMma] }
theorem test_witness_engine_faults :
    engines.copies.find? (fun y => y.id == 30) = some aCopy ∧ aCopy.discard = false ∧
    aCopy.chunks.all (fun y => !y.landed) = true ∧ sheafIs engines aCopy.k (fun _ _ => true) = true ∧
    engines.tops.find? (fun y => y.id == 31) = some aMma ∧ aMma.fn = .mma 0 [] [] false := by decide +kernel
/-- What the sheaf becomes: pending, held, killed, restarting. -/
theorem test_witness_engine_faults_met :
    (let u := (ctxOf base).sh
     (u.engineMet false none none 0 0 7).any (fun v => v.pend.isSome) ∧
     (({ u with pend := some aFault } : Sheaf).engineMet false none none 0 0 7).any (fun v => v.engine.isSome) ∧
     ({ u with hand := some (handler false) } : Sheaf).engineMet false none (some 0) 0 0 7 = none ∧
     ((ctxOf opened).sh.engineMet false (some (0x4000, 0xFF)) none 0 0 7).any (fun v => v.restarting) ∧
     (({ u with ctl := { u.ctl with splits := [] } } : Sheaf).engineMet true none none 0 0 7).any (fun v => v.restarting)) := by
  decide +kernel
theorem test_witness_qfrd :
    (inHandler false).ctx.isSome = true ∧ (LDst.n 4).port = none ∧
    ((LDst.n 4).top 1).all (· < (ctxOf (inHandler false)).sh.named) = true ∧ (ctxOf (inHandler false)).sh.hand ≠ none ∧
    base.ctx.isSome = true ∧ ((LDst.n 4).top 1).all (· < (ctxOf base).sh.named) = true ∧ (ctxOf base).calm = true := by decide +kernel
/-- In a handler, with 0x400 in g0:g1. -/
def opaqueAt : State := group [0x400, 0] (inHandler false)
/-- The same with the zeros that stand there known as a saved control state. -/
def opaqueSaved : State := { opaqueAt with opq := [(List.replicate 512 0, (handler false).saved)] }
theorem test_witness_saveopq :
    ctxIs opaqueAt (fun c => c.sh.hand == some (handler false) && decide (c.sh.stores < 63) && c.sp.replay.isNone &&
      (gRead opaqueAt c 2 (.g 0)).toNat % 64 == 0 &&
      c.spot opaqueAt [⟨2, .g 0, 2⟩] 0 (gRead opaqueAt c 2 (.g 0)) 512 1 .wr == some (0x400, [(.hbm 0x60400, 512)])) = true := by
  decide +kernel
theorem test_witness_loadopq :
    ctxIs opaqueSaved (fun c => c.sh.hand == some (handler false) && c.sp.replay.isNone && opaqueSaved.accs.isEmpty &&
      c.spot opaqueSaved [⟨2, .g 0, 2⟩] 0 (gRead opaqueSaved c 2 (.g 0)) 512 1 .rd == some (0x400, [(.hbm 0x60400, 512)]) &&
      opaqueSaved.opaqueCtl c.sh.width (opaqueSaved.readPieces c.wg.site [(.hbm 0x60400, 512)]) == some (handler false).saved) = true ∧
    ctxIs opaqueAt (fun c => opaqueAt.accs.isEmpty &&
      c.spot opaqueAt [⟨2, .g 0, 2⟩] 0 (gRead opaqueAt c 2 (.g 0)) 512 1 .rd == some (0x400, [(.hbm 0x60400, 512)]) &&
      opaqueAt.opaqueCtl c.sh.width (opaqueAt.readPieces c.wg.site [(.hbm 0x60400, 512)]) == none) = true := by decide +kernel
theorem test_witness_requests :
    sheafIs base 0 (fun sh wg => !sh.ended && !sh.finished && !sh.halted && sh.pend.isNone && sh.hand.isNone && !sh.haltReq &&
      !sh.restarting && (kget base.gangs wg.gang).isSome) = true ∧
    sheafIs pending 0 (fun sh _ => !sh.halted && sh.pend.isSome) = true ∧
    sheafIs (withSheaf (fun sh => { sh with halted := true })) 0 (fun sh _ => sh.halted && !sh.slice) = true := by decide +kernel
theorem test_witness_vacating :
    base.gangs.all (fun g => kget base.gangs g.1 == some g.2) = true ∧
    (let s := base.setPart 0 { base.part 0 with cores := [0, 1] }
     (s.part 0).cores.filter (fun x => !(s.workgroupsOn x).isEmpty) = [0]) := by decide +kernel

/-! ### Copies -/

/-- The descriptor in g8 to g15, the arrival word's offset in g24:g25. -/
def descAt (desc : List Word) (arr : Word := 0x800) (s : State := base) : State :=
  withSheaf (fun sh => { sh with g := lsets (lsets sh.g 8 desc) 24 [arr, 0] }) s
/-- 100 bytes from 0x100 to 0x400. -/
def straight : List Word := [0x100, 0, 0x400, 0, 100, 0, 0, 0]
/-- Three rows of 10 bytes. -/
def rows3 : List Word := [0x100, 0, 0x400, 0, 10 + 3 * 65536, 0, 64, 0xFFFFFFF0]
/-- The form asked of, with its hypotheses on operands. -/
def copies (i : Instr) (s : State) (f : CopyForm → Ctx → Bool) : Bool :=
  match Machine.copyForm i, s.ctx with
  | some x, some c => descOk x.desc x.regs && (match x.arr with | some (a, _) => a.port.isNone | none => true) && f x c
  | _, _ => false
theorem test_witness_copies_begin :
    ([(Instr.copy (.g 8) (.g 24) 0, descAt straight), (.copyNa (.g 8), descAt straight), (.copy2d (.g 8) (.g 24) 0, descAt rows3),
      (.copy2dNa (.g 8), descAt rows3)].all (fun p => copies p.1 p.2 (fun f c => f.checked p.2 c && decide (c.sh.copies < 63) &&
        (f.rows p.2 c).any (fun r => r.2.2 != 0)))) = true := by decide +kernel
theorem test_witness_copies_other :
    (let s := descAt [0x100, 0, 0x400, 0, 0x1000000, 0]
     copies (.copyNa (.g 8)) s (fun f c => !f.fieldsOk s c && c.calm)) = true ∧
    (let s := descAt [0x100, 0, 0x400, 0, 0, 0]
     copies (.copyNa (.g 8)) s (fun f c => f.checked s c && !(f.rows s c).any (fun r => r.2.2 != 0))) = true ∧
    (let s := descAt straight 0x800 full
     copies (.copyNa (.g 8)) s (fun f c => f.checked s c && (f.rows s c).any (fun r => r.2.2 != 0) && decide (63 ≤ c.sh.copies))) = true := by
  decide +kernel
/-- A gang with an alias, an allocation in its window, identifiers 4 to 13 for its partition; a word in g20. -/
def gangs (desc : List Word) (w : Word) (busy : Bool := false) (s : State := base) : State :=
  let t := withAllocs [{ anAlloc 1 .lit 7 0 with decl := true }] s
  let u := withSheaf (fun sh => { sh with g := lset (lsets sh.g 8 desc) 20 w, segs := lset sh.segs 2 (seg2Of 0 1 (some 0)) }) t
  { u with gangs := u.gangs.map (fun p => (p.1, { p.2 with aliasNo := some 0 }))
           parts := [(0, { u.part 0 with gBase := 4, gCount := 10 })], groupIds := [(5, (busy, 7))] }
/-- 64 bytes from segment 0 to the window, counted at 0x200 of each. -/
def toWindow : List Word := [0x100, 0, 0x40, 0, 64, 0x40 * 4096 + 16]
/-- What is said of a multicast. -/
def casts (s : State) (f : Ctx → Desc → Word → Bool) : Bool :=
  ctxIs s (fun c => f c (descOf s c (.g 8) 6) (gRead s c 1 (.g 20)).lo)
/-- An identifier lies in the share of the sheaf's partition. -/
def inShare (s : State) (c : Ctx) (g : Nat) : Bool :=
  decide ((s.part c.wg.part.val).gBase ≤ g) && decide (g < (s.part c.wg.part.val).gBase + (s.part c.wg.part.val).gCount)
theorem test_witness_mcast_refused :
    casts (gangs (lset toWindow 5 0) 0x50001) (fun c d _ => d.dseg != 2 && c.calm) = true ∧
    casts (gangs toWindow 0x10050001) (fun c _ w => w.toNat / 2 ^ 28 != 0 && c.calm) = true ∧
    casts (gangs toWindow 0x50000) (fun _ d w => membersOf w == [] && d.dseg == 2) = true ∧
    casts (gangs toWindow 0x50003) (fun c _ w => (membersOf w).any (fun i => decide (c.wg.m ≤ i)) && c.calm) = true ∧
    (let s := gangs toWindow 0x5A0001
     casts s (fun c _ w => membersOf w == [0] && !inShare s c (w.toNat / 65536 % 4096) && c.calm)) = true := by decide +kernel
theorem test_witness_mcast_begins :
    [false, true].all (fun busy =>
      let s := gangs toWindow 0x50001 busy
      casts s (fun c d w => decide (d.r4.toNat < 2 ^ 24) && d.dseg == 2 && d.r5.toNat / 64 % 64 == 0 && w.toNat / 2 ^ 28 == 0 &&
        membersOf w == [0] && decide (0 < c.wg.m) && inShare s c (w.toNat / 65536 % 4096) && d.r4.toNat != 0 &&
        rangeFine s c ⟨d.sseg, (d.src.toNat : Int), d.r4.toNat, none, false, 2⟩ &&
        rangeFine s c ⟨2, (d.dst.toNat : Int), d.r4.toNat, some 0, false, 2⟩ && d.r5.toNat / 4096 != 0xFFFFF &&
        arrivalFine s c ⟨2, ((d.r5.toNat / 4096 * 8 : Nat) : Int), 8, some 0, true, 2⟩ && decide (c.sh.copies < 63) &&
        groupFree s c (w.toNat / 65536 % 4096) == !busy)) = true := by decide +kernel
/-- A reduction of 64 bytes within segment 0, elements of 4, 8 or 16 bytes. -/
def reducing (elem : Nat) (w : Word := 5) (busy : Bool := false) : State :=
  gangs [0x100, 0, 0x400, 0, 64, BitVec.ofNat 32 (0xFFFFF * 4096 + 64 * elem)] w busy
theorem test_witness_cred :
    casts (reducing 3) (fun c d _ => d.r5.toNat / 64 % 4 == 3 && c.calm) = true ∧
    (let s := reducing 0 99
     casts s (fun c d w => d.r5.toNat / 256 % 16 == 0 && d.r5.toNat / 64 % 4 == 0 && decide (w.toNat < 4096) && !inShare s c w.toNat &&
       c.calm)) = true ∧
    ([0, 1, 2].all (fun elem => [false, true].all (fun busy =>
      let s := reducing elem 5 busy
      let es := 2 ^ (elem + 2)
      casts s (fun c d w => d.r5.toNat / 64 % 4 == elem && d.r5.toNat / 256 % 16 == 0 && inShare s c w.toNat &&
        d.r4.toNat == 64 && 64 % es == 0 && d.src.toNat % es == 0 && d.dst.toNat % es == 0 &&
        rangeFine s c ⟨d.sseg, (d.src.toNat : Int), 64, none, false, 2⟩ && rangeFine s c ⟨d.dseg, (d.dst.toNat : Int), 64, none, false, 2⟩ &&
        d.r5.toNat / 4096 == 0xFFFFF && decide (c.sh.copies < 63) && groupFree s c w.toNat == !busy)))) = true := by decide +kernel
/-- No bytes, a full counter, an unaligned source. -/
theorem test_witness_group_copies_other :
    (let s := gangs (lset toWindow 4 0) 0x50001
     casts s (fun c d w => d.r4.toNat == 0 && d.dseg == 2 && membersOf w == [0] && inShare s c 5 && groupFree s c 5 &&
       arrivalFine s c ⟨2, ((d.r5.toNat / 4096 * 8 : Nat) : Int), 8, some 0, true, 2⟩)) = true ∧
    (let s := gangs [0x100, 0, 0x400, 0, 0, BitVec.ofNat 32 (0xFFFFF * 4096)] 5
     casts s (fun c d w => d.r4.toNat == 0 && d.r5.toNat / 4096 == 0xFFFFF && inShare s c w.toNat && groupFree s c w.toNat)) = true ∧
    (let s := gangs [0x101, 0, 0x400, 0, 64, BitVec.ofNat 32 (0xFFFFF * 4096)] 5
     casts s (fun c d _ => d.src.toNat % 4 != 0 && c.calm && rangeFine s c ⟨d.sseg, (d.src.toNat : Int), 64, none, false, 2⟩ &&
       rangeFine s c ⟨d.dseg, (d.dst.toNat : Int), 64, none, false, 2⟩)) = true ∧
    (let s := gangs toWindow 0x50001 false full
     casts s (fun c d w => decide (63 ≤ c.sh.copies) && d.r4.toNat != 0 && membersOf w == [0] && groupFree s c 5)) = true := by
  decide +kernel
/-- What is said of the copy in flight and its first chunk. -/
def chunkIs (s : State) (x : CopyOp) (f : Chunk → Bool) : Bool :=
  s.copies.find? (fun y => y.id == 30) == some x && x.stalled.isNone && s.copyMay x &&
  (match x.chunks[0]? with | some ch => f ch | none => false)
theorem test_witness_chunks :
    (let x := { aCopy with discard := true }
     chunkIs { engines with copies := [x] } x (fun _ => x.discard)) = true ∧
    ([none, some (.add, 4)].all (fun red =>
      let x := { aCopy with red := red }
      let s := { engines with copies := [x] }
      chunkIs s x (fun ch => !x.discard && !ch.landed && !ch.lost && !ch.void && ch.len % 4 == 0 &&
        s.sourcePlaces x == [(.hbm 0x60100, 4)] && (List.range 4).all (fun i => !(Place.hbm 0x60100).meets 4 (.hbm (0x60200 + i)) 1) && ch.len == 4 &&
        answers (s.reachRange x.via ch.src ch.len .rd) [((.hbm 0x60100 : Place), 4)] &&
        answers (s.reachRange x.via ch.dst ch.len .wr) [((.hbm 0x60200 : Place), 4)] && s.plainAt 0x60200 &&
        s.clearOver (.hbm 0x60200) 4 && (s.sliceBytes [(.hbm 0x60100, 4)]).length == 4))) = true ∧
    (let x := { aCopy with chunks := [⟨0x100, 0x200, 4, none, none, none, true, false, false⟩] }
     chunkIs { engines with copies := [x] } x (fun ch => !x.discard && !ch.landed && ch.lost)) = true ∧
    (let x := { aCopy with chunks := [⟨0x100, 0x200, 4, none, none, none, false, true, false⟩] }
     let s := { engines with copies := [x] }
     chunkIs s x (fun ch => !x.discard && !ch.landed && !ch.lost && ch.void &&
       answers (s.reachRange x.via ch.src ch.len .rd) [((.hbm 0x60100 : Place), 4)])) = true ∧
    (let x := { aCopy with chunks := [⟨0x100, 0x200, 4, some 0x800, none, none, false, false, true⟩] }
     let s := { engines with copies := [x] }
     chunkIs s x (fun ch => !x.discard && ch.landed && ch.arrive == some 0x800 &&
       answers (s.reachRange x.via 0x800 8 .wr) [((.hbm 0x60800 : Place), 8)] && s.plainAt 0x60800 &&
       s.clearOver (.hbm 0x60800) 8)) = true := by decide +kernel

end Sys2Proof.Tests
end

