-- ==== Sys2Proof/Tests/Witness4.lean ====
section
/-! SUPPORT. Concrete states that meet the hypotheses of the statements about leases, matrix instructions, tile operations, tasks
and futures, one for each clause. -/

namespace Sys2Proof.Tests

-- One test after the other: tests that wait for one another would each hold a thread.
set_option Elab.async false

open Sys2Proof.Machine

/-! ### Leases and matrix instructions -/

/-- The kernel declares two sets of thresher 0, whose lease is with a sheaf or free. -/
def leasing (holder : Option Nat) (s : State := base) : State :=
  withWg (fun w => { w with kernel := { w.kernel with acc := [2, 0, 0, 0] }, leases := [holder, none, none, none] }) s
/-- A second sheaf of the workgroup, as sheaf 1, that waits or not. -/
def leasing2 (holder : Option Nat) (w : Option Wait) : State :=
  leasing holder (withWg (fun x => { x with k := 2 }) (twoSheaves w))
theorem test_witness_leases :
    ctxIs base (fun c => lget 0 c.wg.kernel.acc 0 == 0 && c.calm) = true ∧
    [leasing (some 0), leasing none, leasing2 (some 9) none].all (fun s => ctxIs s (fun c =>
      lget 0 c.wg.kernel.acc 0 != 0 && decide (0 < c.wg.leases.length) && c.sh.pend.isNone)) = true ∧
    ctxIs (leasing (some 0)) (fun c => c.leased 0) = true ∧
    ctxIs (leasing none) (fun c => c.wg.leases[0]? == some none && !c.leased 0 && c.calm) = true ∧
    ctxIs (leasing2 (some 9) none) (fun c => c.wg.leases[0]? == some (some 9) && 9 != c.k) = true := by decide +kernel
theorem test_witness_lease_passed :
    [none, some (.lease 0)].all (fun w =>
      let s := leasing2 (some 0) w
      ctxIs s (fun c => c.leased 0 && c.nextHolder s == some 9 && (s.sheaf 9).isSome)) = true := by decide +kernel
theorem test_witness_lease_freed :
    (let s := leasing (some 0)
     ctxIs s (fun c => c.leased 0 && s.waiting c.sh.wg 0 == [])) = true ∧
    (let s := leasing2 (some 0) (some (.lease 0))
     ctxIs s (fun c => c.leased 0 && (s.waiting c.sh.wg 0).map (fun p => p.1) == [9] && 9 != c.k &&
       decide (s.sheaves.map (fun p => p.1)).Nodup)) = true := by decide +kernel

/-- The lease held; n0 to n3 a fragment, n4 a scale, n5 a format or readout word in every lane, g4 an offset into B's segment,
where an allocation lies. -/
def matrix (w : Word) (off : Word := 64) (s : State := withAllocs [anAlloc 1 .lit 0 0]) : State :=
  named [1, 2, 3, 4, 127, w] [] (group [0, 0, 0, 0, off] (leasing (some 0) s))
/-- One lane's format word differs. -/
def mixed (w : Word) : State := withSheaf (fun sh => { sh with lanes := mapIdxFrom (fun l ln =>
  if l = 3 then { ln with n := lset ln.n 5 ⟨w + 1, true, none⟩ } else ln) 0 sh.lanes }) (matrix w)
theorem test_witness_tiles_refused :
    ctxIs base (fun c => c.within [(.n 0, 4), (.n 5, 1)] && !c.leased 0 && c.calm) = true ∧
    ctxIs (matrix 0) (fun c => c.within [(.n 0, 4), (.n 5, 1)] && c.leased 0 && !c.hasSet ⟨0, 2⟩ && c.calm) = true ∧
    (let s := matrix 0 64 full
     ctxIs s (fun c => c.within [(.n 0, 4), (.n 5, 1)] && c.leased 0 && c.hasSet ⟨0, 1⟩ && decide (63 ≤ c.sh.tiles))) = true := by
  decide +kernel
/-- What is said of an `mma` of set 0. -/
def mmas (s : State) (read : List (XReg × Nat)) (f : Ctx → Bool) : Bool :=
  ctxIs s (fun c => c.mayTake s ⟨0, 0⟩ [(.n 0, 4), (.n 5, 1)] read && c.scalesLive s (.n 0) (.n 5) && f c)
/-- Its registers when the latch is empty. -/
def fresh : List (XReg × Nat) := [(.n 0, 4), (.n 5, 1)]
theorem test_witness_mma_octets :
    [(mixed 0, 0x0D), (matrix 0x200, 0x0E), (matrix 0x70000, 0x0F)].all (fun p =>
      mmas p.1 fresh (fun c => (c.busyOctets.map (c.octetFault p.1 ⟨0, 0⟩ (.n 5) false)).findSome? id == some p.2 && c.calm)) =
      true := by decide +kernel
/-- The octets are in order, and the address of B is what it is. -/
def mmaFine (s : State) (c : Ctx) (off : Nat) : Bool :=
  c.busyOctets.all (fun o => c.octetFault s ⟨0, 0⟩ (.n 5) false o == none) && (lget 0 c.sh.g 4).toNat == off
theorem test_witness_mma_scale_beyond :
    (let s := withSheaf (fun sh => { sh with named := 6 }) (named [0x100, 0, 1, 2, 0x100] [] (leasing (some 0)))
     ctxIs s (fun c => c.mayTake s ⟨0, 0⟩ [(.n 2, 4), (.n 4, 1)] [(.n 2, 4), (.n 4, 1)] &&
       c.busyOctets.all (fun o => c.octetFault s ⟨0, 0⟩ (.n 4) false o == none && (c.octetWord s (.n 4) o).getLsbD 8) &&
       !c.within [(.n 2, 5)] && c.calm)) = true := by decide +kernel
/-- The bytes of B and the place an `mma` finds them in. -/
def mmaReach (s : State) (c : Ctx) : Reach :=
  s.reachIssue (viaOf c.k c.sh c.wg 1) ((lget ⟨0, 0, false⟩ c.sh.segs 1).base + (lget 0 c.sh.g 4).setWidth 80)
    (spanOf (c.busyOctets.map (fun o => (o, c.octetWord s (.n 5) o)))) .rd
theorem test_witness_mma_address :
    (let s := matrix 0 8
     mmas s fresh (fun c => mmaFine s c 8 && c.calm)) = true ∧
    (let s := matrix 0 0x7FFFC0
     mmas s fresh (fun c => mmaFine s c 0x7FFFC0 && c.calm &&
       c.address 1 0x7FFFC0 (spanOf (c.busyOctets.map (fun o => (o, c.octetWord s (.n 5) o)))) == none)) = true ∧
    (let s := matrix 0 0x8000
     mmas s fresh (fun c => mmaFine s c 0x8000 && c.calm &&
       c.address 1 0x8000 (spanOf (c.busyOctets.map (fun o => (o, c.octetWord s (.n 5) o)))) != none &&
       (match mmaReach s c with | .fault _ _ => true | _ => false))) = true := by decide +kernel
/-- A fragment of lane 0 in the latch. -/
def latched (s : State) : State := withSheaf (fun sh => { sh with latches := [[⟨0, [1, 2, 3, 4], 127, 0, false, 20⟩], [], [], []] }) s
theorem test_witness_mma_taken :
    [0, 0x100].all (fun w =>
      let s := matrix w
      mmas s fresh (fun c => mmaFine s c 64 &&
        c.address 1 64 (spanOf (c.busyOctets.map (fun o => (o, c.octetWord s (.n 5) o)))) != none &&
        (match mmaReach s c with | .ok _ _ => true | _ => false) && lget [] c.sh.latches 0 == [] && c.within [(.n 0, 5)])) = true ∧
    (let s := latched (matrix 0)
     mmas s [(.n 5, 1)] (fun c => mmaFine s c 64 && lget [] c.sh.latches 0 != [] &&
       c.address 1 64 (spanOf (c.busyOctets.map (fun o => (o, c.octetWord s (.n 5) o)))) != none &&
       (match mmaReach s c with | .ok _ _ => true | _ => false) &&
       (lget [] c.sh.latches 0).all (fun x => decide (x.lane < 64)))) = true := by decide +kernel
theorem test_witness_accz :
    ctxIs (matrix 0x70000) (fun c => c.mayTake (matrix 0x70000) ⟨0, 0⟩ [(.n 5, 1)] [(.n 5, 1)] && c.sp.mask != 0 &&
      (maskLanes c.sp.mask).all (fun l => c.fmt (matrix 0x70000) (.n 5) l >>> 16 == 7)) = true ∧
    (let s := withSheaf (fun sh => { sh with lanes := mapIdxFrom (fun l ln =>
        if l = 3 then { ln with n := lset ln.n 5 ⟨0x70000, true, none⟩ } else ln) 0 sh.lanes }) (matrix 0)
     ctxIs s (fun c => c.mayTake s ⟨0, 0⟩ [(.n 5, 1)] [(.n 5, 1)] && c.calm &&
       (maskLanes c.sp.mask).any (fun l => c.fmt s (.n 5) l >>> 16 != 0))) = true := by decide +kernel
theorem test_witness_accrd :
    [(matrix 5 0, none), (mixed 0, some (0x0D, 4)), (matrix 9 0, some (0x0E, 4)), (matrix 0 64, some (0x11, 3)),
     (matrix 3 8, some (0x07, 3))].all (fun p => ctxIs p.1 (fun c =>
       c.mayTake p.1 ⟨0, 0⟩ [(.n 0, 4), (.n 5, 1)] [(.n 5, 1)] && c.sp.mask != 0 && c.calm &&
       c.readFault p.1 (.n 5) (lget 0 c.sh.g 4).toNat false == p.2)) = true := by decide +kernel
theorem test_witness_accwr :
    [(matrix 8 3, none), (matrix 0 0, some (0x0E, 4))].all (fun p => ctxIs p.1 (fun c =>
       c.mayTake p.1 ⟨0, 0⟩ [(.n 0, 4), (.n 5, 1)] [(.n 0, 4), (.n 5, 1)] && c.sp.mask != 0 && c.calm &&
       c.readFault p.1 (.n 5) (lget 0 c.sh.g 4).toNat true == p.2)) = true := by decide +kernel

/-- An operation in flight of lanes 0 to 7. -/
def tileOp (fn : TileFn) : TileOp := { aMma with mask := 0xFF, fn := fn }
/-- The machine with operations in flight. -/
def withTops (l : List TileOp) (s : State := matrix 0) : State :=
  { withSheaf (fun sh => { sh with tiles := 2 }) s with tops := l }
/-- The operation named 31 and its sheaf. -/
def topIs (s : State) (x : TileOp) (f : Sheaf → Bool) : Bool :=
  s.tops.find? (fun y => y.id == 31) == some x && (match s.sheaf x.k with | some sh => f sh | none => false)
theorem test_witness_tile_waits :
    (let s := withTops [{ tileOp (.accz 0) with id := 30 }, tileOp (.accz 0)]
     topIs s (tileOp (.accz 0)) (fun _ => s.ahead (tileOp (.accz 0)))) = true := by decide +kernel
/-- Fragments of lanes 0 and 1 that operation 31 fills. -/
def frags2 : List Latch := [⟨0, [1, 2, 3, 4], 127, 0, false, 31⟩, ⟨1, [1, 2, 3, 4], 127, 0, false, 31⟩]
theorem test_witness_tile_mma :
    (let x := tileOp (.mma 64 [(0, 0)] frags2 false)
     let s := withTops [x]
     topIs s x (fun sh => !s.ahead x && (s.wg x.wg).isSome && x.touches 0 && formats 0 != none &&
       !x.lost &&
       (match s.wg x.wg with
        | some wg =>
          let via := viaOf x.k sh wg 1
          let ea := (lget ⟨0, 0, false⟩ sh.segs 1).base + 64
          (match s.reachIssue via ea (spanOf [(0, 0)]) .rd with | .ok _ _ => true | _ => false) &&
          (match s.hwPages via .rd (spanOf [(0, 0)] / 65536 + 2) ea (spanOf [(0, 0)]) with
           | (u, .ok _) => (match u.sheaf x.k with | some v => kept u v frags2 | none => false)
           | _ => false)
        | none => false)) &&
     (let y := { x with lost := true }
      let u := withTops [y]
      topIs u y (fun _ => !u.ahead y && y.lost && (u.wg y.wg).isSome))) = true := by decide +kernel
theorem test_witness_tile_reads :
    (let x := tileOp (.accz 7)
     let s := withTops [x]
     topIs s x (fun _ => !s.ahead x)) = true ∧
    (let x := tileOp (.accrd 4 5 true)
     let s := withTops [x]
     topIs s x (fun _ => !s.ahead x)) = true ∧
    ([false, true].all (fun restoring =>
     let x := tileOp (.accwr 0 5 [(0, [1, 2, 3, 4]), (1, [1, 2, 3, 4])] restoring)
     let s := withTops [x]
     topIs s x (fun sh => !s.ahead x && x.mask.getLsbD 0 && x.mask.getLsbD 1 && x.touches 0 &&
       [0, 1].all (fun l => regsRead s.free sh l (.n (Fin.ofNat 32 0)) 4 == [1, 2, 3, 4])))) = true := by decide +kernel

/-! ### Tasks and future words -/

/-- A task control block at 0x200, of depth word `ctl`, DEP and STATE as given; g0:g1 points to it, g2 is 7. -/
def block (dep state : Nat) (ctl : Nat := 8) (s : State := base) : State :=
  let m := (s.mem.write 0x60208 (leBytes 4 ctl ++ leBytes 4 dep)).write 0x60218 (leBytes 4 (state * 65536))
  group [0x200, 0, 7] { s with mem := m }
/-- The block is reached, at 0x60200, by the pointer or the pointer with a number. -/
def blockIs (s : State) (two : Bool) (f : Ctx → TcbView → Bool) : Bool :=
  ctxIs s (fun c => c.sp.replay.isNone && s.mem.wf &&
    c.inMemory s (⟨2, .g 0, 2⟩ :: (if two then [⟨3, .g 2, 1⟩] else [])) false (gRead s c 2 (.g 0)) 64 == some 0x60200 &&
    f c (tcbAt s.mem 0x60200))
/-- A store of the sheaf has not performed. -/
def storing : State := ran (.stW32 (.n 2) at0) single
theorem test_witness_spawn :
    (blockIs (block 0 0) false (fun c v => c.released (block 0 0) && v.spawnFault c.childDepth == none && v.dep == 0) &&
     blockIs (block 2 4) false (fun c v => c.released (block 2 4) && v.spawnFault c.childDepth == none && v.dep != 0) &&
     blockIs (block 0 2) false (fun c v => c.released (block 0 2) && v.spawnFault c.childDepth == some 0x02 && c.calm) &&
     (let s := withWg (fun w => { w with task := some ⟨0, 7, 0, false, .hbm 0x60300, none⟩ }) (block 0 0)
      blockIs s false (fun c v => c.released s && v.spawnFault c.childDepth == some 0x14 && c.calm)) &&
     blockIs (block 0 0 (8 + 256 * 400)) false (fun c v => v.spawnFault c.childDepth == some 0x15 && c.calm)) = true := by decide +kernel
theorem test_witness_spawn_waits : blockIs (block 0 0 8 storing) false (fun c _ => !c.released (block 0 0 8 storing)) = true := by
  decide +kernel
theorem test_witness_task_pointer :
    (let s := group [0x204, 0] base
     ctxIs s (fun c => (gRead s c 2 (.g 0)).toNat % 64 != 0 && c.calm)) = true ∧
    (let s := group [0x204, 0, 0x110, 0] base
     ctxIs s (fun c => (gRead s c 2 (.g 0)).toNat % 8 != 0 && c.calm && mayWrite c (.g 4))) = true := by decide +kernel
/-- The waiting list of the partition holds the task. -/
def waitingTask (s : State) : State :=
  { s with parts := [(0, { Partition.reset with waiting := [⟨0x200, 0xFFFF, 0, 0, .hbm 0x60200, none⟩] })] }
theorem test_witness_depdec :
    (blockIs (block 0 1) false (fun c v => c.released (block 0 1) && v.dep == 0) &&
     blockIs (block 2 1) false (fun c v => c.released (block 2 1) && v.dep == 2) &&
     blockIs (block 1 0) false (fun c v => c.released (block 1 0) && v.dep == 1 && v.state != 1) &&
     (let s := waitingTask (block 1 1)
      blockIs s false (fun c v => c.released s && v.dep == 1 && v.state == 1 && c.wg.part == 0 &&
       ((s.part 0).waiting.find? (fun u => u.at_ == .hbm 0x60200)).isSome && s.parts.all (fun q => q.1 == 0)))) = true := by decide +kernel
theorem test_witness_depset :
    (blockIs (block 0 2) true (fun c v => v.state == 2 && c.calm) && blockIs (block 0 4) true (fun _ v => v.state == 4)) = true := by
  decide +kernel
/-- A future word at 0x200, a continuation at 0x240. -/
def future (w : Nat) (s : State := base) : State :=
  group [0x200, 0, 0x240, 0] { s with mem := s.mem.write 0x60200 (leBytes 8 w) }
/-- The word is reached, at 0x60200. -/
def futureIs (s : State) (f : Ctx → List GUse → DWord → Bool) : Bool :=
  ctxIs s (fun c => c.sp.replay.isNone && s.mem.wf && mayWrite c (.g 4) &&
    c.inMemory s [⟨2, .g 0, 2⟩, ⟨3, .g 2, 2⟩] true (gRead s c 2 (.g 0)) 8 == some 0x60200 &&
    f c [⟨2, .g 0, 2⟩, ⟨3, .g 2, 2⟩] (gRead s c 2 (.g 2)))
theorem test_witness_futures :
    ([0, 5].all (fun w =>
      let s := future w
      futureIs s (fun c srcs v => v.toNat % 64 == 0 && c.inMemory s srcs false v 64 == some 0x60240 && c.released s &&
        (s.mem.dword 0x60200).toNat == w && decide (v.toNat < 2 ^ 62))) &&
     futureIs (future 0 storing) (fun c _ _ => !c.released (future 0 storing))) = true := by decide +kernel
theorem test_witness_future_operands :
    (let s := group [0x200, 0, 0x244, 0] base
     ctxIs s (fun c => (gRead s c 2 (.g 0)).toNat % 8 == 0 && c.calm && (gRead s c 2 (.g 2)).toNat % 64 != 0 && mayWrite c (.g 4))) = true ∧
    (let s := group [0x200, 0, 0, 0x40000000] base
     ctxIs s (fun c => (gRead s c 2 (.g 0)).toNat % 8 == 0 && c.calm && decide (2 ^ 62 ≤ (gRead s c 2 (.g 2)).toNat) && mayWrite c (.g 4))) =
      true := by decide +kernel

end Sys2Proof.Tests
end

