-- ==== Sys2Proof/Tests/Witness5.lean ====
section
/-! SUPPORT. Concrete states that meet the hypotheses of the statements about quorum joins, one for each clause. -/

namespace Sys2Proof.Tests

-- One test after the other: tests that wait for one another would each hold a thread.
set_option Elab.async false

open Sys2Proof.Machine

/-! ### A join in memory -/

/-- A join block of 8 participants and 8 elements in f32: weights at 0x600, bitmap at 0x700, `ABUF` at 0x800, `FBUF` at 0xA00,
destination at 0xC00; quorum 1 of 2 of the weight 8. -/
def blockWords (state fill narr : Nat) : List Word :=
  [8 + state * 2 ^ 16 + fill * 2 ^ 19, 3, 1 + 2 * 65536, 0, 8, 0, narr, 0, 0x600, 0, 0x700, 0, 0x800, 0, 8, 0, 0xA00, 0, 0xC00, 0, narr, 0].map
    (BitVec.ofNat 32)
/-- The machine with such a block at 0x400, a journal of the workgroup on core 0, and the data page known to the agents. -/
def joinable (state : Nat := 0) (fill : Nat := 0) (narr : Nat := 0) (s : State := base) : State :=
  let m := (s.mem.write 0x60400 ((blockWords state fill narr).flatMap (fun w => leBytes 4 w.toNat))).write 0x60600
    ((List.range 8).flatMap (fun _ => leBytes 4 1))
  (withAllocs [anAlloc 5 .lit 7 0] { s with mem := m }).cacheLocal (agentVia 0xFFFF) 0

theorem below_tables {f : Nat → Bool} (h : ∀ x, x < 0x60000 → f x = false) : ∀ x, x < 0x60000 → f x = false := h

/-! ### Binding -/

/-- g0:g1 points to the block, g2 holds the participant word. -/
def binding (word : Word) (s : State := joinable) : State := group [0x400, 0, word] s
/-- What `jbind` reads. -/
def bindUses : List GUse := [⟨2, .g 0, 2⟩, ⟨3, .g 2, 1⟩]
/-- The block is reached, at 0x60400; the participant word and the block. -/
def binds (s : State) (f : Ctx → Nat → Block → Bool) : Bool :=
  ctxIs s (fun c => c.sh.pend.isNone && c.sp.replay.isNone && s.mem.wf &&
    c.inMemory s bindUses false (gRead s c 2 (.g 0)) 256 == some 0x60400 &&
    f c (gRead s c 1 (.g 2)).lo.toNat (s.blockAt 0x60400))
/-- Whether quorum register 0 holds a binding of a generation that goes on. -/
def holds (s : State) (x : Binding) : Bool := match kget s.joins x.join with | some j => !j.final | none => false
/-- Whether a binding uses a journal. -/
def usesJournal (s : State) (wg : Nat) (jid : BitVec 16) (x : Binding) : Bool :=
  match kget s.joins x.join with
  | some j => !j.final && (match j.members.find? (fun m => m.index == x.index) with | some m => m.wg == wg && m.jid == jid | none => false)
  | none => false
/-- Whether a row of R237 about the word, the block or the bindings holds. -/
def bindWrong (s : State) (c : Ctx) (word : Nat) (b : Block) : Bool :=
  !(s.recorded c (gRead s c 2 (.g 0)) (word % 2 ^ 13)).isEmpty || word / 2 ^ 13 % 8 != 0 || decide (b.npart ≤ word % 2 ^ 13) || b.bad ||
  (match c.wg.joins[0]? with | some (some x) => holds s x | _ => false) ||
  c.wg.joins.any (fun x => x.any (usesJournal s c.sh.wg (BitVec.ofNat 16 (word / 2 ^ 16)))) ||
  (s.joins.find? (fun e => e.2.at_ == .hbm 0x60400 && e.2.gen == b.gen && !e.2.final)).any (fun e =>
    e.2.members.any (fun m => m.index == word % 2 ^ 13))
/-- The journal that a word names. -/
def journalOf (s : State) (c : Ctx) (word : Nat) : Option Alloc :=
  ((s.core c.wg.site).allocs.find? (fun a => a.id == BitVec.ofNat 16 (word / 2 ^ 16))).filter (fun a => a.wg == c.sh.wg && !a.journal)
theorem test_witness_jbind_refused :
    (let s := group [0x410, 0] joinable
     ctxIs s (fun c => (gRead s c 2 (.g 0)).toNat % 256 != 0 && c.calm)) = true ∧
    binds (binding 0x50008) (fun c w b => bindWrong (binding 0x50008) c w b && c.calm) = true ∧
    (let s := binding 0x60002
     binds s (fun c w b => !bindWrong s c w b && journalOf s c w == none && c.calm)) = true ∧
    (let s := binding 0x50002 (withAllocs [anAlloc 5 .lit 3 0] joinable)
     binds s (fun c w b => !bindWrong s c w b && (journalOf s c w).any (fun a => a.rank != 7) && c.calm)) = true ∧
    (let s := binding 0x50002 (withAllocs [{ anAlloc 5 .lit 7 0 with size := 0 }] joinable)
     binds s (fun c w b => !bindWrong s c w b && (journalOf s c w).any (fun a => a.rank == 7 && decide (a.size * 16384 < 16 * b.nelem)) &&
       c.calm)) = true ∧
    (let s := binding 0x50002 (joinable 2)
     binds s (fun c w b => !bindWrong s c w b && b.state == 2 && (journalOf s c w).any (fun a => a.rank == 7 &&
       decide (16 * b.nelem ≤ a.size * 16384)) && c.calm)) = true := by decide +kernel
/-- An entry for the block with other members. -/
def anEntry (members : List Member) (released final : Bool := false) : Join :=
  { block := 0x400, at_ := .hbm 0x60400, asid := 0xFFFF, part := 0, die := 0, gen := 3, released := released, final := final
    members := members, unbound := [] }
/-- A member of this workgroup. -/
def aMember (index : Nat) (arrived condemned : Bool := false) : Member :=
  { index := index, wg := 3, dev := none, weight := 1, jsite := 0, jid := 5, arrived := arrived, condemned := condemned
    flagSent := false, gone := false, retracted := false, away := none }
/-- A bind that passes every check. -/
def bindFine (s : State) (state : Nat) (entry : Bool) : Bool :=
  binds s (fun c w b => !bindWrong s c w b && b.state == state &&
    (journalOf s c w).any (fun a => a.rank == 7 && decide (16 * b.nelem ≤ a.size * 16384) && a.state == .lit && a.data.wf) &&
    (match (c.looked s bindUses).blockReach c (.hbm 0x60400) b with | .ok _ => true | .error _ => false) &&
    (c.looked s bindUses).bufferedAt c.wg.asid 0x60000 (b.warr + BitVec.ofNat 64 (4 * (w % 2 ^ 13))) 4 0x60608 &&
    (s.joins.find? (fun e => e.2.at_ == .hbm 0x60400 && e.2.gen == b.gen && !e.2.final)).isSome == entry)
/-- As many entries of one die as a table holds. -/
def fullTable (die : Nat) : List (Nat × Join) := (List.range 256).map (fun i => (90 + i, { anEntry [] with at_ := .hbm 0x61000, die := die }))
theorem test_witness_jbind :
    (bindFine (binding 0x50002) 0 false && bindFine (binding 0x50002 (joinable 1)) 1 false &&
     bindFine (binding 0x50002 { joinable with joins := [(90, anEntry [{ aMember 1 with wg := 60 }])] }) 0 true &&
     bindFine (binding 0x50002 { joinable with joins := fullTable (homeDie (.hbm 0x60400)) }) 0 false) = true := by decide +kernel
/-- What the gang's record holds of index 2, whose participant stands in the table or not. -/
def recordedAs (k : Kept) (m : Option Member) : State :=
  binding 0x50002 { joinable with
    gangs := joinable.gangs.map (fun g => (g.1, { g.2 with kept := [k] }))
    joins := (match m with | some x => [(90, anEntry [x])] | none => []) }
/-- The bind takes its binding from the record: settled, or condemned. -/
def bindAgain (s : State) (gen : Option (BitVec 16)) : Bool :=
  ctxIs s (fun c =>
    let b := s.blockAt 0x60400
    let mine := s.recorded c (gRead s c 2 (.g 0)) 2
    let entry := s.joins.find? (fun e => e.2.at_ == .hbm 0x60400 && e.2.gen == b.gen && !e.2.final)
    let holder := entry.bind (fun e => e.2.members.find? (fun m => m.index == 2))
    c.sh.pend.isNone && c.sp.replay.isNone && s.mem.wf && c.inMemory s bindUses false (gRead s c 2 (.g 0)) 256 == some 0x60400 &&
    settledGen mine b.gen holder == gen && (gen.isSome || (mine.any (fun k => k.condemned) && holder.any (fun m => m.condemned))) &&
    (gen.isSome || holder.isSome) && decide (b.state ≠ 2) && decide (2 < b.npart) && !b.bad && c.wg.joins[0]? == some none &&
    (journalOf s c 0x50002).any (fun a => a.rank == 7 && decide (16 * b.nelem ≤ a.size * 16384)) &&
    (match (c.looked s bindUses).blockReach c (.hbm 0x60400) b with | .ok _ => true | .error _ => false))
theorem test_witness_jbind_again :
    (bindAgain (recordedAs ⟨0x400, 2, 2, false, false⟩ none) (some 2) &&
     bindAgain (recordedAs ⟨0x400, 2, 3, false, false⟩ (some (aMember 2 true))) (some 3) &&
     bindAgain (recordedAs ⟨0x400, 2, 3, false, true⟩ (some (aMember 2 false true))) none) = true := by decide +kernel
theorem test_witness_jbind_table (die : Nat) :
    256 ≤ ((fullTable die).filter (fun e => e.2.die == die && !e.2.final)).length := by
  rw [List.filter_eq_self.mpr]
  · simp [fullTable]
  · simp [fullTable, anEntry]

/-! ### A binding in quorum register 0 -/

/-- The workgroup's register holds a binding; the table holds an entry or not. -/
def bound (b : Option Binding) (j : Option Join) (s : State := joinable) : State :=
  withWg (fun w => { w with joins := [b, none, none, none] }) { s with joins := (match j with | some x => [(90, x)] | none => []) }
/-- A binding as participant 2. -/
def aBinding (condemned settled : Bool := false) : Binding := ⟨90, 0x400, 3, 2, condemned, settled⟩
/-- Every clause of `Live`, decidable. -/
def liveAt (s : State) (c : Ctx) (m : Member) (j : Join) : Bool :=
  c.wg.joins[0]? == some (some aBinding) && kget s.joins 90 == some j && !j.final &&
  j.members.find? (fun m => m.index == 2) == some m && j.at_ == .hbm 0x60400 && s.plainAt 0x60400 &&
  s.accs.all (fun a => decide (a.kind ≠ .quorum 90 m.index none))
theorem live_of {s : State} {c : Ctx} {m : Member} {j : Join} (h : liveAt s c m j = true) : Live s c 0 aBinding j m 0x60400 := by
  simp only [liveAt, Bool.and_eq_true, beq_iff_eq, Bool.not_eq_true'] at h
  obtain ⟨⟨⟨⟨⟨⟨h1, h2⟩, h3⟩, h4⟩, h5⟩, h6⟩, h7⟩ := h
  have h7 : ∀ a ∈ s.accs, a.kind ≠ .quorum 90 m.index none := by simpa using h7
  exact ⟨⟨h1, ⟨rfl, rfl⟩, h2, h3, h4, h7⟩, h5, h6⟩
/-- The machine with a live binding of a member. -/
def liveBy (m : Member) (s : State := joinable) : State := bound (some aBinding) (some (anEntry [m])) s

theorem test_witness_quorum_operands :
    ctxIs (liveBy (aMember 2)) (fun c => c.within [(.n 0, 4)]) = true ∧ (GSrc.g 0).port = none := by decide +kernel
theorem test_witness_quorum_bindings :
    ctxIs (bound none none) (fun c => c.unbound (bound none none) 0 && c.calm) = true ∧
    ctxIs (bound (some (aBinding false true)) none) (fun c => c.wg.joins[0]? == some (some (aBinding false true)) && c.sh.pend.isNone) = true ∧
    (let s := bound (some aBinding) none
     ctxIs s (fun c => c.unbound s 0 && c.calm && (kget s.joins 90).isNone)) = true ∧
    (let s := bound (some aBinding) (some (anEntry [aMember 3]))
     ctxIs s (fun c => c.stale s 0 && c.calm)) = true ∧
    (let s := bound (some (aBinding true)) (some (anEntry [aMember 2]))
     ctxIs s (fun c => c.doomed s 0 && (c.stale s 0 == false)) && sheafIs s 0 (fun sh _ => !s.onlyJoin sh.wg)) = true ∧
    (let s := bound (some (aBinding true)) (some (anEntry [aMember 2 false true] true))
     ctxIs s (fun c => c.doomed s 0) && sheafIs s 0 (fun sh _ => s.onlyJoin sh.wg)) = true ∧
    (let s := bound (some aBinding) (some (anEntry [aMember 2 true] true true))
     ctxIs s (fun c => c.stale s 0 && (kget s.joins 90).any (·.final))) = true := by decide +kernel
theorem test_witness_quorum_live :
    ([(liveBy (aMember 2), aMember 2), (liveBy (aMember 2 true), aMember 2 true),
      (liveBy (aMember 2) (joinable 0 0 0 full), aMember 2), (liveBy (aMember 2) (joinable 0 0 0 storing), aMember 2)].all (fun p =>
        ctxIs p.1 (fun c => liveAt p.1 c p.2 (anEntry [p.2]))) &&
     ctxIs (liveBy (aMember 2) (joinable 0 0 0 full)) (fun c => decide (63 ≤ c.sh.stores)) &&
     (let s := liveBy (aMember 2) (joinable 0 0 0 storing)
      ctxIs s (fun c => decide (c.sh.stores < 63) && !s.wgReleased c.sh.wg)) &&
     (let s := bound (some aBinding) (some (anEntry [aMember 2 false true] true))
      ctxIs s (fun c => liveAt s c (aMember 2 false true) (anEntry [aMember 2 false true] true) && decide (c.sh.stores < 63) &&
        s.wgReleased c.sh.wg) && sheafIs s 0 (fun sh _ => s.onlyJoin sh.wg))) = true := by decide +kernel
/-- The block stands at another device. -/
theorem test_witness_quorum_away :
    (let j := { anEntry [aMember 2] with at_ := .pod 5 0x400 }
     let s := bound (some aBinding) (some j)
     ctxIs s (fun c => c.wg.joins[0]? == some (some aBinding) && kget s.joins 90 == some j && !j.final &&
       j.members.find? (fun m => m.index == 2) == some (aMember 2) && s.accs.isEmpty && decide (c.sh.stores < 63))) = true := by
  decide +kernel

/-! ### Contributions, arrivals, finalisation -/

/-- The lease and tile sets, n0 to n3 live, g0 an element, g1 a control word. -/
def giving (e ctl : Word) (s : State := joinable) : State :=
  named [1, 2, 3, 4] [] (group [e, ctl] (leasing (some 0) (liveBy (aMember 2) s)))
/-- The contribution's binding is live and its journal lit. -/
def gives (s : State) (f : Ctx → Block → Bool) : Bool :=
  ctxIs s (fun c => liveAt s c (aMember 2) (anEntry [aMember 2]) && decide (c.sh.stores < 63) && s.mem.wf &&
    (s.alloc 0 5).any (fun a => a.state == .lit && a.data.wf) && f c (s.blockAt 0x60400))
theorem test_witness_qcontrib :
    gives (giving 0 0) (fun c b => c.within [(.n 0, 4)] && c.reads (giving 0 0) [(.n 0, 4)] &&
      (maskLanes c.sp.mask).all (fun l => decide ((gRead (giving 0 0) c 1 (.g 0)).lo.toNat + l < b.nelem)) &&
      (c.looked (giving 0 0) [⟨3, .g 0, 1⟩]).bufferedAt 0xFFFF 0x60000 b.abuf (16 * b.nelem) 0x60800) = true ∧
    gives (giving 4 0) (fun c b => c.within [(.n 0, 4)] && c.reads (giving 4 0) [(.n 0, 4)] && c.calm &&
      (maskLanes c.sp.mask).any (fun l => decide (b.nelem ≤ (gRead (giving 4 0) c 1 (.g 0)).lo.toNat + l))) = true := by decide +kernel
/-- What is wrong with a row's contribution. -/
def rowWrong (s : State) (c : Ctx) (b : Block) : Option (Nat × Nat) :=
  let w := (gRead s c 1 (.g 1)).lo.toNat
  let th : Fin 4 := Fin.ofNat 4 w
  let set : Fin 4 := Fin.ofNat 4 (w / 4)
  if w / 2 ^ 23 ≠ 0 then some (0x02, 2)
  else if w / 2 ^ 16 % 128 = 0 ∨ 64 < w / 2 ^ 10 % 64 + w / 2 ^ 16 % 128 ∨ lget 0 c.wg.kernel.acc th.val ≤ set.val then some (0x11, 2)
  else if b.nelem < (gRead s c 1 (.g 0)).lo.toNat + w / 2 ^ 16 % 128 then some (0x11, 3)
  else if s.tops.any (fun x => x.wg == c.sh.wg && x.t == th && x.set == set) then none
  else if (s.tile c.sh.wg th set (w / 2 ^ 4 % 8)).anchor ≠ b.anchor then some (0x0F, 2)
  else none
theorem test_witness_qcontrib_row :
    ([(giving 0 0x800000, some (0x02, 2)), (giving 0 0, some (0x11, 2)), (giving 6 0x40000, some (0x11, 3)),
      ({ giving 0 0x40000 with tiles := [⟨3, 0, 0, 0, 7, 0, []⟩] }, some (0x0F, 2)), (giving 0 0x40000, none)] :
        List (State × Option (Nat × Nat))).all (fun p =>
      gives p.1 (fun c b => rowWrong p.1 c b == p.2 && c.calm &&
        (p.2 != none || (p.1.tops.all (fun x => x.wg != c.sh.wg || x.t != 0 || x.set != 0) &&
          (c.looked p.1 [⟨2, .g 1, 1⟩, ⟨3, .g 0, 1⟩]).bufferedAt 0xFFFF 0x60000 b.abuf (16 * b.nelem) 0x60800)))) = true := by decide +kernel

/-- The bytes that an arrival may write. -/
def arrivalBytes (x : Nat) : Bool := within 0x60400 256 x || within 0x60800 128 x || within 0x60700 1 x
theorem arrivalBytes_above (x : Nat) (h : x < 0x60000) : arrivalBytes x = false := by
  simp [arrivalBytes, within]; omega
/-- An arrival that does not meet the quorum, or does. -/
def arriving (narr : Nat) : State := liveBy (aMember 2) (joinable 0 0 narr)
theorem test_witness_arrivals :
    ([(0, false), (3, true)].all (fun p =>
      let s := arriving p.1
      ctxIs s (fun c => liveAt s c (aMember 2) (anEntry [aMember 2]) && decide (c.sh.stores < 63) && s.wgReleased c.sh.wg && s.mem.wf &&
        s.clearOver (.hbm 0x60400) 256 && (s.context 0 0xFFFF).all (fun x => x.logLen == 0 && x.logSeq != BitVec.allOnes 64) &&
        s.bufferedAt 0xFFFF 0x60000 (s.blockAt 0x60400).abuf (16 * (s.blockAt 0x60400).nelem) 0x60800 &&
        s.bufferedAt 0xFFFF 0x60000 ((s.blockAt 0x60400).bmap + BitVec.ofNat 64 (2 / 8)) 1 0x60700 &&
        decide ((s.blockAt 0x60400).nelem = 8) && decide ((s.blockAt 0x60400).arrw + 1 < 2 ^ 64) &&
        decide ((s.blockAt 0x60400).narr + 1 < 2 ^ 32) && (s.alloc 0 5).any (fun a => a.wg == 3) &&
        quorumMet (s.blockAt 0x60400) ((s.blockAt 0x60400).arrw + 1) ((s.blockAt 0x60400).narr + 1) == p.2))) = true ∧
    (apart 0x60400 256 0x60800 128 ∧ apart 0x60400 256 0x60700 1 ∧ apart 0x60700 1 0x60800 128) := by
  refine ⟨by decide +kernel, ?_⟩
  simp [apart]
theorem test_witness_arrival_buffers (narr : Nat) (p : DWord) (n pb : Nat)
    (h : (arriving narr).bufferedAt 0xFFFF 0x60000 p n pb = true) : (arriving narr).buffered 0xFFFF p n pb arrivalBytes :=
  State.buffered_of arrivalBytes_above h

/-- A released join, its destination in f32, `FILL` 0 or 1; sheaves wait for it and for the table. -/
def finalising (fill : Nat) : State := bound none (some (anEntry [aMember 2 true] true)) (joinable 1 fill 4)
/-- A participant of a device out of reach is still to be retracted. -/
theorem test_witness_finalise_waits :
    (let m : Member := { aMember 2 false true with dev := some 5, away := some [] }
     let s := { bound none (some (anEntry [m] true)) (joinable 1 0 4) with remotes := [⟨5, false, [], [], []⟩] }
     kget s.joins 90 == some (anEntry [m] true) && s.plainAt 0x60400 && s.clearOver (.hbm 0x60400) 256 && s.mem.wf &&
       m.condemned && !m.retracted && !s.reachable m) = true := by decide +kernel
/-- The bytes that the finaliser may write. -/
def finalBytes (x : Nat) : Bool := within 0x60400 256 x || within 0x60C00 32 x
theorem finalBytes_above (x : Nat) (h : x < 0x60000) : finalBytes x = false := by simp [finalBytes, within]; omega
theorem test_witness_finalise :
    ([0, 1].all (fun fill =>
      let s := finalising fill
      let b := s.blockAt 0x60400
      kget s.joins 90 == some (anEntry [aMember 2 true] true) && s.plainAt 0x60400 && s.clearOver (.hbm 0x60400) 256 && s.mem.wf &&
      decide (b.dfmt < 6) && (b.nelem * destBits b.dfmt + 7) / 8 == 32 && b.fill == fill &&
      s.bufferedAt 0xFFFF 0x60000 b.abuf (16 * b.nelem) 0x60800 && s.bufferedAt 0xFFFF 0x60000 b.fbuf (16 * b.nelem) 0x60A00 &&
      s.bufferedAt 0xFFFF 0x60000 b.dest 32 0x60C00 && s.bufferedAt 0xFFFF 0x60000 b.bmap ((b.npart + 7) / 8) 0x60700)) = true ∧
    apart 0x60400 256 0x60C00 32 := by
  refine ⟨by decide +kernel, ?_⟩
  simp [apart]
theorem test_witness_final_buffers (fill : Nat) (p : DWord) (n pb : Nat)
    (h : (finalising fill).bufferedAt 0xFFFF 0x60000 p n pb = true) : (finalising fill).buffered 0xFFFF p n pb finalBytes :=
  State.buffered_of finalBytes_above h
theorem test_witness_condemned_flag :
    (let s := bound (some aBinding) (some (anEntry [aMember 2 false true] true))
     (kget s.joins 90).any (fun j => (j.members.find? (fun m => m.index == 2)).any (fun m => m.condemned && !m.flagSent && (s.wg m.wg).isSome))) =
      true := by decide +kernel

end Sys2Proof.Tests
end

