-- ==== Sys2Proof/Tests/Witness6.lean ====
section
/-! SUPPORT. Concrete states that meet the hypotheses of the statements about queues, ports, records, dispatch, gangs and uncorrectable
errors, one for each clause. -/

namespace Sys2Proof.Tests

-- One test after the other: tests that wait for one another would each hold a thread.
set_option Elab.async false

open Sys2Proof.Machine

/-! ### Ports and records -/

/-- The partition's host table maps identifier 5 to queue 7 for pops and pushes; its share is queues 0 to 15. -/
def mapped (s : State := ported queue) : State :=
  s.setPart 0 { s.part 0 with stage1 := none, stage2 := [(5, 0x7007)], qBase := 0, qCount := 16 }
/-- An identifier in g0. -/
def naming (a : Word) (s : State := mapped) : State := group [a] s
/-- What is said of the queue that an identifier in g0 names. -/
def names (s : State) (i : Nat) (push : Bool) (f : Ctx → Option Nat → Bool) : Bool :=
  ctxIs s (fun c => f c ((c.looked s [⟨2, .g 0, 1⟩]).naming c.wg.part i push).2)
theorem test_witness_qbind :
    ctxIs (naming 4096) (fun c => decide (4096 ≤ (gRead (naming 4096) c 1 (.g 0)).lo.toNat) && c.calm) = true ∧
    names (naming 6) 6 false (fun c found => found == none && c.calm) = true ∧
    [false, true].all (fun push => names (naming 5) 5 push (fun c found => (gRead (naming 5) c 1 (.g 0)).lo.toNat == 5 &&
      found == some 7 && (kget (naming 5).queues 7).any (fun y => y.state == .opened) &&
      c.port (naming 5) 0 != none && c.port (naming 5) 4 == none && c.calm)) = true ∧
    (let s := naming 5 (mapped (ported (queue .draining)))
     names s 5 false (fun c found => found == some 7 && (kget s.queues 7).all (fun y => y.state != .opened) && c.calm)) = true := by
  decide +kernel
/-- Port h0 with words of a record moved already, as a pop or a push. -/
def inPart (push : Bool) (words slot : Nat) (q : Queue := queue) : State :=
  withSheaf (fun sh => { sh with ports := lset sh.ports 0 (some ⟨7, 0, push, words, slot⟩) }) (ported q)
theorem test_witness_qunbind :
    ctxIs (ported queue) (fun c => (c.port (ported queue) 0).any (fun p => !p.1.push && !popsRest p.1 p.2) &&
      (c.port (ported queue) 1).any (fun p => p.1.push && p.1.words == 0) && c.sh.ports[4]? == some none) = true ∧
    (let s := inPart false 3 0 { queue with popped := 3 }
     ctxIs s (fun c => (c.port s 0).any (fun p => !p.1.push && popsRest p.1 p.2 && p.2.state != .dead))) = true ∧
    (let s := inPart false 3 0 { queue .dead with popped := 3 }
     ctxIs s (fun c => (c.port s 0).any (fun p => popsRest p.1 p.2 && p.2.state == .dead))) = true ∧
    (let s := inPart true 3 1 { queue with taken := [(1, 3)] }
     ctxIs s (fun c => (c.port s 0).any (fun p => p.1.push && p.2.state != .dead && decide (1 ≤ p.1.words ∧ p.1.words ≤ 15 ∧ p.1.slot < 2 ^ 32) &&
       p.2.ring == .hbm 0x100000 && (List.range 64).all (fun n => s.plainAt (recordAt 0x100000 p.2.log2 1 + n))))) = true := by decide +kernel
/-- A record instruction's port: the queue's state, the record's progress. -/
def recIs (s : State) (h : Fin 8) (f : Ctx → Port → Queue → Bool) : Bool :=
  ctxIs s (fun c => recordFault c 0 == none && (c.port s h).any (fun p => f c p.1 p.2))
theorem test_witness_record_faults :
    ctxIs live (fun c => recordFault c 1 == some 0x02 && c.calm && recordFault c 0 == none && c.port live 0 == none) = true ∧
    ctxIs few (fun c => recordFault c 8 == some 0x04 && c.calm) = true ∧
    recIs (ported queue) 0 (fun c p q => !p.push && q.state == .opened && c.calm) = true ∧
    recIs (ported queue) 1 (fun c p q => p.push && q.state == .opened && c.calm) = true ∧
    recIs (ported (queue .draining)) 0 (fun c p q => !p.push && q.state != .opened && c.calm) = true ∧
    recIs (inPart true 0 0 (queue .error)) 0 (fun c p q => p.push && q.state != .opened && c.calm) = true ∧
    recIs (inPart false 3 0 { queue with popped := 3 }) 0 (fun c p q => q.state == .opened && !p.push && popsRest p q && c.calm) = true ∧
    recIs (inPart true 3 1) 0 (fun c p q => q.state == .opened && p.push && p.words != 0 && c.calm) = true := by decide +kernel
theorem test_witness_qpop_rec :
    recIs (ported queue full) 0 (fun c p q => q.state == .opened && !p.push && !popsRest p q && decide (63 ≤ c.sh.loads)) = true ∧
    recIs (ported (queue .opened 0)) 0 (fun c p q => q.state == .opened && !p.push && !popsRest p q && decide (c.sh.loads < 63) &&
      !standsWhole q) = true ∧
    (let s := ported queue
     recIs s 0 (fun c p q => q.state == .opened && !p.push && !popsRest p q && decide (c.sh.loads < 63) && standsWhole q &&
      c.recordLanes != [] && (s.context c.wg.part c.wg.asid).all (fun x => x.logLen == 0 && x.logSeq != BitVec.allOnes 64))) = true := by decide +kernel
theorem test_witness_qpush_rec :
    (let s := withSheaf (fun sh => { sh with ports := [none, some ⟨8, 0, true, 0, 0⟩] }) (ported queue oneDead)
     recIs s 1 (fun c p q => q.state == .opened && p.push && p.words == 0 && pushesDead s c 0 && c.calm)) = true ∧
    (let s := ported queue full
     recIs s 1 (fun c p q => q.state == .opened && p.push && p.words == 0 && !pushesDead s c 0 && decide (63 ≤ c.sh.stores))) = true ∧
    (let s := inPart true 0 0 (queue .opened 16)
     recIs s 0 (fun c p q => q.state == .opened && p.push && p.words == 0 && decide (c.sh.stores < 63) && q.free == 0)) = true ∧
    (let s := ported queue
     recIs s 1 (fun c p q => q.state == .opened && p.push && p.words == 0 && !pushesDead s c 0 && decide (c.sh.stores < 63) &&
       q.free != 0 && !s.commandQueue p.q && q.ring == .hbm 0x100000 &&
       (List.range 64).all (fun n => s.plainAt (recordAt 0x100000 q.log2 q.tail + n)) && c.sh.width == 8)) = true ∧
    (let s := { ported queue storing with parts := [(0, { Partition.reset with stage2 := [(0, 0x7008)], qCount := 16 })] }
     recIs s 1 (fun c p q => q.state == .opened && p.push && p.words == 0 && !pushesDead s c 0 && decide (c.sh.stores < 63) &&
       q.free != 0 && s.commandQueue p.q && !s.drainedFor c.k false)) = true := by decide +kernel

/-! ### The life of a queue -/

theorem test_witness_queue_create :
    (kget mapped.queues 9 = none ∧ mapped.ringOk (.hbm 0x110000) 0 (64 * 2 ^ 4) = true ∧ (mapped.part 0).qBase ≤ 9 ∧ 9 < (mapped.part 0).qBase + (mapped.part 0).qCount) ∧
    (kget (ported (queue .dead)).queues 7).any (fun q => q.state == .dead) = true := by decide +kernel
theorem test_witness_queue_ends :
    [(queue, QState.opened, ([] : List Word)), ({ queue .error with bad := [0] }, .error, [0]), (queue .draining, .draining, [])].all (fun p =>
      (kget (ported p.1).queues 7).any (fun q => q.state == p.2.1 && q.bad == p.2.2)) = true := by decide +kernel
theorem test_witness_queue_unmapped :
    (let e := entryAt (mapped.part 0).stage2 5
     e.getLsbD 12 = true ∧ e.toNat % 4096 = 7 ∧ (kget mapped.queues 7).any (fun q => q.state == .opened && q.bad == []) = true) ∧
    (let rest : State := mapped.setPart 0 { mapped.part 0 with stage2 := (mapped.part 0).stage2.filter (fun x => x.1 != 5) }
     rest.parts.any (fun p => p.2.stage2.any (fun x => x.2.getLsbD 12 && x.2.toNat % 4096 == 7)) = false) ∧
    (let s := mapped.setPart 1 { Partition.reset with stage2 := [(6, 0x7007)] }
     let rest : State := s.setPart 0 { s.part 0 with stage2 := (s.part 0).stage2.filter (fun x => x.1 != 5) }
     rest.parts.any (fun p => p.2.stage2.any (fun x => x.2.getLsbD 12 && x.2.toNat % 4096 == 7)) = true) := by decide +kernel
/-- What is said of a feed of two records. -/
def feeds (s : State) (f : Queue → Bool) : Bool :=
  !s.firmware.hold && (s.naming 0 5 true).2 == some 7 && (s.naming 0 5 true).1 == s && (kget s.queues 7).any f
theorem test_witness_feed :
    (mapped.firmware.hold = false ∧ (mapped.naming 0 6 true).2 = none) ∧
    feeds (mapped (ported (queue .draining))) (fun q => q.state != .opened) = true ∧
    feeds (mapped (ported (queue .opened 15))) (fun q => q.state == .opened && decide (q.free < 2)) = true ∧
    feeds mapped (fun q => q.state == .opened && decide (2 ≤ q.free) && q.ring == .hbm 0x100000 &&
      (List.range (2 ^ q.log2 * 64)).all (fun a => mapped.plainAt (0x100000 + a))) = true := by decide +kernel
/-- A push window of application core 2 onto queue 7. -/
def windowed (q : Queue) : State := { ported q with windows := [⟨2, 7, 0x200000, List.replicate 64 1, 3⟩] }
theorem test_witness_push_window :
    [(queue .draining, false, false), (queue .opened 16, true, false), (queue, true, true)].all (fun p =>
      (windowed p.1).windows.any (fun w => w.app == 2 && w.q == 7) && (kget (windowed p.1).queues 7).any (fun q =>
        (q.state == .opened) == p.2.1 && (q.free != 0 || !p.2.2) && (p.2.2 || !p.2.1 || q.free == 0) && q.ring == .hbm 0x100000 &&
        (List.range (2 ^ q.log2 * 64)).all (fun a => (windowed p.1).plainAt (0x100000 + a)))) = true := by decide +kernel

/-! ### Dispatch -/

/-- Words as bytes. -/
def bytesOf (l : List Nat) : List Byte := l.flatMap (fun n => leBytes 4 n)
/-- A dispatch queue with one record at head, other memory below it as given, the data page known to the agents. -/
def dispatching (rec : List Nat) (m : Memory := base.mem) : State :=
  { base with mem := m.write 0x100000 (bytesOf (rec ++ List.replicate (16 - rec.length) 0))
              queues := [(7, { queue .opened 1 with dispatch := true })]
              parts := [(0, { Partition.reset with asid := 0xFFFF })] }.cacheLocal (agentVia 0xFFFF) 0
/-- The queue is ready, and what its record holds. -/
def heads (s : State) (f : List Word → Bool) : Bool :=
  (kget s.queues 7).any (fun q => q.dispatch && q.state == .opened && standsWhole q && s.mem.wf && (s.part q.part.val).asid == 0xFFFF &&
    f (s.headRecord q))
/-- The kind and subkind of a record. -/
def kinds (ws : List Word) (kind sub : Nat) : Bool := wordNo ws 0 % 2 ^ 8 == kind && wordNo ws 0 / 2 ^ 8 % 2 ^ 8 == sub
/-- A task control block at 0x60200. -/
def blockMem (dep state : Nat) (ctl : Nat := 8) : Memory := (block dep state ctl).mem
theorem test_witness_task_records :
    heads (dispatching [3]) (fun ws => kinds ws 3 0) = true ∧ heads (dispatching [0x101]) (fun ws => kinds ws 1 1) = true ∧
    heads (dispatching [1, 0, 0x200, 0, 1]) (fun ws => kinds ws 1 0 && (ws.drop 4).any (· != 0)) = true ∧
    heads (dispatching [1, 0, 0x204]) (fun ws => kinds ws 1 0 && !(ws.drop 4).any (· != 0) && (pairNo ws 2).toNat % 64 != 0) = true ∧
    [(0, 0, 8), (2, 0, 8), (0, 2, 8)].all (fun p =>
      let s := dispatching [1, 0, 0x200] (blockMem p.1 p.2.1 p.2.2)
      heads s (fun ws => kinds ws 1 0 && !(ws.drop 4).any (· != 0) && (pairNo ws 2).toNat % 64 == 0 &&
        s.bufferedAt 0xFFFF 0x60000 (pairNo ws 2) 64 0x60200 && ((tcbAt s.mem 0x60200).spawnFault 0 == none) == (p.2.1 == 0) &&
        (tcbAt s.mem 0x60200).dep.toNat == p.1)) = true := by decide +kernel
/-- A launch descriptor: 8 lanes, 16 registers, allocations of the given sizes. -/
def descriptor (sizes : List Nat) (version : Nat := 1) : List Byte :=
  bytesOf ([version, 64 + 2 ^ 14 * sizes.length, 0x10000, 0, 0x18000, 0, 4096, 0, 0] ++ List.replicate 7 0 ++
    sizes.flatMap (fun n => [n + 2 ^ 24 * 3, 0, 0x8000, 0, 0, 0, 0, 0]) ++ List.replicate (128 - 8 * sizes.length) 0)
/-- Such a descriptor in memory, its zeros apart. -/
def descriptorMem (sizes : List Nat) (version : Nat) : Memory :=
  ((List.range sizes.length).map (fun i => (64 + 32 * i, lget 0 sizes i + 2 ^ 24 * 3)) ++ (List.range sizes.length).map (fun i => (72 + 32 * i, 0x8000)) ++
    [(0, version), (4, 64 + 2 ^ 14 * sizes.length), (8, 0x10000), (16, 0x18000), (24, 4096)]).foldl
    (fun (m : Memory) (x : Nat × Nat) => m.write (0x60400 + x.1) (leBytes 4 x.2)) base.mem
/-- A launch of such a kernel, its arguments 4 bytes at 0xE00, its future at 0x800. -/
def launching (sizes : List Nat) (version donef gangs : Nat) : State :=
  dispatching [2, 7, 0x400, 0, gangs, 4, 0xE00, 0, donef, 0] (descriptorMem sizes version)
/-- The descriptor's bytes are read as they stand. -/
def readsDesc (s : State) (ws : List Word) (sizes : List Nat) (version : Nat) : Bool :=
  kinds ws 2 0 && launchFits ws && s.mem.read 0x60400 576 == descriptor sizes version && (descriptor sizes version).length == 576 &&
  s.plainAt 0x60400 && s.pageFor 0xFFFF 0x60000 (localAddr (pairNo ws 2)) 576 0x60400 .rd
/-- The kernel of a descriptor. -/
def kernelOf (sizes : List Nat) (version : Nat) (ws : List Word) : Option Kernel :=
  Kernel.ofWords (leWords (descriptor sizes version)) (wordNo ws 4 / 2 ^ 24 % 16)
theorem test_witness_launch_records :
    heads (launching [] 1 0 0) (fun ws => kinds ws 2 0 && !launchFits ws) = true ∧
    heads (launching [] 2 0 1) (fun ws => readsDesc (launching [] 2 0 1) ws [] 2 && kernelOf [] 2 ws == none) = true ∧
    [0, 0x800].all (fun donef =>
      let l := [6000000, 6000000, 6000000]
      let s := launching l 1 donef 1
      heads s (fun ws => readsDesc s ws l 1 && (kernelOf l 1 ws).any (fun k => !k.placeable) && (pairNo ws 8).toNat == donef &&
        (donef == 0 || (s.bufferedAt 0xFFFF 0x60000 (pairNo ws 8) 8 0x60800 && s.mem.dword 0x60800 == 0 &&
          decide (shortAddr (pairNo ws 8) = .plain (shortAddr (pairNo ws 8)).va))))) = true ∧
    (let s := launching [16384] 1 0x800 2
     heads s (fun ws => readsDesc s ws [16384] 1 && (kernelOf [16384] 1 ws).any (fun k => k.placeable) && wordNo ws 5 == 4 &&
       s.mem.read 0x60E00 4 == [0, 0, 0, 0] && s.plainAt 0x60E00 && s.pageFor 0xFFFF 0x60000 (localAddr (pairNo ws 6)) 4 0x60E00 .rd)) =
      true := by decide +kernel
/-- What such a page holds is read, and such a structure is reached, in every state with the same tables. -/
theorem test_witness_reads {s : State} {p : DWord} {bs : List Byte} {pb : Nat} (h1 : s.plainAt pb = true)
    (hp : s.pageFor 0xFFFF 0x60000 (localAddr p) bs.length pb .rd = true) (hb : s.mem.read pb bs.length = bs) : s.reads 0xFFFF p bs :=
  State.reads_of h1 hp hb
theorem test_witness_buffered {s : State} {p : DWord} {n pb : Nat} (h : s.bufferedAt 0xFFFF 0x60000 p n pb = true) :
    s.buffered 0xFFFF p n pb (fun _ => false) := State.buffered_of (fun _ _ => rfl) h
theorem test_witness_future {s : State} {p : DWord} {a : Access} {pb : Nat} (h : shortAddr p = .plain (shortAddr p).va)
    (hp : s.pageFor 0xFFFF 0x60000 (shortAddr p).va 8 pb a = true) :
    ∀ u, SameView s u (fun _ => false) → u.hwShort 0xFFFF a true p 8 = (u, .ok [(.hbm pb, 8)]) :=
  fun _ hu => SameView.hwShort hu (fun _ _ => rfl) h hp

/-! ### Tasks complete or start again -/

/-- The workgroup is a task of the block at 0x60200, whose successors array at 0x60300 names the block at 0x60240. -/
def tasking (ended aborted : Bool) (state : Nat) (u : List ReadyTask) : State :=
  let m := ((((block 0 3).mem.write 0x60210 (leBytes 8 0x300)).write 0x60218 (leBytes 4 (3 * 65536 + 1))).write 0x60300 (leBytes 8 0x240)).write
    0x60248 (leBytes 4 8 ++ leBytes 4 1)
  let s := { withAllocs [anAlloc 1 .lit 7 0] with
    mem := m.write 0x60258 (leBytes 4 (state * 65536)), parts := [(0, { Partition.reset with waiting := u })] }
  (withWg (fun w => { w with task := some ⟨0x200, 0, 0x7000, aborted, .hbm 0x60200, none⟩, ended := ended }) s).cacheLocal (agentVia 0xFFFF) 0
/-- The bytes of the two blocks. -/
def taskBytes (x : Nat) : Bool := within 0x60200 64 x || [((0x240 : DWord), 0x60240)].any (fun y => within y.2 64 x)
theorem taskBytes_above (x : Nat) (h : x < 0x60000) : taskBytes x = false := by simp [taskBytes, within]; omega
theorem test_witness_task_completion :
    [(0, []), (1, [⟨0x240, 0xFFFF, 0, 0, .hbm 0x60240, none⟩])].all (fun p =>
      let s := tasking true false p.1 p.2
      sheafIs s 0 (fun sh w => w.task.any (fun t => t.at_ == .hbm 0x60200) && w.ended && !w.killed && s.plainAt 0x60200 && s.mem.wf &&
        decide (s.wgs.map (fun p => p.1)).Nodup && 1 == (tcbAt s.mem 0x60200).st.toNat % 2 ^ 16 &&
        (kget s.gangs w.gang).any (fun g => g.members == [sh.wg] && (kget s.grids g.grid).any (fun y => y.donef == 0 && y.record == none)) &&
        s.clearOver (.hbm 0x60200) 64 && s.mem.dword 0x60210 == 0x300 &&
        s.bufferedAt w.asid 0x60000 0x300 8 0x60300 && s.mem.dword 0x60300 == 0x240 &&
        (List.range 8).all (fun b => !taskBytes (0x60300 + b)) && s.bufferedAt w.asid 0x60000 0x240 64 0x60240 &&
        decide (s.parts.map (fun p => p.1)).Nodup && s.parts.all (fun q => q.1 == w.part.val) &&
        ((s.part w.part.val).waiting.any (fun u => u.at_ == .hbm 0x60240) || (tcbAt s.mem 0x60240).state != 1))) = true ∧
    apart 0x60240 64 0x60200 64 := by
  refine ⟨by decide +kernel, ?_⟩
  simp [apart]
theorem test_witness_task_buffers (state : Nat) (u : List ReadyTask) (p : DWord) (n pb : Nat)
    (h : (tasking true false state u).bufferedAt 0xFFFF 0x60000 p n pb = true) :
    (tasking true false state u).buffered 0xFFFF p n pb taskBytes := State.buffered_of taskBytes_above h
theorem test_witness_no_task :
    sheafIs base 0 (fun _ w => w.task == none) = true ∧ sheafIs (tasking false false 0 []) 0 (fun _ w => w.task.isSome && !w.ended) = true ∧
    (let s := withWg (fun w => { w with killed := true }) (tasking true false 0 [])
     sheafIs s 0 (fun _ w => w.task.isSome && w.ended && w.killed) = true) := by decide +kernel
/-- What is said of a task that starts again, or not yet. -/
def requeues (s : State) (f : Sheaf → Workgroup → Task → Bool) : Bool :=
  sheafIs s 0 (fun sh w => s.sheavesOf sh.wg == [(0, sh)] && w.task.any (fun t => f sh w t))
theorem test_witness_no_requeue :
    requeues (tasking false false 0 []) (fun sh _ t => !sh.restarting && !t.aborted) = true ∧
    requeues (tasking true true 0 []) (fun _ w _ => w.ended) = true ∧
    (let s := { tasking false true 0 [] with copies := [aCopy] }
     requeues s (fun _ w t => t.aborted && !w.ended && s.copies.any (fun x => x.k == 0)) = true) := by decide +kernel
theorem test_witness_task_requeue :
    (let s := tasking false true 0 []
     sheafIs s 0 (fun sh w => w.task.any (fun t => t.at_ == .hbm 0x60200 && t.aborted) && !w.ended && (s.sheavesOf sh.wg).map (fun p => p.1) == [0] &&
       s.copies == [] && s.tops == [] && sh.ports.all (fun p => p.isNone) && s.accs == [] && s.plainAt 0x60200 && s.mem.wf &&
       s.joins == [] && (kget s.cores w.site).any (fun core => decide (core.allocs.map (fun a => a.id)).Nodup &&
         core.allocs.all (fun a => a.wg == sh.wg || a.handSheaf != some 0)))) = true := by decide +kernel

/-! ### Sheaves, workgroups and gangs end; placement -/

/-- A sheaf with no entry left. -/
def gone (s : State := base) : State :=
  { s with sheaves := s.sheaves.map (fun p => if p.1 = 0 then (0, { p.2 with ctl := { p.2.ctl with splits := [] } }) else p) }
/-- What is said of the sheaf that may end and of the others of its workgroup. -/
def ends (s : State) (f : Sheaf → Workgroup → List (Nat × Sheaf) → Bool) : Bool :=
  sheafIs s 0 (fun sh w => s.mayEnd 0 sh && s.sheaves.all (fun p => p.1 == 0 || !s.mayEnd p.1 p.2) &&
    decide (s.wgs.map (fun p => p.1)).Nodup && sh.ports.all (fun p => p.isNone) && w.leases.all (fun l => l != some 0) &&
    f sh w (s.sheaves.filter (fun p => p.2.wg == sh.wg && p.1 != 0)))
/-- The gang has a second workgroup that goes on. -/
def pairGang : State :=
  let s := gone
  { s with wgs := s.wgs ++ (s.wgs.map (fun p => (60, p.2))), gangs := s.gangs.map (fun p => (p.1, { p.2 with members := [3, 60] })) }
/-- The grid with so many gangs left and a future. -/
def lastGang (left : Nat) (donef : DWord) : State :=
  let f : Grid → Grid := fun g => { g with left := left, donef := donef }
  let s : State := { gone with grids := base.grids.map (fun p => (p.1, f p.2)) }
  s.cacheLocal (agentVia 0xFFFF) 0
theorem test_witness_ends :
    ends (gone (twoSheaves none)) (fun _ _ others => others.any (fun p => !p.2.ended)) = true ∧
    ends pairGang (fun sh w others => others.all (fun p => p.2.ended) && w.task == none && pairGang.joins == [] &&
      decide (pairGang.sheaves.map (fun p => p.1)).Nodup && (kget pairGang.gangs w.gang).any (fun g =>
        g.members.any (fun m => m != sh.wg && (pairGang.wg m).any (fun y => !y.ended)))) = true ∧
    [(2, (0 : DWord)), (1, 0), (1, 0x800)].all (fun p =>
      let s := lastGang p.1 p.2
      ends s (fun sh w others => others.all (fun p => p.2.ended) && !w.ended && w.task == none && s.joins == [] && s.accs == [] && s.queues == [] &&
        decide (s.sheaves.map (fun p => p.1)).Nodup && (kget s.gangs w.gang).any (fun g => g.members == [sh.wg] &&
          (kget s.grids g.grid).any (fun y => y.left == p.1 && y.donef == p.2 && y.asid == 0xFFFF)) &&
        decide (shortAddr p.2 = .plain (shortAddr p.2).va) && s.plainAt 0x60800 && s.mem.dword 0x60800 == 0 &&
        (p.2 == 0 || s.pageFor 0xFFFF 0x60000 (shortAddr p.2).va 8 0x60800 .wr))) = true := by decide +kernel
/-- The second workgroup of the gang has ended before. -/
def lastOfPair : State := { pairGang with wgs := pairGang.wgs.map (fun p => if p.1 = 60 then (60, { p.2 with ended := true }) else p) }
theorem test_witness_gang_ends :
    ends lastOfPair (fun sh w others => others.all (fun p => p.2.ended) && !w.ended && w.task == none && lastOfPair.joins == [] &&
      lastOfPair.accs == [] && decide (lastOfPair.sheaves.map (fun p => p.1)).Nodup && (kget lastOfPair.gangs w.gang).any (fun g =>
        g.members == [sh.wg, 60] && (lastOfPair.wg 60).any (fun y => y.ended && y.task == none) && (kget lastOfPair.grids g.grid).isSome)) =
      true := by decide +kernel
/-- A sheaf is saved. -/
def savedSheaf (s : State := base) : State :=
  { s with sheaves := s.sheaves.map (fun p => if p.1 = 0 then (0, { p.2 with saving := .saved }) else p) }
theorem test_witness_saved :
    (let s := savedSheaf (twoSheaves none)
     sheafIs s 0 (fun sh _ => sh.saving == .saved && s.sheaves.any (fun p => p.2.wg == sh.wg && !p.2.ended && p.2.saving != .saved)) = true) ∧
    sheafIs savedSheaf 0 (fun sh w => sh.saving == .saved && savedSheaf.sheaves.all (fun p => p.2.saving == .saved && savedSheaf.quiet p.1 p.2) &&
      !w.away && (kget savedSheaf.gangs w.gang).any (fun g => g.members == [sh.wg] && (kget savedSheaf.grids g.grid).isSome)) = true := by
  decide +kernel
/-- A grid with a gang to place, the partition's one core being core 1. -/
def placing (noPlace : Bool) (retired : Bool := false) : State :=
  let f : Grid → Grid := fun g => { g with pending := [⟨0, 0, [], [], [], 0, false⟩] }
  let s : State := { base with parts := [(0, { Partition.reset with cores := [1] })], grids := base.grids.map (fun p => (p.1, f p.2)) }
  s.setCore 1 { s.core 1 with noPlace := noPlace, retired := retired }
theorem test_witness_placement :
    [(true, false), (false, true), (false, false)].all (fun p =>
      let s := placing p.1 p.2
      (match s.grids.filter (fun x => x.2.part == 0) with
       | [(key, g)] => kget s.grids key == some g && g.pending == [⟨0, 0, [], [], [], 0, false⟩] && g.m == 1 &&
          (s.context 0 g.asid).all (fun x => x.logLen == 0 && x.logSeq != BitVec.allOnes 64) && (p.1 || p.2 || fitsEmpty s 1 g.k g.kernel)
       | _ => false) &&
      (s.part 0).cores == [1] && (s.part 0).fifos.all (fun l => l.isEmpty) && s.sheaves.all (fun p => decide (p.1 < s.nextKey)) &&
      s.wgs.all (fun p => decide (p.1 < s.nextKey)) && (s.core 1).noPlace == p.1 && (s.core 1).retired == p.2) = true := by decide +kernel
theorem test_witness_uncorrectable :
    base.alloc 0 1 = none ∧ ((withAllocs [anAlloc 1 .lit 7 0]).alloc 0 1).any (fun a => a.wg == 3) = true ∧
    sheafIs base 0 (fun sh w => sh.wg == 3 && !w.ended && w.task == none && !w.kernel.idemp) = true ∧
    sheafIs (tasking false false 0 []) 0 (fun _ w => !w.ended && w.task.isSome) = true ∧
    (let s := withWg (fun w => { w with kernel := { w.kernel with idemp := true } })
     sheafIs s 0 (fun _ w => !w.ended && w.task == none && w.kernel.idemp && (kget s.gangs w.gang).any (fun g =>
       (kget s.grids g.grid).isSome && g.members.head? == some 3 && g.members.all (fun m => (s.wg m).isSome) &&
       ((s.wg 3).map (fun y => (y.stage, y.gangNo))) == some (w.stage, w.gangNo)))) = true := by decide +kernel

end Sys2Proof.Tests
end

