-- ==== Sys2Proof/Tests/Witness7.lean ====
section
/-! SUPPORT. Concrete states that meet the hypotheses of the statements about firmware cores and the package, one for each clause. -/

namespace Sys2Proof.Tests

-- One test after the other: tests that wait for one another would each hold a thread.
set_option Elab.async false

open Sys2Proof.Machine

/-! ### Firmware cores -/

/-- Firmware core 0 at its turn: x10 and x11, memory readable from 0 to 0x400, a queue of it and one of another processor. -/
def fwWith (a b : Word) (m : Memory := []) (q : Queue := queue) : State :=
  { State.reset with cur := .fw 0, queues := [(7, q), (8, { q with owner := 1 })] }.setFw 0
    { FwCore.reset with x := lset (lset (List.replicate 32 0) 10 a) 11 b, mem := m, readable := [(0, 0x400)] }
/-- All of n bytes, or no part of them, can be read. -/
def reaches (c : FwCore) (a n : Nat) : Bool := c.readable.any (fun r => decide (r.1 ≤ a ∧ a + n ≤ r.2))
/-- See `reaches`. -/
def misses (c : FwCore) (a n : Nat) : Bool := c.readable.all (fun r => decide (r.2 ≤ a ∨ a + n ≤ r.1))
/-- What is said of the core's two operands. -/
def fwIs (s : State) (f : FwCore → Word → Word → Bool) : Bool :=
  s.cur == .fw 0 && f (s.fw 0) ((s.fw 0).val 10) ((s.fw 0).val 11)
theorem test_witness_bfe_sigw :
    fwIs (fwWith 0 0x800) (fun _ _ b => decide (2 ^ 11 ≤ b.toNat)) = true ∧
    fwIs (fwWith 0 0x3FF) (fun _ _ b => decide (32 < b.toNat % 32 + (b.toNat / 32 % 32 + 1))) = true ∧
    fwIs (fwWith 0 0x4E3) (fun _ _ b => decide (b.toNat < 2 ^ 11 ∧ b.toNat % 32 + (b.toNat / 32 % 32 + 1) ≤ 32)) = true ∧
    fwIs (fwWith 64 0) (fun _ a _ => decide (64 ≤ a.toNat)) = true ∧
    fwIs (fwWith 63 0) (fun c a _ => decide (a.toNat < 64) && lget 0 c.signals a.toNat == 0) = true ∧
    (let s := fwWith 3 0
     fwIs (s.setFw 0 { s.fw 0 with signals := lset (s.fw 0).signals 3 9 }) (fun c a _ => lget 0 c.signals a.toNat != 0)) = true := by
  decide +kernel
/-- A ring descriptor at 0x100: its records' base, the logarithm of its size, head 0 and tail 1. -/
def ringMem (base log2 : Nat) : Memory := Memory.write [] 0x100 (bytesOf [base, log2, 0, 1])
/-- A ring descriptor that is read. -/
def ringIs (s : State) (f : FwCore → Nat → Nat → Word → Word → Bool) : Bool :=
  fwIs s (fun c a b => a.toNat % 16 == 0 && b.toNat % 4 == 0 && reaches c a.toNat 16 &&
    f c ((c.wordAt (a + 4)).toNat % 32) (64 * (c.wordAt (a + 12) - c.wordAt (a + 8)).toNat)
      (c.wordAt a + BitVec.ofNat 32 ((64 * (c.wordAt (a + 8)).toNat + b.toNat) % (64 * 2 ^ ((c.wordAt (a + 4)).toNat % 32)))) b)
theorem test_witness_ringf :
    fwIs (fwWith 0x104 0) (fun _ a _ => a.toNat % 16 != 0) = true ∧
    fwIs (fwWith 0x400 0) (fun c a b => a.toNat % 16 == 0 && b.toNat % 4 == 0 && misses c a.toNat 16) = true ∧
    ringIs (fwWith 0x100 0 (ringMem 0x200 3)) (fun _ n _ _ _ => decide (n < 4)) = true ∧
    ringIs (fwWith 0x100 64 (ringMem 0x200 4)) (fun _ n held _ b => decide (4 ≤ n ∧ n ≤ 16 ∧ held ≤ b.toNat)) = true ∧
    ringIs (fwWith 0x100 60 (ringMem 0x8000 4)) (fun c n held at_ b => decide (4 ≤ n ∧ n ≤ 16 ∧ b.toNat < held) && misses c at_.toNat 4) = true ∧
    ringIs (fwWith 0x100 60 (ringMem 0x200 16)) (fun c n held at_ b => decide (4 ≤ n ∧ n ≤ 16 ∧ b.toNat < held) && reaches c at_.toNat 4) =
      true := by decide +kernel
/-- Records for a queue. -/
def dispIs (s : State) (f : FwCore → Nat → Nat → Option Queue → Bool) : Bool :=
  fwIs s (fun c a b => decide (a.toNat < 2 ^ 28) && f c (a.toNat / 2 ^ 12 % 2 ^ 16 + 1) b.toNat (kget s.queues (a.toNat % 2 ^ 12)))
theorem test_witness_disp :
    fwIs (fwWith 0x10000000 0) (fun _ a _ => decide (2 ^ 28 ≤ a.toNat)) = true ∧
    dispIs (fwWith 8 0) (fun _ _ _ q => q.any (fun q => q.owner.val != 0)) = true ∧
    dispIs (fwWith 9 0) (fun _ _ _ q => q.isNone) = true ∧
    dispIs (fwWith 7 0x20) (fun _ _ b q => q.any (fun q => q.owner.val == 0) && b % 64 != 0) = true ∧
    dispIs (fwWith 0x1007 0x400) (fun c n b q => q.any (fun q => q.owner.val == 0) && b % 64 == 0 && misses c b (64 * n)) = true ∧
    [(queue .draining, false, false), (queue .opened 15, true, false), (queue, true, true)].all (fun p =>
      let s := fwWith 0x1007 0x40 [] p.1
      dispIs s (fun c n b q => n == 2 && b % 64 == 0 && reaches c b (64 * n) && q.any (fun q => q.owner.val == 0 &&
        (q.state == .opened) == p.2.1 && decide (n ≤ q.free) == (p.2.2 || !p.2.1) && q.ring == .hbm 0x100000 &&
        (List.range (2 ^ q.log2 * 64)).all (fun x => s.plainAt (0x100000 + x))))) = true := by decide +kernel

/-! ### Functions, links, ports, frames -/

/-- Everything is retired that can be. -/
def worn : State := { base with retired := { base.retired with core := [5], stor := true } }
theorem test_witness_functions :
        (3 : Fin 64).val ∉ base.linksDown ∧ base.accs = [] ∧ (1 : Fin 2).val ∉ base.ethDown ∧ (9 : Fin 16).val ∉ base.appDown ∧
    (base.fw 2).failed = false ∧ (kget (fwWith 0 0).queues 7).any (fun q => q.owner.val == 0) = true ∧
    ((fwWith 0 0).fw 0).failed = false ∧ ((fwWith 0 0).fw 1).failed = false ∧
    (kget base.spareFrames 4).getD 0 < 1024 ∧ kget base.framesMoved 77 = none ∧ base.framesMoved = [] := by decide +kernel
theorem test_witness_comes_up :
    ¬worn.comesUp (.core 5) ∧ ¬base.comesUp .stor ∧ base.comesUp (.core 5) ∧ base.comesUp (.eth 1) ∧ { base with nvme := [2] }.comesUp .stor := by
  refine ⟨fun h => ?_, fun h => h.2 (by decide +kernel), ⟨by decide +kernel, by decide +kernel⟩, ⟨by decide +kernel, trivial⟩,
    ⟨by decide +kernel, by decide⟩⟩
  have : worn.retired.has (.core 5) = true := by decide +kernel
  exact absurd h.1 (by rw [this]; decide)
/-- A device reached by one port, and a store on its way there. -/
def podStore : State :=
  let s := storing
  { s with routes := [(12, [3])], remotes := [⟨12, true, [0], [⟨0, true, false, .rc⟩], []⟩]
           accs := s.accs.map (fun a => { a with place := .pod 12 0, org := some ⟨0x4000, 0, none, none⟩ }) }
theorem test_witness_link_failure :
    (3 : Fin 64).val ∉ podStore.linksDown ∧
    (match podStore.accs, podStore.remotes with
     | [a], [r] => a.kind == .store && a.stage == .issued && a.place == .pod r.dev.toNat 0 && a.org.isSome && r.dev == 12 && r.up &&
        !routed podStore.routes (3 :: podStore.linksDown) r.dev.toNat && sheafIs podStore a.k (fun _ _ => true)
     | _, _ => false) = true := by decide +kernel

/-! ### Cores are retired; shoot-downs; partitions; budgets -/

/-- A core on its way out, with a shoot-down under way or not. -/
def leaving (shoots : List ShootDown) (noPlace : Bool) : State :=
  let s : State := { base with shoots := shoots }
  s.setCore 1 { s.core 1 with noPlace := noPlace }
/-- A shoot-down that two holders have still to acknowledge. -/
def aShoot (left : List Nat) : ShootDown := ⟨5, 0xFFFF, 0, 0xFFFF, left⟩
theorem test_witness_core_retirement :
    base.gangs.all (fun g => kget base.gangs g.1 == some g.2) = true ∧
    ((let s := base.setCore 1 { base.core 1 with retired := true}; s.core 1).retired = true) ∧
    (base.core 0).retired = false ∧ base.workgroupsOn 0 ≠ [] ∧
    (let s := leaving [aShoot [0, 7]] true
     (s.core 1).retired = false ∧ (s.core 1).noPlace = true ∧ s.workgroupsOn 1 = [] ∧ s.shoots ≠ []) ∧
    (let s := leaving [] true
     (s.core 1).retired = false ∧ (s.core 1).noPlace = true ∧ s.workgroupsOn 1 = [] ∧ s.shoots = [] ∧
      s.gangs.all (fun g => kget s.gangs g.1 == some g.2) = true) ∧
    1 / 104 = (0 : Fin 4).val := by decide +kernel
/-- Shoot-downs and accesses of a holder in their range. -/
def shooting (left : List Nat) (s : State := base) : State :=
  { s with shoots := [aShoot left], tlb := [⟨0, 0xFFFF, 0, 16, 7, 0⟩, ⟨0, 0xFFFF, 5, 16, 7, 0⟩] }
theorem test_witness_shoot_downs :
    [(shooting [0, 7], false), (shooting [0], false), (shooting [7], false), (shooting [0, 7] storing, true)].all (fun p =>
      p.1.shoots.any (fun x => x.id == 5) && decide (p.1.shoots.map (fun y => y.id)).Nodup && p.1.shoots.all (fun y => y.left != []) &&
      p.1.accs.any (fun a => p.1.awaited a (aShoot []) 0) == p.2) = true ∧
    ((shooting [0, 7]).shoots.any (fun x => x.left.contains 0) && (shooting [7]).shoots.all (fun x => !x.left.contains 0)) = true := by
  decide +kernel
/-- The partition 0 with a queue of its own and one it shares, a join of its own and one elsewhere. -/
def resettable : State :=
  let s := bound (some aBinding) (some (anEntry [aMember 2])) (mapped (ported queue joinable))
  { s with parts := [(0, { s.part 0 with cores := [0, 1], gBase := 4, gCount := 2 }), (1, { Partition.reset with stage2 := [(2, 0x7008)] })]
           joins := s.joins ++ [(91, { anEntry [aMember 3] with part := 1 })] }
theorem test_witness_partition_reset :
    decide (resettable.wgs.map (fun p => p.1)).Nodup = true ∧ decide (resettable.sheaves.map (fun p => p.1)).Nodup = true ∧
    decide (resettable.joins.map (fun p => p.1)).Nodup = true ∧ decide (resettable.parts.map (fun p => p.1)).Nodup = true ∧
    (kget resettable.queues 7).isSome = true ∧ resettable.joins.length = 2 ∧ resettable.retired.has (.core 1) = false := by decide +kernel
/-- A queue whose ring lies in a granary of the partition. -/
def ringIn : State :=
  let s := withAllocs [anAlloc 1 .lit 7 0]
  { s with parts := [(0, { Partition.reset with cores := [0, 1] })], queues := [(7, { queue with ring := .gran 0 1 0 })] }
theorem test_witness_ring_reset :
    decide (ringIn.wgs.map (fun p => p.1)).Nodup = true ∧ ringIn.joins = [] ∧ (ringIn.alloc 0 1).isSome = true ∧
    (kget ringIn.queues 7).any (fun q => q.ring == .gran 0 1 0) = true ∧ 0 ∈ (ringIn.part 0).cores := by decide +kernel
/-- Every die may have 24 lit silos a core, but the first, which its temperature holds at 3. -/
def warm : State := base.setDie 0 { base.die 0 with level := 3, limit := 3 }
/-- Every clause of `LevelsFit` with n the level of the package, decidable. -/
def levelsFit (s : State) (watts : Nat) (levels : List Nat) (n : Nat) : Bool :=
  decide (levels.length = 4 ∧ n ∈ levels ∧ 1 ≤ n ∧ n ≤ 24) && levels.all (fun m => decide (m ≤ n)) &&
  (List.range 4).all (fun d => levels[d]? == some (if (s.die d).limit < n then (s.die d).limit else n) &&
    (!decide (watts < s.budget) || levels[d]?.all (fun n => decide (n ≤ (s.die d).level))) &&
    (!decide (s.budget < watts) || levels[d]?.all (fun n => decide ((s.die d).level ≤ n ∨ (s.die d).limit ≤ n))))
theorem levels_fit {s : State} {watts : Nat} {levels : List Nat} {n : Nat} (h : levelsFit s watts levels n = true) :
    s.LevelsFit watts levels := by
  simp only [levelsFit, Bool.and_eq_true, decide_eq_true_eq, List.all_eq_true, List.mem_range, beq_iff_eq] at h
  obtain ⟨⟨⟨h1, h2, h3, h4⟩, h5⟩, h6⟩ := h
  have inRange (d m : Nat) (hd : levels[d]? = some m) : d < 4 := h1 ▸ (List.getElem?_eq_some_iff.mp hd).1
  refine ⟨h1, ⟨n, h2, h3, h4, h5, fun d hd => (h6 d hd).1.1⟩, fun hw d m hd => ?_, fun hw d m hd => ?_⟩
  · have := (h6 d (inRange d m hd)).1.2
    simpa [hw, hd] using this
  · have := (h6 d (inRange d m hd)).2
    simpa [hw, hd] using this
-- As high as the budget; a lower one with the clock lowered till the loss point; the lowest, where one lit silo a core is too much.
theorem test_witness_budgets :
    (levelsFit warm 3400 [3, 24, 24, 24] 24 && levelsFit warm 2000 [3, 7, 7, 7] 7 && levelsFit warm 1100 [1, 1, 1, 1] 1) = true ∧
    (1750 ∈ clocks ∧ 1625 ∈ clocks ∧ 875 ∈ clocks ∧ 750 ∉ clocks) ∧
    (levelAfter (warm.die 1) 7 0).pending ≠ none ∧ (∀ n ∈ [1, 1, 1, 1], n = 1) ∧ (1000 : Nat) < 1100 ∧
    (∀ d, d < 4 → ∀ n, [3, 24, 24, 24][d]? = some n → n ≤ (warm.die d).level) := by decide +kernel

end Sys2Proof.Tests
end

