-- ==== Sys2Proof/Tests/Witness8.lean ====
section
/-! SUPPORT. Concrete states that meet the hypotheses of the statements about firmware hand-over, receipts, reports, counters, samples and
outside observers, one for each clause. -/

namespace Sys2Proof.Tests

-- One test after the other: tests that wait for one another would each hold a thread.
set_option Elab.async false

open Sys2Proof.Machine

/-! ### Hand-over, receipts, reports -/

/-- The firmware as given, a request under way or not. -/
def firm (hold : Bool) (standby : Option (List Byte)) (request : Option Request := none) : State :=
  { base with firmware := { base.firmware with hold := hold, standby := standby }
              parts := [(0, { Partition.reset with request := request })] }
theorem test_witness_handover :
    (firm false none).firmware.hold = false ∧ (firm false none).firmware.standby = none ∧
    (firm false (some [1])).firmware.standby ≠ none ∧ (firm false (some [1])).parts.all (fun p => p.2.request.isNone) = true ∧
    (firm false (some [1]) (some ⟨0, 0, []⟩)).parts.any (fun p => p.2.request.isSome) = true ∧
    (firm true (some [1])).firmware.hold = true ∧ (firm true (some [1])).firmware.standby = some [1] := by decide +kernel

/-- A request block of 176 bytes: no resources, a future to wait for, the output at `out`, `DONE` at `done`. -/
def receiptBlock (waitf out done : Nat) : List Byte := [waitf, out, done].foldl (fun l n => l ++ leBytes 8 n) (leBytes 8 0) ++ List.replicate 144 0
/-- A context in which two joins have been finalised. -/
def aContext : Context :=
  { asid := 0xFFFF, ctxid := 3, chain := List.replicate 64 7, joins := [List.replicate 32 9, List.replicate 40 1], seq := 5, norep := none
    hov := false, logBase := 0, logLen := 0, logSeq := 0 }
/-- The partition's command queue holds one record; memory and the future at 0xF200 as given. -/
def commanding (rec : List Nat) (block : List Byte) (future : Nat := 0) (c : List Context := [aContext]) : State :=
  let m := ((base.mem.write 0x6D000 block).write 0x6F200 (leBytes 8 future)).write 0x100000 (bytesOf rec)
  let s : State := { base with
    mem := m, queues := [(7, queue .opened 1)]
    firmware := { base.firmware with hold := false, fwm := List.replicate 64 3, hfwm := List.replicate 64 4 }
    parts := [(0, { Partition.reset with asid := 0xFFFF, stage2 := [(0, 0x7007)], qCount := 16, contexts := c })] }
  s.cacheLocal (agentVia 0xFFFF) 0
/-- The command at head. -/
def commandIs (s : State) (f : List Word → Bool) : Bool :=
  s.mem.wf && (s.part 0).asid == 0xFFFF && (s.command 0).any (fun x => x.1 == 7 && f x.2.2)
/-- The block is read as it stands. -/
def blockRead (s : State) (ws : List Word) (bs : List Byte) : Bool :=
  s.mem.read 0x6D000 bs.length == bs && s.plainAt 0x6D000 && s.pageFor 0xFFFF 0x60000 (localAddr (pairNo ws 2)) bs.length 0x6D000 .rd
/-- A future word at 0x6F000 may be written while the output is written. -/
def doneFine (s : State) (done : DWord) (len : Nat) : Bool :=
  done.toNat % 8 == 0 && decide (shortAddr done = .plain (shortAddr done).va) && s.pageFor 0xFFFF 0x60000 (shortAddr done).va 8 0x6F000 .wr &&
  s.plainAt 0x6F000 && s.clearOver (.hbm 0x6F000) 8 && (List.range 8).all (fun i => !within 0x60000 len (0x6F000 + i)) &&
  s.mem.dword 0x6F000 == 0
theorem outside_output (len : Nat) : ∀ x, x < 0x60000 → within 0x60000 len x = false := by
  intro x h; simp [within]; omega
theorem test_witness_done {s : State} {done : DWord} {len : Nat} (h : doneFine s done len = true) :
    ∀ u, SameView s u (within 0x60000 len) → u.hwShort 0xFFFF .wr true done 8 = (u, .ok [(.hbm 0x6F000, 8)]) := by
  intro u hu
  simp only [doneFine, Bool.and_eq_true, decide_eq_true_eq] at h
  exact SameView.hwShort hu (outside_output len) h.1.1.1.1.1.2 h.1.1.1.1.2
theorem test_witness_output {s : State} {p : DWord} {len : Nat} (h : s.pageFor 0xFFFF 0x60000 (p.setWidth 80) len 0x60000 .wr = true) :
    ∀ u, SameView s u (fun _ => false) → u.hwRange 0xFFFF .wr (p.setWidth 80) len = (u, .ok [(.hbm 0x60000, len)]) :=
  fun _ hu => SameView.hwRange hu (fun _ _ => rfl) h
theorem test_witness_command_rejected :
    commandIs (commanding [0, 0x12] []) (fun ws => !commandOk ws && wordNo ws 1 != 0x10) = true ∧
    commandIs (commanding [0, 0x10, 0xD000] (receiptBlock 0 0 0xF004)) (fun ws => commandOk ws && wordNo ws 1 == 0x10 &&
      blockRead (commanding [0, 0x10, 0xD000] (receiptBlock 0 0 0xF004)) ws (receiptBlock 0 0 0xF004) &&
      (fieldAt (receiptBlock 0 0 0xF004) 0x18).toNat % 8 != 0) = true := by decide +kernel
/-- The clauses of a receipt's service: the fault of its check, its future. -/
def receiptIs (waitf out future : Nat) (fault : Option Nat) : Bool :=
  let bs := receiptBlock waitf out 0xF000
  let s := commanding [0, 0x10, 0xD000] bs future
  let len := (receiptOf s aContext bs [] aContext.chain).length + 49856
  commandIs s (fun ws => commandOk ws && wordNo ws 1 == 0x10 && bs.length == 176 && blockRead s ws bs && doneFine s (fieldAt bs 0x18) len &&
    s.context 0 0xFFFF == some aContext && receiptFault (pairNo ws 2) bs == fault && (fieldAt bs 0).toNat % 2 ^ 16 == 0 &&
    (fault.isSome || (s.pageFor 0xFFFF 0x60000 ((fieldAt bs 0x10).setWidth 80) len 0x60000 .wr && s.plainAt 0x60000 &&
      s.clearOver (.hbm 0x60000) len)) &&
    (waitf == 0 || (s.pageFor 0xFFFF 0x60000 (shortAddr (fieldAt bs 8)).va 8 0x6F200 .rd && s.plainAt 0x6F200 &&
      decide (shortAddr (fieldAt bs 8) = .plain (shortAddr (fieldAt bs 8)).va) && (s.mem.dword 0x6F200).toNat == future)))
theorem test_witness_receipts :
    (receiptIs 0 0x20 0 (some 0x07) && receiptIs 0 0 0 none && receiptIs 0xF200 0 0 none && receiptIs 0xF200 0 5 none &&
     receiptIs 0xF200 0 0x156 none && receiptIs 0xF200 0 7 none) = true := by decide +kernel
theorem test_witness_receipt_resumed :
    [0, 0x156, 5].all (fun future =>
      let bs := receiptBlock 0xF200 0 0xF000
      let s0 := commanding [] bs future
      let s := s0.setPart 0 { s0.part 0 with request := some ⟨0xD000, 0xFFFF, bs⟩ }
      let len := (receiptOf s aContext bs [] aContext.chain).length + 49856
      (s.part 0).request == some ⟨0xD000, 0xFFFF, bs⟩ && fieldAt bs 8 != 0 && s.plainAt 0x6F200 && s.mem.wf &&
      decide (shortAddr (fieldAt bs 8) = .plain (shortAddr (fieldAt bs 8)).va) &&
      s.pageFor 0xFFFF 0x60000 (shortAddr (fieldAt bs 8)).va 8 0x6F200 .rd && (s.mem.dword 0x6F200).toNat == future &&
      doneFine s (fieldAt bs 0x18) len && (fieldAt bs 0).toNat % 2 ^ 16 == 0 && s.context 0 0xFFFF == some aContext &&
      s.pageFor 0xFFFF 0x60000 ((fieldAt bs 0x10).setWidth 80) len 0x60000 .wr && s.plainAt 0x60000 && s.clearOver (.hbm 0x60000) len &&
      decide (0x60000 + len ≤ 0x6F000)) = true := by decide +kernel
theorem test_witness_attestation :
    (let bs := leBytes 8 0 ++ leBytes 8 0xF000 ++ List.replicate 32 5
     let s := commanding [0, 0x11, 0xD000] bs
     let len := 0xD0 + 49856
     commandIs s (fun ws => commandOk ws && wordNo ws 1 == 0x11 && bs.length == 48 && blockRead s ws bs && s.firmware.fwm.length == 64 &&
       s.firmware.hfwm.length == 64 && doneFine s (fieldAt bs 8) len && decide (0x60000 + len ≤ 0x6F000) &&
       s.pageFor 0xFFFF 0x60000 ((fieldAt bs 0).setWidth 80) len 0x60000 .wr && s.plainAt 0x60000 && s.clearOver (.hbm 0x60000) len)) = true := by
  decide +kernel
theorem test_witness_code_object :
    [[aContext], []].all (fun cs =>
      let obj := [1, 2, 3, 4]
      let s := commanding [] obj 0 cs
      !s.firmware.hold && s.mem.read 0x6D000 4 == obj && s.plainAt 0x6D000 && s.pageFor 0xFFFF 0x60000 (localAddr 0xD000) 4 0x6D000 .rd &&
      s.context 0 0xFFFF == cs.head?) = true := by decide +kernel

/-- Nothing lies there in the address space of 7, so the object cannot be read. -/
theorem test_witness_code_unreadable :
    (let s := commanding [] []
     !s.firmware.hold && (match s.hwBytes 7 0xD000 4 with | (t, .error _) => t == s | _ => false)) = true := by decide +kernel

/-! ### Counters and samples -/

/-- A counter page in mode 1, event 3 allowed. -/
def counting (mode : Bool) : State := base.setPart 0 { Partition.reset with mode1 := mode, allowed := [3] }
theorem test_witness_counters :
    [false, true].all (fun mode => (((counting mode).part 0).slots.length == 16) && decide (((counting mode).part 0).plog2 < 32) &&
      decide (((counting mode).part 0).rlog2 < 32) &&
      (((counting mode).part 0).mode1 && !((counting mode).part 0).allowed.contains ((5 : Word).extractLsb' 0 12)) == mode &&
      !(((counting mode).part 0).mode1 && !((counting mode).part 0).allowed.contains ((3 : Word).extractLsb' 0 12))) = true := by decide +kernel
/-- The partition samples into a ring at the data page. -/
def sampling (head : DWord) : State :=
  let s : State := { base with
    cycle := 4096, parts := [(0, { Partition.reset with asid := 0xFFFF, son := true, cores := [0], rbase := 0, rhead := head })] }
  s.cacheLocal (agentVia 0xFFFF) 0
/-- The scheduler of the sheaf. -/
def itsScheduler (s : State) : Fin 4 := match s.sheaf 0 with | some sh => Fin.ofNat 4 sh.slot | none => 0
/-- The sheaf of the smallest program. -/
def itsSheaf (s : State) : Sheaf := (s.sheaf 0).getD (ctxOf s).sh
theorem test_witness_rotation : NextInRotation (sampling 0) 0 (itsScheduler (sampling 0)) 0 (itsSheaf (sampling 0)) := by
  unfold NextInRotation
  decide +kernel
theorem test_witness_rotation_full : NextInRotation (sampling 128) 0 (itsScheduler (sampling 128)) 0 (itsSheaf (sampling 128)) := by
  unfold NextInRotation
  decide +kernel
theorem test_witness_samples :
    [(0 : DWord), 128].all (fun head =>
      let s := sampling head
      let p := s.part 0
      p.son && p.cores.contains 0 && decide (lget 0 (s.core 0).sampled (itsScheduler s).val + 2 ^ p.plog2 ≤ s.cycle) && sheafIs s 0 (fun sh _ => sh.ctl.splits.all (fun x => decide (x.stall < 24))) &&
      decide (s.sheaves.map (fun x => x.1)).Nodup && ((p.rhead - p.rtail).toNat == 2 ^ p.rlog2) == (head == 128) && p.rbase.toNat % 4096 == 0 &&
      s.pageFor p.asid 0x60000 ((p.rbase + BitVec.ofNat 64 (p.rhead.toNat % 2 ^ p.rlog2 * 32)).setWidth 80) 32 0x60000 .wr &&
      s.clearOver (.hbm 0x60000) 32 && s.plainAt 0x60000) = true ∧
    (base.part 0).son = false ∧ (sampling 0).cycle = 4096 ∧ (sampling 0).scheduled 0 (itsScheduler (sampling 0) + 1) = [] ∧
    lget 0 ((sampling 0).core 0).sampled (itsScheduler (sampling 0) + 1).val + 2 ^ ((sampling 0).part 0).plog2 ≤ 4096 := by decide +kernel

/-! ### Outside observers -/

/-- An agent that has the translation observes a page. -/
theorem observed_of {s : State} {asid : BitVec 16} {a : Access} {va : Addr} {n pb : Nat}
    (h : s.pageFor asid 0x60000 va n pb a = true) (h1 : s.clearOver (.hbm pb) n = true) (h2 : s.plainAt pb = true) :
    s.observed asid a va n pb :=
  ⟨SameView.hwRange ⟨rfl, rfl, rfl, rfl, rfl, rfl, fun _ => rfl, fun _ _ => rfl⟩ (fun _ _ => rfl : ∀ x, x < 0x60000 → (fun _ => false) x = false) h,
    h1, h2⟩
/-- Everything that brings accesses is there: a partition of process 7, device 12, a storage controller; a push window at 0x60200. -/
def outside : State :=
  let s : State := { base with parts := [(0, { Partition.reset with asid := 0xFFFF, pid := 7 })], remotes := [⟨12, true, [], [], []⟩], nvme := [2]
                               windows := [⟨3, 2, 0x60200, List.replicate 64 1, 3⟩] }
  s.cacheLocal (agentVia 0xFFFF) 0
theorem test_witness_brings :
    Brings outside (.applicationCoreAccess 3 0xFFFF 0x100 (.load 4)) 0xFFFF 0x100 (.load 4) ∧
    Brings outside (.rdmaOperation 1 0xFFFF 0x100 (.amo .add true 5)) 0xFFFF 0x100 (.amo .add true 5) ∧
    Brings outside (.nvmeDma 2 0xFFFF 0x100 (.store [1, 2])) 0xFFFF 0x100 (.store [1, 2]) ∧
    Brings outside (.podRequestArrival 12 7 0x100 (.cas false 1 2)) (outside.part 0).asid (((0x100 : Addr).setWidth 66).setWidth 80)
      (.cas false 1 2) ∧
    (outside.part 0).asid = 0xFFFF ∧ (((0x100 : Addr).setWidth 66).setWidth 80 : Addr) = 0x100 :=
  ⟨.app 3 _ _ _ (by decide +kernel) (fun _ => nofun) (fun _ _ => nofun), .rdma 1 _ _ _ (by decide +kernel) (.inr (.inr (.inl ⟨5, rfl⟩))),
    .nvme 2 _ _ _ (by decide +kernel) (.inr ⟨[1, 2], rfl⟩), .pod 12 7 0x100 _ 0 (outside.part 0) ⟨12, true, [], [], []⟩
      (by decide +kernel) (by decide +kernel) rfl rfl, by decide +kernel, by decide⟩
theorem test_witness_observed : outside.observed 0xFFFF .rd 0x100 4 0x60100 ∧ outside.observed 0xFFFF .wr 0x100 2 0x60100 ∧
    outside.observed 0xFFFF .wr 0x100 8 0x60100 ∧ outside.observed 0xFFFF .wr 0x100 4 0x60100 :=
  ⟨observed_of (by decide +kernel) (by decide +kernel) (by decide +kernel), observed_of (by decide +kernel) (by decide +kernel) (by decide +kernel),
    observed_of (by decide +kernel) (by decide +kernel) (by decide +kernel), observed_of (by decide +kernel) (by decide +kernel) (by decide +kernel)⟩
theorem test_witness_bell :
    outside.hwRange 0xFFFF .wr 0x240 8 = (outside, .ok [(.hbm (0x60200 + 0x40), 8)]) ∧ outside.ctrAt (0x60200 + 0x40) = none ∧
    outside.windows.find? (fun x => decide (x.page ≤ 0x60200 + 0x40 ∧ 0x60200 + 0x40 < x.page + 128)) = some ⟨3, 2, 0x60200, List.replicate 64 1, 3⟩ ∧
    outside.clearOver (.hbm (0x60200 + 0x40)) 8 = true ∧ outside.windows.length = 1 ∧ outside.mem.wf = true ∧
    outside.windows.all (fun x => x.stage.length == 64) = true :=
  ⟨SameView.hwRange ⟨rfl, rfl, rfl, rfl, rfl, rfl, fun _ => rfl, fun _ _ => rfl⟩ (fun _ _ => rfl : ∀ x, x < 0x60000 → (fun _ => false) x = false)
    (by decide +kernel), by decide +kernel⟩
/-- Application core 3 holds the word at 0x60100 or another, or none. -/
def reserved (r : List (Nat × (Place × Nat))) : State := { outside with appHeld := r }
theorem test_witness_reservations :
    (3 : Fin 16).val ∉ outside.appDown ∧ (0x102 : Addr).toNat % 4 ≠ 0 ∧ (0x100 : Addr).toNat % 8 = 0 ∧
    kget (reserved [(3, .hbm 0x60100, 4)]).appHeld (3 : Fin 16).val = some (.hbm 0x60100, 4) ∧
    [[], [(3, Place.hbm 0x60104, 4)]].all (fun r => kget (reserved r).appHeld (3 : Fin 16).val != some (.hbm 0x60100, 4)) = true := by
  decide +kernel
theorem test_witness_reserved_observed :
    (reserved [(3, .hbm 0x60100, 4)]).observed 0xFFFF .wr 0x100 4 0x60100 ∧ (reserved []).observed 0xFFFF .wr 0x100 8 0x60100 :=
  ⟨observed_of (by decide +kernel) (by decide +kernel) (by decide +kernel), observed_of (by decide +kernel) (by decide +kernel) (by decide +kernel)⟩
/-- A completion of Ethernet port 1 with so many data writes to come. -/
def completing (left : Nat) : State := { outside with completions := [(16 * 5 + 1, left)] }
theorem test_witness_completions :
    AtPort outside (.rdmaOperation 1 0xFFFF 0x100 (.announce 5 2)) (1 : Fin 2).val 0xFFFF 0x100 (.announce 5 2) ∧
    AtPort outside (.nvmeDma 2 0xFFFF 0x100 (.data 5 [1])) (2 + (2 : Fin 8).val) 0xFFFF 0x100 (.data 5 [1]) ∧
    kget outside.completions (16 * 5 + 1) = none ∧ kget (completing 0).completions (16 * 5 + 1) = some 0 ∧
    kget (completing 2).completions (16 * 5 + 1) = some (1 + 1) ∧
    (completing 2).observed 0xFFFF .wr 0x100 4 0x60100 ∧ (completing 0).observed 0xFFFF .wr 0x100 4 0x60100 :=
  ⟨.rdma 1 _ _ _ (by decide +kernel), .nvme 2 _ _ _ (by decide +kernel), by decide +kernel, by decide +kernel, by decide +kernel,
    observed_of (by decide +kernel) (by decide +kernel) (by decide +kernel), observed_of (by decide +kernel) (by decide +kernel) (by decide +kernel)⟩
theorem test_witness_not_there :
    (3 : Fin 16).val ∈ ({ base with appDown := [3] } : State).appDown ∧ (2 : Fin 8).val ∉ base.nvme ∧
    lget 1 ({ base with ethDown := [1], ethFor := [0, 1] } : State).ethFor 1 ∈ ({ base with ethDown := [1], ethFor := [0, 1] } : State).ethDown ∧
    (outside.parts.all (fun x => x.2.pid != 8)) = true ∧ (0x101 : Addr).toNat % 4 ≠ 0 := by decide +kernel

end Sys2Proof.Tests
end

section
/-! SUPPORT. What `laneAlu` does where its form names queue ports (06 R105), and with it: an instruction that is `laneAlu` completes as
its form says. -/

namespace Sys2Proof.Machine

/-! ### Lanes by their rank among those that complete -/

theorem lget_eq_getD {α : Type} (d : α) (l : List α) (i : Nat) : lget d l i = l.getD i d := by
  induction l generalizing i with
  | nil => rfl
  | cons x l ih => cases i <;> simp [lget, ih]

/-- In a list of distinct lanes, a position is the lane's rank. -/
theorem mapIdxFrom_eq_map_idxOf {β : Type} (g : Nat → Nat → β) (n : Nat) (ls : List Nat) (hn : ls.Nodup) :
    mapIdxFrom g n ls = ls.map (fun l => g (n + ls.idxOf l) l) := by
  apply List.ext_getElem?
  intro i
  rw [getElem?_mapIdxFrom, List.getElem?_map]
  by_cases hi : i < ls.length
  · simp [hi, hn.idxOf_getElem]
  · simp [hi]

/-- Distinct lanes changed by a function of the rank and the lane, whichever sheaf stands there. -/
theorem modLanes_eq_modSheaf (s : State) (k : Nat) (ls : List Nat) (f : Nat → Nat → Lane → Lane) (hn : ls.Nodup) :
    s.modLanes k ls f = s.modSheaf k (fun sh => { sh with
      lanes := mapIdxFrom (fun l ln => if l ∈ ls then f (ls.idxOf l) l ln else ln) 0 sh.lanes }) := by
  unfold State.modLanes
  congr 1
  funext sh
  congr 1
  apply List.ext_getElem?
  intro j
  rw [foldl_lmod f _ _ _ (by rwa [mapIdxFrom_rank_lane]), getElem?_mapIdxFrom, Nat.zero_add]
  have hfound := find?_rank_lane ls 0 j
  cases hp : (mapIdxFrom (fun rank l => (rank, l)) 0 ls).find? (fun p => p.2 == j) with
  | none =>
    have hj : j ∉ ls := by simpa [hp] using hfound
    simp [hj]
  | some p =>
    have hj : j ∈ ls := by simpa [hp] using hfound
    have hlane : p.2 = j := by simpa using List.find?_some hp
    have hrank : p.1 = ls.idxOf j := by
      have hmem := List.mem_of_find?_eq_some hp
      rw [mapIdxFrom_eq_map_idxOf _ _ _ hn] at hmem
      obtain ⟨l, -, rfl⟩ := List.mem_map.mp hmem
      simp [← hlane]
    simp [hj, hlane, hrank]

/-! ### Words popped -/

theorem popFields_length (s : State) (k n : Nat) (us : List SrcUse) : (s.popFields k n us).1.length = us.length := by
  induction us generalizing s with
  | nil => rfl
  | cons u us ih => cases hu : u.src.reg.port <;> simp [State.popFields, hu, ih]

/-- The values of a lane's sources, a port field's among them the word popped for the lane's rank. -/
theorem laneValues_popped (r : LaneForm) (s : State) (c : Ctx) (lane rank : Nat) (ps : List (List Word))
    (hp : ps.length = r.srcs.length) :
    (laneValues s.free c.sh lane rank r.srcs ps).map wordsVal = r.readsPopped s c lane rank ps := by
  obtain ⟨d, words, us, val⟩ := r
  induction us generalizing ps with
  | nil => rfl
  | cons u us ih =>
    obtain ⟨p, ps, rfl⟩ := List.exists_cons_of_length_eq_add_one hp
    have hrest := ih ps (by simpa using hp)
    simp only [LaneForm.readsPopped] at hrest ⊢
    cases hu : u.src.reg.port <;> simp [laneValues, hu, hrest, wordsVal, lget_eq_getD]

/-! ### The operation -/

theorem valWords_headD (n : Nat) (v : DWord) : (((valWords n v).map Entry.val!).headD Entry.dead).val = v.lo := by
  unfold valWords
  split <;> rfl

/-- What `laneAlu` does outside `.strict` where its form's ports are open and ready: the words come field by field, every active
lane's destination takes the form's value, and a port destination takes a word from each lane. -/
theorem laneAlu_ported {s : State} {c : Ctx} (r : LaneForm) (f : List DWord → DWord) (h : s.ctx = some c)
    (hb : r.beyond c.sh.named = none) (hs : c.sh.strict = false)
    (hf : (r.ports (maskLanes c.active).length).findSome? (s.portFault c.sh (r.ports (maskLanes c.active).length)) = none)
    (hn : s.portsReady (s.portNeeds c.sh (r.ports (maskLanes c.active).length)) = true)
    (hv : ∀ vs : List DWord, vs.length = r.srcs.length → f vs = r.val vs) :
    laneAlu s r.srcs r.dst r.words f = .next (r.ported s c) := by
  have hdead : ∀ l, deadField s.free c.sh l r.srcs = none := fun l => by simp [deadField, hs]
  have hlive : (maskLanes c.active).filter (fun l => (deadField s.free c.sh l r.srcs).isNone) = maskLanes c.active :=
    List.filter_eq_self.mpr fun l _ => by rw [hdead, Option.isNone_none]
  have hsift : ∀ g : Nat → Nat → List (List Word), siftLanes (fun l rank => laneFault s c.sh r.srcs l (noExtra c.sh l (g l rank))) 0
      (maskLanes c.active) = (maskLanes c.active, []) :=
    fun g => siftLanes_none _ _ _ (fun l _ _ => by simp [laneFault, hdead, noExtra])
  have hports : ∀ n, lanePorts r.srcs r.dst n = r.ports n := fun n => by
    cases hd : r.dst.port <;> simp [lanePorts, LaneForm.ports, hd]
  have hval : ∀ rank l, f ((laneValues s.free c.sh l rank r.srcs (s.popFields c.k (maskLanes c.active).length r.srcs).1).map wordsVal) =
      r.val (r.readsPopped s c l rank (s.popFields c.k (maskLanes c.active).length r.srcs).1) := fun rank l => by
    have hread := laneValues_popped r s c l rank _ (popFields_length s c.k (maskLanes c.active).length r.srcs)
    rw [hread, hv _ (by simp [LaneForm.readsPopped, popFields_length])]
  have hnodup := maskLanes_nodup c.active
  unfold laneAlu laneOp
  rw [issue_some _ h, checkNamed_within _ _ _ _ (beyond_none hb)]
  simp only [hlive, hsift, hports, hf, hn, List.isEmpty_nil, Bool.not_true, Bool.false_and,
    Bool.false_eq_true, if_false, hval, valWords_headD, modLanes_eq_modSheaf _ _ _ _ hnodup, mapIdxFrom_eq_map_idxOf _ _ _ hnodup,
    mem_maskLanes, Nat.zero_add, State.raiseSome]
  rfl

/-- An instruction that is `laneAlu` of a form's operands, with the form's value, completes as the form says. -/
theorem completesAs_of_laneAlu {i : Instr} {r : LaneForm} (f : List DWord → DWord)
    (hi : ∀ s, exec i s = laneAlu s r.srcs r.dst r.words f)
    (hv : ∀ vs : List DWord, vs.length = r.srcs.length → f vs = r.val vs) : CompletesAs i r := by
  intro s c h
  rw [hi s]
  constructor
  · intro hr
    exact laneAlu_form r f h hr (fun l => hv _ (by simp [LaneForm.reads]))
  · intro _ hb hs hf hn
    exact laneAlu_ported r f h hb hs hf hn hv

end Sys2Proof.Machine
end

section
/-! SUPPORT. Words of the lane set's logic, comparison and selection cells (02 R24, R30, R36): what an accepted one says. -/

namespace Sys2Proof

/-! ### Forms: an accepted word is of the cell's constructor -/

theorem ok_of_bind_ok {α β : Type} {x : Except Reject α} {f : α → Except Reject β} {y : β} (h : (x >>= f) = .ok y) :
    ∃ a, x = .ok a ∧ f a = .ok y := by
  cases x with
  | error e => cases h
  | ok a => exact ⟨a, rfl, h⟩

theorem of_need_bind_ok {β : Type} {p : Bool} {f : Unit → Except Reject β} {y : β} (h : (need p >>= f) = .ok y) :
    p = true ∧ f () = .ok y := by
  cases p with
  | false => cases h
  | true => exact ⟨rfl, h⟩

theorem rForm_ok {f : FR} {wd wa wb : Bool} {k : LDst → LSrc → LSrc → Instr} {i : Instr} (h : rForm f wd wa wb k = .ok i) :
    ∃ d a b, i = k d a b := by
  obtain ⟨d, -, h⟩ := ok_of_bind_ok h
  obtain ⟨a, -, h⟩ := ok_of_bind_ok h
  obtain ⟨b, -, h⟩ := ok_of_bind_ok h
  exact ⟨d, a, b, (Except.ok.inj h).symm⟩

theorem iForm_ok {w : Word} {w64 : Bool} {k : LDst → LSrc → BitVec 11 → Instr} {i : Instr} (h : iForm w w64 k = .ok i) :
    ∃ d a, i = k d a (w.extractLsb' 0 11) := by
  obtain ⟨d, -, h⟩ := ok_of_bind_ok h
  obtain ⟨a, -, h⟩ := ok_of_bind_ok h
  exact ⟨d, a, (Except.ok.inj h).symm⟩

theorem tForm_ok {f : FT} {w64 : Bool} {k : LSrc → LSrc → LSrc → Instr} {i : Instr} (h : tForm f w64 k = .ok i) :
    ∃ a b c, i = k a b c := by
  obtain ⟨a, -, h⟩ := ok_of_bind_ok h
  obtain ⟨b, -, h⟩ := ok_of_bind_ok h
  obtain ⟨c, -, h⟩ := ok_of_bind_ok h
  exact ⟨a, b, c, (Except.ok.inj h).symm⟩

/-! ### Cells -/

/-- A word whose high byte has bit 7 clear is of the lane set, and the other bits are its cell. -/
theorem decode_of_lane_cell {w : Word} {cell : BitVec 7} {e : Except Reject Instr} (h : w.extractLsb' 24 8 = cell.setWidth 8)
    (he : bits w 24 7 = cell → decodeLane w = e) : decode w = e := by
  have hbit : ∀ j (_ : j < 8), w.getLsbD (24 + j) = cell.getLsbD j := fun j hj => by
    simpa [hj] using congrArg (fun x : BitVec 8 => x.getLsbD j) h
  have hset : w.getLsbD 31 = false := by simpa using hbit 7 (by omega)
  have hcell : bits w 24 7 = cell := BitVec.eq_of_getLsbD_eq fun j hj => by simpa [hj] using hbit j (by omega)
  rw [← he hcell, decode, hset]
  rfl

theorem sub_low (w : Word) : (FR.of w).sub.extractLsb' 0 3 = w.extractLsb' 0 3 := by
  ext j hj
  simp [FR.of]

theorem sub_width (w : Word) : (FR.of w).sub.getLsbD 3 = w.getLsbD 3 := by
  simp [FR.of]

/-- A logic cell of two sources (R61): bits [2:0] are 0, and bit [3] is the width of every operand. -/
def logicCell (w : Word) (k : Bool → LDst → LSrc → LSrc → Instr) : Except Reject Instr := do
  need (w.extractLsb' 0 3 == 0)
  rForm (FR.of w) (w.getLsbD 3) (w.getLsbD 3) (w.getLsbD 3) (k (w.getLsbD 3))

/-- A comparison cell (R65): bits [2:0] are the relation, and bit [3] is the width of the sources. -/
def compareCell (w : Word) (k : Rel → Bool → LDst → LSrc → LSrc → Instr) : Except Reject Instr := do
  let r ← assigned (Rel.ofBits (w.extractLsb' 0 3))
  rForm (FR.of w) false (w.getLsbD 3) (w.getLsbD 3) (k r (w.getLsbD 3))

/-- The cell of `sel` (R66): modifier 0. -/
def selectCell (w : Word) : Except Reject Instr := do
  need (w.extractLsb' 0 3 == 0)
  tForm (FT.of w) false .sel

section
variable {w : Word}

theorem decode_andR (h : w.extractLsb' 24 8 = 0x0C) : decode w = logicCell w .andR :=
  decode_of_lane_cell (cell := 0x0C) h fun hc => by simp only [decodeLane, hc, sub_low, sub_width]; rfl

theorem decode_orR (h : w.extractLsb' 24 8 = 0x0D) : decode w = logicCell w .orR :=
  decode_of_lane_cell (cell := 0x0D) h fun hc => by simp only [decodeLane, hc, sub_low, sub_width]; rfl

theorem decode_xorR (h : w.extractLsb' 24 8 = 0x0E) : decode w = logicCell w .xorR :=
  decode_of_lane_cell (cell := 0x0E) h fun hc => by simp only [decodeLane, hc, sub_low, sub_width]; rfl

theorem decode_andI (h : w.extractLsb' 24 8 = 0x0F) : decode w = iForm w false .andI :=
  decode_of_lane_cell (cell := 0x0F) h fun hc => by simp only [decodeLane, hc]; rfl

theorem decode_orI (h : w.extractLsb' 24 8 = 0x10) : decode w = iForm w false .orI :=
  decode_of_lane_cell (cell := 0x10) h fun hc => by simp only [decodeLane, hc]; rfl

theorem decode_xorI (h : w.extractLsb' 24 8 = 0x11) : decode w = iForm w false .xorI :=
  decode_of_lane_cell (cell := 0x11) h fun hc => by simp only [decodeLane, hc]; rfl

theorem decode_cmpSigned (h : w.extractLsb' 24 8 = 0x0B) : decode w = compareCell w .cmpSigned :=
  decode_of_lane_cell (cell := 0x0B) h fun hc => by simp only [decodeLane, hc, sub_low, sub_width]; rfl

theorem decode_cmpUnsigned (h : w.extractLsb' 24 8 = 0x1B) : decode w = compareCell w .cmpUnsigned :=
  decode_of_lane_cell (cell := 0x1B) h fun hc => by simp only [decodeLane, hc, sub_low, sub_width]; rfl

theorem decode_sel (h : w.extractLsb' 24 8 = 0x1C) : decode w = selectCell w :=
  decode_of_lane_cell (cell := 0x1C) h fun hc => by simp only [decodeLane, hc]; rfl

/-! ### What an accepted word says -/

theorem logicCell_ok {k : Bool → LDst → LSrc → LSrc → Instr} {i : Instr} (h : logicCell w k = .ok i) :
    w.extractLsb' 0 3 = 0 ∧ ∃ d a b, i = k (w.getLsbD 3) d a b := by
  obtain ⟨hz, h⟩ := of_need_bind_ok h
  exact ⟨eq_of_beq hz, rForm_ok h⟩

theorem selectCell_ok {i : Instr} (h : selectCell w = .ok i) : w.extractLsb' 0 3 = 0 ∧ ∃ c a b, i = .sel c a b := by
  obtain ⟨hz, h⟩ := of_need_bind_ok h
  exact ⟨eq_of_beq hz, tForm_ok h⟩

theorem Rel.ofBits_eq (c : BitVec 3) : Rel.ofBits c = ([Rel.eq, .ne, .lt, .le, .gt, .ge])[c.toNat]? := by
  revert c
  decide

theorem compareCell_ok {k : Rel → Bool → LDst → LSrc → LSrc → Instr} {i : Instr} (h : compareCell w k = .ok i) :
    ∃ r d a b, ([Rel.eq, .ne, .lt, .le, .gt, .ge])[(w.extractLsb' 0 3).toNat]? = some r ∧ i = k r (w.getLsbD 3) d a b := by
  obtain ⟨r, hr, h⟩ := ok_of_bind_ok h
  obtain ⟨d, a, b, rfl⟩ := rForm_ok h
  refine ⟨r, d, a, b, ?_, rfl⟩
  rw [← Rel.ofBits_eq]
  cases ho : Rel.ofBits (w.extractLsb' 0 3) with
  | none => rw [ho] at hr; cases hr
  | some r' => rw [ho] at hr; rw [Except.ok.inj hr]

/-- Codes 6 and 7 are reserved (R65). -/
theorem compareCell_reserved (k : Rel → Bool → LDst → LSrc → LSrc → Instr) (h : 6 ≤ (w.extractLsb' 0 3).toNat) :
    compareCell w k = .error .illegal := by
  have hr : Rel.ofBits (w.extractLsb' 0 3) = none := by rw [Rel.ofBits_eq]; exact List.getElem?_eq_none h
  rw [compareCell, hr]
  rfl

end

end Sys2Proof
end

section
/-! SUPPORT. The logic, comparison and selection instructions as forms (04 R61, R65, R66). -/

namespace Sys2Proof.Machine

/-! ### Values of one, two and three sources -/

theorem un_eq_getD (f : DWord → DWord) {vs : List DWord} (h : vs.length = 1) : un f vs = f (vs.getD 0 0) := by
  match vs, h with
  | [_], _ => rfl

theorem bin_eq_getD (f : DWord → DWord → DWord) {vs : List DWord} (h : vs.length = 2) :
    bin f vs = f (vs.getD 0 0) (vs.getD 1 0) := by
  match vs, h with
  | [_, _], _ => rfl

theorem tri_eq_getD (f : DWord → DWord → DWord → DWord) {vs : List DWord} (h : vs.length = 3) :
    tri f vs = f (vs.getD 0 0) (vs.getD 1 0) (vs.getD 2 0) := by
  match vs, h with
  | [_, _, _], _ => rfl

section
variable {i : Instr} {w64 : Bool} {d : LDst} {words : Nat} {a b : LSrc}

theorem completesAs_one {f : DWord → DWord} (hi : ∀ s, exec i s = laneAlu s [⟨2, a, wide w64⟩] d words (un f)) :
    CompletesAs i (.one w64 d words a f) :=
  completesAs_of_laneAlu (un f) hi fun _ h => un_eq_getD f h

theorem completesAs_two {f : DWord → DWord → DWord} (hi : ∀ s, exec i s = laneAlu s (src2 w64 a b) d words (bin f)) :
    CompletesAs i (.two w64 d words a b f) :=
  completesAs_of_laneAlu (bin f) hi fun _ h => bin_eq_getD f h

end

/-! ### Logic (R61) -/

/-- Bit n of an immediate sign-extended to 32 bits. -/
theorem getLsbD_signExtended (imm : BitVec 11) {n : Nat} (h : n < 32) :
    ((imm.signExtend 32).setWidth 64).getLsbD n = imm.getLsbD (min n 10) := by
  rw [BitVec.getLsbD_setWidth, BitVec.getLsbD_signExtend, BitVec.msb_eq_getLsbD_last]
  have h64 : n < 64 := by omega
  by_cases hn : n < 11
  · have : min n 10 = n := by omega
    simp [h, h64, hn, this]
  · have : min n 10 = 10 := by omega
    simp [h, h64, hn, this]

theorem andR_completes (w64 : Bool) (d : LDst) (a b : LSrc) :
    CompletesAs (.andR w64 d a b) (.two w64 d (regsOf w64) a b (fun x y => x &&& y)) :=
  completesAs_two fun _ => rfl

theorem orR_completes (w64 : Bool) (d : LDst) (a b : LSrc) :
    CompletesAs (.orR w64 d a b) (.two w64 d (regsOf w64) a b (fun x y => x ||| y)) :=
  completesAs_two fun _ => rfl

theorem xorR_completes (w64 : Bool) (d : LDst) (a b : LSrc) :
    CompletesAs (.xorR w64 d a b) (.two w64 d (regsOf w64) a b (fun x y => x ^^^ y)) :=
  completesAs_two fun _ => rfl

theorem andI_completes (d : LDst) (a : LSrc) (imm : BitVec 11) :
    CompletesAs (.andI d a imm) (.one false d 1 a (fun x => x &&& (imm.signExtend 32).setWidth 64)) :=
  completesAs_one fun _ => rfl

theorem orI_completes (d : LDst) (a : LSrc) (imm : BitVec 11) :
    CompletesAs (.orI d a imm) (.one false d 1 a (fun x => x ||| (imm.signExtend 32).setWidth 64)) :=
  completesAs_one fun _ => rfl

theorem xorI_completes (d : LDst) (a : LSrc) (imm : BitVec 11) :
    CompletesAs (.xorI d a imm) (.one false d 1 a (fun x => x ^^^ (imm.signExtend 32).setWidth 64)) :=
  completesAs_one fun _ => rfl

/-! ### Comparison (R65) -/

theorem cmp_completes (uns w64 : Bool) (r : Rel) (d : LDst) (a b : LSrc) :
    CompletesAs (if uns then .cmpUnsigned r w64 d a b else .cmpSigned r w64 d a b)
      (.two w64 d 1 a b (fun x y => bitVal (relHolds r (intVal ⟨w64, uns⟩ x) (intVal ⟨w64, uns⟩ y)))) := by
  cases uns
  · exact completesAs_two fun _ => rfl
  · exact completesAs_two fun _ => rfl

/-- Two values of a width are equal as signed integers exactly where they are as unsigned ones. -/
theorem intVal_signed_eq_iff (w64 : Bool) (x y : DWord) :
    intVal ⟨w64, false⟩ x = intVal ⟨w64, false⟩ y ↔ intVal ⟨w64, true⟩ x = intVal ⟨w64, true⟩ y := by
  cases w64
  · simp only [intVal, BitVec.toInt_inj, Int.natCast_inj, BitVec.toNat_inj]
  · simp only [intVal, BitVec.toInt_inj, Int.natCast_inj, BitVec.toNat_inj]

theorem relHolds_signed_eq_unsigned {r : Rel} (h : r = .eq ∨ r = .ne) (w64 : Bool) (x y : DWord) :
    relHolds r (intVal ⟨w64, false⟩ x) (intVal ⟨w64, false⟩ y) = relHolds r (intVal ⟨w64, true⟩ x) (intVal ⟨w64, true⟩ y) := by
  have hbeq : (intVal ⟨w64, false⟩ x == intVal ⟨w64, false⟩ y) = (intVal ⟨w64, true⟩ x == intVal ⟨w64, true⟩ y) := by
    rw [Bool.eq_iff_iff, beq_iff_eq, beq_iff_eq]
    exact intVal_signed_eq_iff w64 x y
  rcases h with rfl | rfl
  · exact hbeq
  · exact congrArg (! ·) hbeq

/-- Equality and inequality are the same in both cells (R65). -/
theorem exec_cmpSigned_eq_cmpUnsigned {r : Rel} (h : r = .eq ∨ r = .ne) (w64 : Bool) (d : LDst) (a b : LSrc) (s : State) :
    exec (.cmpSigned r w64 d a b) s = exec (.cmpUnsigned r w64 d a b) s := by
  have hv : (fun x y => bitVal (relHolds r (intVal ⟨w64, false⟩ x) (intVal ⟨w64, false⟩ y))) =
      (fun x y => bitVal (relHolds r (intVal ⟨w64, true⟩ x) (intVal ⟨w64, true⟩ y))) := by
    funext x y
    rw [relHolds_signed_eq_unsigned h]
  exact congrArg (fun f => laneAlu s (src2 w64 a b) d 1 (bin f)) hv

/-! ### Selection (R66) -/

theorem sel_completes (c a b : LSrc) : CompletesAs (.sel c a b)
    ⟨.push, 1, [⟨2, c, 1⟩, ⟨3, a, 1⟩, ⟨4, b, 1⟩], fun v => if v.getD 0 0 ≠ 0 then v.getD 1 0 else v.getD 2 0⟩ :=
  completesAs_of_laneAlu (tri (fun x y z => if x != 0 then y else z)) (fun _ => rfl) fun _ h => by
    rw [tri_eq_getD _ h]
    simp only [bne_iff_ne]

end Sys2Proof.Machine
end

section
namespace Sys2Proof.Machine

/-- Settles O8. The decoder's equation for each cell gives the words' part; each instruction is `laneAlu` of its form, which
`completesAs_of_laneAlu` turns into what its active lanes do, with queue ports and without. -/
theorem logicCompareAndSelect : Obligations.LogicCompareAndSelect := by
  unfold Obligations.LogicCompareAndSelect
  refine ⟨⟨fun w i h => ?_, ?_, ?_⟩, ⟨fun w hw => ?_, ?_, ?_⟩, fun w i hw h => ?_, sel_completes⟩
  · refine ⟨fun hw => ?_, fun hw => ?_, fun hw => ?_, fun hw => ?_, fun hw => ?_, fun hw => ?_⟩
    · exact logicCell_ok (decode_andR hw ▸ h)
    · exact logicCell_ok (decode_orR hw ▸ h)
    · exact logicCell_ok (decode_xorR hw ▸ h)
    · exact iForm_ok (decode_andI hw ▸ h)
    · exact iForm_ok (decode_orI hw ▸ h)
    · exact iForm_ok (decode_xorI hw ▸ h)
  · rintro w64 d a b op i (⟨rfl, rfl⟩ | ⟨rfl, rfl⟩ | ⟨rfl, rfl⟩)
    · exact ⟨_, fun x y n _ => BitVec.getLsbD_and, andR_completes w64 d a b⟩
    · exact ⟨_, fun x y n _ => BitVec.getLsbD_or, orR_completes w64 d a b⟩
    · exact ⟨_, fun x y n _ => BitVec.getLsbD_xor, xorR_completes w64 d a b⟩
  · rintro d a imm op i (⟨rfl, rfl⟩ | ⟨rfl, rfl⟩ | ⟨rfl, rfl⟩)
    · exact ⟨_, fun x n hn => by rw [BitVec.getLsbD_and, getLsbD_signExtended imm hn], andI_completes d a imm⟩
    · exact ⟨_, fun x n hn => by rw [BitVec.getLsbD_or, getLsbD_signExtended imm hn], orI_completes d a imm⟩
    · exact ⟨_, fun x n hn => by rw [BitVec.getLsbD_xor, getLsbD_signExtended imm hn], xorI_completes d a imm⟩
  · rcases hw with hw | hw
    · simp only [decode_cmpSigned hw, hw, if_true]
      exact ⟨compareCell_reserved _, fun _ => compareCell_ok⟩
    · simp only [decode_cmpUnsigned hw, hw, BitVec.reduceEq, if_false]
      exact ⟨compareCell_reserved _, fun _ => compareCell_ok⟩
  · rintro uns w64 r d a b i rfl v holds
    have hv : ∀ x, v x = intVal ⟨w64, uns⟩ x := fun x => by cases w64 <;> cases uns <;> rfl
    have hr : ∀ x y, holds x y = relHolds r x y := fun x y => by
      cases r with
      | ne => exact decide_not
      | _ => rfl
    simp only [hv, hr]
    exact cmp_completes uns w64 r d a b
  · exact fun w64 r d a b s h => exec_cmpSigned_eq_cmpUnsigned h w64 d a b s
  · exact selectCell_ok (decode_sel hw ▸ h)

end Sys2Proof.Machine
end

section
/-! SUPPORT. The sign-bit cell and the cell of `laneid` (02 R24, R36, 05 R83, 07 R119): what their words decode to, and what an accepted
one says. -/

namespace Sys2Proof

theorem r1Form_ok {f : FR} {wd wa : Bool} {k : LDst → LSrc → Instr} {i : Instr} (h : r1Form f wd wa k = .ok i) :
    ∃ d a, i = k d a := by
  obtain ⟨d, -, h⟩ := ok_of_bind_ok h
  obtain ⟨a, -, h⟩ := ok_of_bind_ok h
  exact ⟨d, a, (Except.ok.inj h).symm⟩

theorem eq_some_of_assigned_ok {α : Type} {o : Option α} {x : α} (h : assigned o = .ok x) : o = some x := by
  cases o with
  | none => cases h
  | some y => rw [Except.ok.inj h]

/-- The sub-operation field stands in the low four bits of a word. -/
theorem sub_extract (w : Word) {i n : Nat} (h : i + n ≤ 4) : (FR.of w).sub.extractLsb' i n = w.extractLsb' i n := by
  ext j hj
  have hij : i + j < 4 := by omega
  simp [FR.of, hij]

theorem FTy.ofBits_eq (c : BitVec 2) : FTy.ofBits c = ([FTy.f32, .f16, .bf16])[c.toNat]? := by
  revert c
  decide

/-! ### Cells -/

/-- The sign-bit cell (R83): bits [3:2] are the type, bits [1:0] the operation. -/
def signCell (w : Word) : Except Reject Instr := do
  let ty ← assigned (FTy.ofBits (w.extractLsb' 2 2))
  match (w.extractLsb' 0 2).toNat with
  | 0 => r1Form (FR.of w) false false (fun d a => .abs ty d a (bits w 4 7))
  | 1 => r1Form (FR.of w) false false (fun d a => .neg ty d a (bits w 4 7))
  | 2 => rForm (FR.of w) false false false (.csgn ty)
  | _ => .error .illegal

/-- The cell of `laneid` (R119): every field but the destination is 0. -/
def laneidCell (w : Word) : Except Reject Instr := do
  need (w.extractLsb' 0 18 == 0)
  let d ← readDst (FR.of w).d (LDst.ok false)
  .ok (.laneid d)

section
variable {w : Word}

theorem decode_sign (h : w.extractLsb' 24 8 = 0x27) : decode w = signCell w :=
  decode_of_lane_cell (cell := 0x27) h fun hc => by
    simp only [decodeLane, hc, sub_extract w (show 2 + 2 ≤ 4 by omega), sub_extract w (show 0 + 2 ≤ 4 by omega)]; rfl

theorem decode_laneid (h : w.extractLsb' 24 8 = 0x38) : decode w = laneidCell w :=
  decode_of_lane_cell (cell := 0x38) h fun hc => by simp only [decodeLane, hc]; rfl

/-! ### What an accepted word says -/

/-- Sub-operation 3 is reserved, whatever the type (R83). -/
theorem signCell_reserved (h : w.extractLsb' 0 2 = 3) : signCell w = .error .illegal := by
  unfold signCell
  rw [h]
  cases FTy.ofBits (w.extractLsb' 2 2) <;> rfl

theorem signCell_ok {i : Instr} (h : signCell w = .ok i) :
    ∃ ty d a b sp, ([FTy.f32, .f16, .bf16])[(w.extractLsb' 2 2).toNat]? = some ty ∧
      (w.extractLsb' 0 2 = 0 ∧ i = .abs ty d a sp ∨ w.extractLsb' 0 2 = 1 ∧ i = .neg ty d a sp ∨
        w.extractLsb' 0 2 = 2 ∧ i = .csgn ty d a b) := by
  obtain ⟨ty, hty, h⟩ := ok_of_bind_ok h
  have hty' := eq_some_of_assigned_ok hty
  rw [FTy.ofBits_eq] at hty'
  split at h
  next hsub =>
    obtain ⟨d, a, rfl⟩ := r1Form_ok h
    exact ⟨ty, d, a, a, _, hty', .inl ⟨BitVec.eq_of_toNat_eq hsub, rfl⟩⟩
  next hsub =>
    obtain ⟨d, a, rfl⟩ := r1Form_ok h
    exact ⟨ty, d, a, a, _, hty', .inr (.inl ⟨BitVec.eq_of_toNat_eq hsub, rfl⟩)⟩
  next hsub =>
    obtain ⟨d, a, b, rfl⟩ := rForm_ok h
    exact ⟨ty, d, a, b, 0, hty', .inr (.inr ⟨BitVec.eq_of_toNat_eq hsub, rfl⟩)⟩
  next => cases h

theorem laneidCell_ok {i : Instr} (h : laneidCell w = .ok i) : w.extractLsb' 0 18 = 0 ∧ ∃ d, i = .laneid d := by
  obtain ⟨hz, h⟩ := of_need_bind_ok h
  obtain ⟨d, -, h⟩ := ok_of_bind_ok h
  exact ⟨eq_of_beq hz, d, (Except.ok.inj h).symm⟩

end

end Sys2Proof
end

section
/-! SUPPORT. The sign-bit instructions as forms, and the bits of their results (05 R83). -/

namespace Sys2Proof.Machine

theorem testBit_signed (f : Fmt) (neg : Bool) {mag : Nat} (h : mag < 2 ^ (f.e + f.p)) (n : Nat) :
    (signed f neg mag).testBit n = if n < f.e + f.p then mag.testBit n else if n = f.e + f.p then neg else false := by
  have hsum : signed f neg mag = 2 ^ (f.e + f.p) * neg.toNat + mag := by cases neg <;> simp [signed]
  rw [hsum, Nat.testBit_two_pow_mul_add _ h]
  split
  next => rfl
  next hlt =>
    split
    next heq => rw [heq, Nat.sub_self]; cases neg <;> rfl
    next hne =>
      obtain ⟨j, hj⟩ : ∃ j, n - (f.e + f.p) = j + 1 := ⟨n - (f.e + f.p) - 1, by omega⟩
      rw [hj]
      cases neg <;> simp [Nat.testBit_succ]

/-- The sign bit stands above exponent and significand: `signVal` puts there what its function makes of it, copies the bits below,
and leaves none above. -/
theorem getLsbD_signVal (f : Fmt) (g : Bool → Bool) (v : DWord) {n : Nat} (hn : n < 64) :
    (signVal f g v).getLsbD n = if n < f.e + f.p then v.getLsbD n
      else if n = f.e + f.p then g (v.getLsbD n) else false := by
  have hsign : (v.toNat % 2 ^ f.width / 2 ^ (f.e + f.p) % 2 == 1) = v.getLsbD (f.e + f.p) := by
    have hw : f.e + f.p < f.width := by unfold Fmt.width; omega
    have hbit := Nat.testBit_eq_decide_div_mod_eq (x := v.toNat % 2 ^ f.width) (i := f.e + f.p)
    rw [Nat.testBit_mod_two_pow] at hbit
    simp only [hw, decide_true, Bool.true_and] at hbit
    exact hbit.symm
  unfold signVal
  rw [BitVec.getLsbD_ofNat, testBit_signed f _ (Nat.mod_lt _ (Nat.two_pow_pos _)), hsign]
  split
  next hlt =>
    have hw : n < f.width := by unfold Fmt.width; omega
    simp [hn, hlt, hw, BitVec.getLsbD]
  next =>
    split
    next heq => rw [heq, decide_eq_true (heq ▸ hn), Bool.true_and]
    next => simp

/-- The sign bit of a lane type (R83). -/
theorem ftyFmt_sign (ty : FTy) : (ftyFmt ty).e + (ftyFmt ty).p = if ty = .f32 then 31 else 15 := by
  cases ty <;> rfl

theorem abs_completes (ty : FTy) (d : LDst) (a : LSrc) (sp : BitVec 7) :
    CompletesAs (.abs ty d a sp) (.one false d 1 a (signVal (ftyFmt ty) (fun _ => false))) :=
  completesAs_one fun _ => rfl

theorem neg_completes (ty : FTy) (d : LDst) (a : LSrc) (sp : BitVec 7) :
    CompletesAs (.neg ty d a sp) (.one false d 1 a (signVal (ftyFmt ty) (fun n => !n))) :=
  completesAs_one fun _ => rfl

theorem csgn_completes (ty : FTy) (d : LDst) (a b : LSrc) :
    CompletesAs (.csgn ty d a b) (.two false d 1 a b (fun x y =>
      signVal (ftyFmt ty) (fun _ => y.getLsbD ((ftyFmt ty).e + (ftyFmt ty).p)) x)) :=
  completesAs_two fun _ => rfl

end Sys2Proof.Machine
end

section
/-! SUPPORT. What `maskOp`, the operation of every lane-mask instruction, does without ports in terms of the form that the statements
give the instruction (07 R118), and `laneid` as a form (R119). -/

namespace Sys2Proof.Machine

theorem deadField_of_live {s : State} {c : Ctx} {r : LaneForm} {l : Nat} (h : r.live s c = true) (hl : l ∈ maskLanes c.active) :
    deadField s.free c.sh l r.srcs = none := by
  unfold deadField
  split
  next hs =>
    simp only [LaneForm.live, hs, Bool.not_true, Bool.false_or, List.all_eq_true, Option.isNone_iff_eq_none] at h
    exact h l hl
  next => rfl

/-- What `maskOp` does where its form is ready: every participant has read before any writes, each one's destination takes the form's
value, and nothing else changes but the marked sources' liveness and the split's address. -/
theorem maskOp_form {s : State} {c : Ctx} (r : MaskForm) (f : Nat → List (Nat × List DWord) → Nat → DWord) (h : s.ctx = some c)
    (hr : r.fields.ready s c = true)
    (hv : ∀ l ∈ maskLanes c.active, f c.sh.width ((maskLanes c.active).map (fun l => (l, r.fields.reads s c l))) l =
      r.val c.sh.width (maskLanes c.active) (fun l => (r.fields.reads s c l).getD 0 0) (fun l => (r.fields.reads s c l).getD 1 0) l) :
    maskOp s r.srcs r.dst r.words f = .next (s.setSheaf c.k (r.sheaf s c)) := by
  simp only [LaneForm.ready, Bool.and_eq_true, Option.isNone_iff_eq_none] at hr
  obtain ⟨⟨hp, hb⟩, hlive⟩ := hr
  obtain ⟨hsrc, hdst⟩ : noPorts r.srcs ∧ r.dst.port = none := portless_iff hp
  have hnamed : namedFault c.sh.named ((1, r.dst.top r.words) :: r.srcs.map (fun u => (u.field, u.src.reg.top u.words))) = none :=
    beyond_none hb
  have hs := (State.ctx_some h).2.1
  have hdead : (maskLanes c.active).findSome? (fun l => deadField s.free c.sh l r.srcs) = none :=
    List.findSome?_eq_none_iff.mpr fun l hl => deadField_of_live hlive hl
  have hports := lanePorts_portless r.srcs r.dst (maskLanes c.active).length hsrc hdst
  have hvals : ∀ ps, mapIdxFrom (fun rank l => (l, (laneValues s.free c.sh l rank r.srcs ps).map wordsVal)) 0 (maskLanes c.active) =
      (maskLanes c.active).map (fun l => (l, r.fields.reads s c l)) := fun ps => by
    rw [mapIdxFrom_eq_map_idxOf _ _ _ (maskLanes_nodup _)]
    refine List.map_congr_left fun l _ => ?_
    rw [laneValues_portless _ _ _ _ _ _ hsrc, List.map_map]
    rfl
  unfold maskOp
  rw [issue_some _ h, checkNamed_within _ _ _ _ hnamed]
  simp only [hdead, hports, popFields_portless _ _ _ _ hsrc, hvals, hdst, List.findSome?_nil,
    State.portNeeds, List.filterMap_nil, State.portsReady, List.all_nil, Bool.not_true, Bool.false_eq_true, if_false]
  rw [modLanes_eq _ (fun l ln => (ln.killUses r.srcs).writeEntries r.dst _) hs (maskLanes_nodup _), State.advance, State.goto,
    State.putSplit_setSheaf]
  unfold MaskForm.sheaf
  congr 3
  refine congrArg (mapIdxFrom · 0 c.sh.lanes) (funext fun l => funext fun ln => ?_)
  by_cases hl : l ∈ maskLanes c.active
  · rw [if_pos hl, if_pos ((mem_maskLanes _ _).mp hl), hv l hl]
    rfl
  · rw [if_neg hl, if_neg (mt (mem_maskLanes _ _).mpr hl)]

/-- The form that the statements give `laneid` (R119). -/
def laneidForm (d : LDst) : MaskForm := ⟨d, 1, [], fun _ _ _ _ l => BitVec.ofNat 64 l⟩

theorem maskForm_laneid (d : LDst) : maskForm (.laneid d) = some (laneidForm d) := rfl

theorem exec_laneid {s : State} {c : Ctx} (d : LDst) (h : s.ctx = some c) (hr : (LaneForm.const d 0).ready s c = true) :
    exec (.laneid d) s = .next (s.setSheaf c.k ((laneidForm d).sheaf s c)) :=
  calc exec (.laneid d) s
    _ = maskOp s (laneidForm d).srcs (laneidForm d).dst (laneidForm d).words (fun _ _ l => BitVec.ofNat 64 l) := rfl
    _ = _ := maskOp_form (laneidForm d) _ h hr fun _ _ => rfl

/-- A lane-mask instruction changes nothing of its sheaf but the lanes and the control state. -/
theorem MaskForm.sheaf_frame (r : MaskForm) (s : State) (c : Ctx) :
    { r.sheaf s c with lanes := c.sh.lanes, ctl := c.sh.ctl } = c.sh := rfl

/-- Each participant takes its own index; a lane of no participant is as it was. -/
theorem laneidForm_lanes (d : LDst) (s : State) {c : Ctx} {l : Nat} {ln : Lane} (h : c.sh.lanes[l]? = some ln) :
    ((laneidForm d).sheaf s c).lanes[l]? =
      some (if c.active.getLsbD l then ln.writeEntries d [⟨BitVec.ofNat 32 l, true, none⟩] else ln) := by
  have hlo : DWord.lo (BitVec.ofNat 64 l) = BitVec.ofNat 32 l := by
    rw [DWord.lo, ← BitVec.setWidth_eq_extractLsb' (by decide), BitVec.setWidth_ofNat_of_le (by decide)]
  simp [MaskForm.sheaf, laneidForm, getElem?_mapIdxFrom, h, hlo, Lane.killUses]

end Sys2Proof.Machine
end

section
namespace Sys2Proof.Machine

/-- Settles O9. The sign-bit instructions are `laneAlu` of `signVal`, whose bits `getLsbD_signVal` gives; `laneid` is `maskOp` of a form
without sources. -/
theorem signBitAndLaneIndex : Obligations.SignBitAndLaneIndex := by
  unfold Obligations.SignBitAndLaneIndex
  refine ⟨⟨fun w hw => ?_, fun ty d a b sp => ?_⟩, fun w i hw h => ?_, ?_, fun d s c h hr => ?_⟩
  · rw [decode_sign hw]
    exact ⟨signCell_reserved, fun i => signCell_ok⟩
  · intro sign kept
    have hsign : (ftyFmt ty).e + (ftyFmt ty).p = sign := ftyFmt_sign ty
    have hbits : ∀ (g : Bool → Bool) (x : DWord) (n : Nat), n ≤ 31 → (signVal (ftyFmt ty) g x).getLsbD n =
        if n < sign then x.getLsbD n else if n = sign then g (x.getLsbD n) else false := fun g x n hn => by
      rw [getLsbD_signVal _ g x (by omega), hsign]
    refine ⟨⟨fun x _ => signVal (ftyFmt ty) (fun _ => false) x, fun x _ => hbits _ x, abs_completes ty d a sp⟩,
      ⟨fun x _ => signVal (ftyFmt ty) (fun n => !n) x, fun x _ => hbits _ x, neg_completes ty d a sp⟩,
      ⟨_, fun x y n hn => ?_, csgn_completes ty d a b⟩⟩
    rw [hbits _ x n hn, hsign]
    by_cases h : n = sign
    · rw [h]
    · rw [if_neg h, if_neg h]
  · exact laneidCell_ok (decode_laneid hw ▸ h)
  · rw [decode_laneid (by decide)]
    rfl
  · exact ⟨_, exec_laneid d h hr, MaskForm.sheaf_frame _ s c, fun l ln => laneidForm_lanes d s⟩

end Sys2Proof.Machine
end
